-- ==== Sys2Proof/Word.lean ====
section
/-! DEFINITION. The word types of the machine (R3, R21): bytes, 32-bit words and 64-bit time stamps. -/

namespace Sys2Proof

/-- A byte of memory. -/
abbrev Byte := BitVec 8
/-- A 32-bit word: a control register, an accumulator, a data word. -/
abbrev Word := BitVec 32
/-- A 64-bit value: ACH:ACC, a time stamp. -/
abbrev Long := BitVec 64
/-- A value of the time base TB: nanoseconds, in increments of 8 ns (R19, Table 0.5). -/
abbrev Time := BitVec 64
/-- An agent ID of Table 0.3. -/
abbrev AgentId := BitVec 8

end Sys2Proof
end

