-- ==== Sys2Proof/Syntax.lean ====
section
/-! DEFINITION. The commands of the block, one per row of the spec's table of operations and events, and the plain data that
their operands carry. A timed event carries `now`, the TB instant (R19) at which it takes place. -/

namespace Sys2Proof

/-! ### Access by agents -/

/-- What ECC reports of the memory words that a step reads (R299): no error, a corrected single-bit error, an uncorrectable one. -/
inductive Ecc where
  | ok
  | corrected
  | uncorrectable
deriving DecidableEq, Repr

/-- How an access reaches the chip: with an address of the system map, or, from the host, with an offset into BAR0, BAR2 or the
endpoint's configuration space (R330 to R333). A host access with an address of the system map stands for one that its BAR has led there. -/
inductive Via where
  | bus
  | bar0
  | bar2
  | cfg
deriving DecidableEq, Repr

/-- A control-register access by an agent (R4, R6): `size` is the access size in bytes, and `sets` the W1C bits of the register that
hardware sets in the same handshake (R7), the event that sets them having come before. -/
structure RegAccess where
  agent : AgentId
  via : Via
  addr : Word
  size : Nat
  write : Bool
  value : Word
  sets : Word
  now : Time
deriving DecidableEq, Repr

/-- A memory access by an agent (R24, R471). `len` is the number of bytes of a read; a write carries its bytes in `data`. `ecc` is what
the ECC of the words read reports, `sets` the W1C bits that hardware sets in the same handshake in the register that a write reaches (R7). -/
structure MemAccess where
  agent : AgentId
  via : Via
  addr : Word
  len : Nat
  write : Bool
  data : List Byte
  ecc : Ecc
  sets : Word
  now : Time
deriving DecidableEq, Repr

/-- A write of a command register by an agent, with the TB instant, whether a fault or a FENCE_N assertion reaches the mode
controller in the same handshake (R33), and the W1C bits of the register that hardware sets in the same handshake (R7), the event that
sets them having come before. -/
structure Cmd where
  agent : AgentId
  value : Word
  preempted : Bool
  sets : Word
  now : Time
deriving DecidableEq, Repr

/-! ### Kazhin instructions -/

/-- The executor that issues an instruction: a logical engine or a management core. -/
inductive Exec where
  | le (e : Fin 16)
  | mc (m : Fin 2)
deriving DecidableEq, Repr

/-- What the debug port does to an engine or a core (Table 20.4): it halts it, lets a halted one issue one instruction, reads its state, reads or writes
an entry of its return stack (0 is the top) or, of an engine, of its journal (0 is the oldest). -/
inductive DebugAct where
  | halt
  | step
  | regs
  | stack (k : Nat)
  | stackPut (k : Nat) (pc ibD : Word) (ibB : BitVec 24) (flg : BitVec 5) (ba : Bool)
  | journal (k : Nat)
  | journalPut (k : Nat) (data mask : Long)
deriving DecidableEq, Repr

/-- An act of the debug port on an executor. -/
structure DebugOp where
  unit : Exec
  act : DebugAct
deriving DecidableEq, Repr

/-- A physical disturbance of the shadow copy during one instruction: bits inverted in its ACC, IX, BA and in the OPD field that
it decodes. All zero when the engine is fault-free. -/
structure Upset where
  acc : Word
  ix : Word
  ba : Bool
  opd : BitVec 18
deriving DecidableEq, Repr

/-- The issue of one Kazhin instruction (R93): the fields of its first word, the extension word (0 where it has none), what ECC
reports of its reads, the disturbance of the shadow copy, the W1C bits that hardware sets in the same handshake in the register that a core's store
reaches (R7), and the TB instant of issue. The opcode is the command's row. -/
structure Op where
  x : Exec
  cond : BitVec 4
  am : BitVec 3
  opd : BitVec 18
  ext : Word
  ecc : Ecc
  upset : Upset
  sets : Word
  now : Time
deriving DecidableEq, Repr

/-- A fault as a block raises it (R282): class, source kind, instance, cause, detecting agent, the activation that raised it, and
whether its chapter asks for ERR_SYS. -/
structure FaultIn where
  cls : Fin 4
  skind : Nat
  inst : Nat
  cause : Nat
  agent : AgentId
  task : Option (Fin 32)
  sys : Bool
deriving DecidableEq, Repr

/-! ### Images, packages and messages -/

/-- A variable of the symbol directory (R192, R208): SPACE and SIZE as OLC_FINFO codes them. -/
structure Symbol where
  id : Word
  space : Nat
  size : Nat
  loc : Nat
  owner : Fin 32
deriving DecidableEq, Repr

/-- A migration-map entry (Table 7.3), also used by the legacy map (R278). -/
structure MigEntry where
  id : Word
  action : Nat
  fromSz : Nat
  toSz : Nat
  count : Nat
  src : Word
  dst : Word
deriving DecidableEq, Repr

/-- The sections of a change package (R192), which its directory locates (log entry 9): the new values of descriptor registers (by address), the
code segments, the migration map as its bytes (Table 7.3), the initial-value block, the new symbol directory, the retentive ranges after activation
(RETAIN_DIGEST) and the code range of
the task. -/
structure PkgSections where
  regs : List (Nat × Word)
  code : List (Nat × List Byte)
  map : List Byte
  init : List Byte
  syms : List Symbol
  retain : List (Nat × Nat)
  codeLo : Nat
  codeHi : Nat
deriving DecidableEq, Repr

/-- An entry of the LAYOUT section (R457): the xSPI offsets of the two banks of a kind, and their size. -/
structure BankPlace where
  kind : Nat
  a : Nat
  b : Nat
  size : Nat
deriving DecidableEq, Repr

/-- The sections of a configuration image that the directory locates: the values of configured control registers (descriptors,
station and block configuration, locks), code, initial data and bits, the retentive ranges of the data store and of the bit
store's byte view, the timer list (R49), the symbol directory, the legacy map, the contents of block memories such as
the recorder's code table (R354), the edges LO and WIDTH of its value histograms by code, the type ID and capability word, the pulse width PW in µs
and the CRC of the parameter set of each station by its index
(R228, R230), the parameter records as number, bank offset and length (R378), the running build ID, the
LAYOUT (R457), the agreement list of the GUARD section (R476), the bit addresses of the edge previous-state bits in retentive instances
(Table 2.6), the bus mode and the capacity in sectors of the eMMC (ch. 1), and Vendor ID and subsystem IDs of the endpoint (Table 12.1). -/
structure Sections where
  regs : List (Nat × Word)
  code : List (Nat × List Byte)
  data : List (Nat × List Byte)
  retain : List (Nat × Nat)
  timers : List Word
  syms : List Symbol
  legacy : List MigEntry
  legacyInit : List Byte
  tables : List (Nat × List Byte)
  idents : List (Nat × Word × Word)
  pulse : List (Nat × Nat)
  pchk : List (Nat × Word)
  recTab : List (Nat × Nat × Nat)
  buildId : Long
  layout : List BankPlace
  hist : List (Nat × Word × Word)
  agree : List (List Byte)
  edges : List Nat
  emmcMode : Nat
  emmcSectors : Nat
  vendor : BitVec 16
  subsystem : Word
deriving DecidableEq, Repr

/-- What becomes of cells of the parameter store, given by their numbers, before a command acts: some read with an uncorrectable error from then
on, and the writes of some fail (R375). -/
structure Cells where
  bad : List Nat
  stuck : List Nat
deriving DecidableEq, Repr

/-- A read of a counter: its agent, and the cells of the store that have come to read with an uncorrectable error (R375, R384). -/
structure CounterRead where
  agent : AgentId
  bad : List Nat
deriving DecidableEq, Repr

/-- What a boot meets (R40): whether the xSPI NOR can be read in octal DDR, the physical engines and cores that fail the self-test, the
sections of the configuration image in each bank (after migration, where it is due), what the conversion makes of each bank's image from
DIR_OFF on (R45), the tables of the mimic assets in each bank, and what has become of the cells of the parameter store. -/
structure BootInput where
  octal : Bool
  engFail : List (Fin 18)
  coreFail : List (Fin 2)
  secA : Sections
  secB : Sections
  convA : List Byte
  convB : List Byte
  assetsA : List Byte
  assetsB : List Byte
  cells : Cells
deriving DecidableEq, Repr

/-- A sample-ledger entry (Table 5.5). -/
structure Ledger where
  value : Long
  src : Nat
  ba : Bool
  task : Fin 32
  index : Nat
  sel : Nat
deriving DecidableEq, Repr

/-- A heartbeat record (Table 9.6); `crcOk` says whether its CRC agrees. -/
structure HbRecord where
  pid : Bool
  claim : Bool
  locked : Bool
  fenced : Bool
  lineFlt : Bool
  rsReq : Bool
  mode : Nat
  role : Nat
  seq : BitVec 16
  tbl : Word
  crcOk : Bool
deriving DecidableEq, Repr

/-- A TOKEN (Table 9.3): the released task, its scan number or release count, TS, the entry registers of an error task. -/
structure Token where
  num : Word
  ts : Time
  acc : Word
  ach : Word
  ix : Word
  iy : Word
deriving DecidableEq, Repr

/-- A slot of a cyclic frame as it comes back (Table 8.3): STATION, what the station wrote, and its inputs as 32-bit words. -/
structure RingSlot where
  station : Nat
  crcOk : Bool
  valid : Bool
  fresh : Bool
  diag : Bool
  lnkok : Bool
  wrap : Bool
  pchk : Word
  bits : List Word
  words : List Word
deriving DecidableEq, Repr

/-- A frame that comes back to the chip (R216 to R220): TYPE, how it ended, its header check, the slots that arrived in station order, and the
round trip in units of 8 ns. -/
structure RingFrame where
  type : Nat
  abort : Bool
  eof : Bool
  hcrcOk : Bool
  slots : List RingSlot
  rtd : Nat
deriving DecidableEq, Repr

/-- What a station answers in enumeration (R228). -/
structure StnIdent where
  s : Fin 32
  type : Word
  cap : Word
  pchk : Word
deriving DecidableEq, Repr

/-- The result of an enumeration (R228): the round trip of link 0 in units of 8 ns, whether the ring is broken and then BRKPOS (none: no station
on the link 0 leg) and the round trips of both legs in ns, and the stations that answered. -/
structure EnumReport where
  link0 : Nat
  leg0 : Nat
  leg1 : Nat
  broken : Bool
  brkpos : Option Nat
  idents : List StnIdent
deriving DecidableEq, Repr

/-- An ACR frame (R240): its checks, the station error code where it reports one, and its data. -/
structure AcrFrame where
  ok : Bool
  station : Nat
  serr : Option Nat
  data : List Byte
deriving DecidableEq, Repr

/-- A ring as a STATUS frame reports it. -/
structure RingReport where
  state : Nat
  rtd : Nat
  cycno : Word
deriving DecidableEq, Repr

/-- The header of a sync-link frame (Table 9.2) as received: whether its checks agree, FSEQ and ACK. -/
structure SyncHdr where
  ok : Bool
  fseq : Word
  ack : Word
deriving DecidableEq, Repr

/-- A force entry in a state block: value in effect and staged change (a value, or a clear). -/
structure ForceImage where
  sym : Symbol
  owner : Option (Fin 32)
  cur : Option Long
  pend : Option (Option Long)
deriving DecidableEq, Repr

/-- What a state block holds of a task beside its registers. -/
structure TaskImage where
  t : Fin 32
  first : Bool
  overrun : Bool
  outDone : Bool
  lastRel : Option Time
deriving DecidableEq, Repr

/-- The state block of a join (Table 9.8): register values and staged values, force table, symbols, retentive layout, task state, image
stores and ring states, with the active unit's TB. -/
structure StateBlock where
  tb : Time
  regs : List (Nat × Word)
  staged : List (Nat × Word)
  forces : List ForceImage
  syms : List Symbol
  digest : Long
  retain : List (Nat × Nat)
  tasks : List TaskImage
  images : List (List (Nat × Word))
  rings : List RingReport
deriving DecidableEq, Repr

/-- A block of an OVX-3300's state (R279): data from a byte address, or bits from a bit address that is a multiple of 8, and the offset of
its TB. -/
structure LegacyBlock where
  bits : Bool
  base : Nat
  data : List Byte
  ofs : Time
deriving DecidableEq, Repr

/-- The hand-over record of an OVX-3300 (R280): its last completed cycle number and the instant of the next release. -/
structure LegacyRecord where
  cycle : Nat
  next : Time
deriving DecidableEq, Repr

/-- What an RSCTL frame says (Table 9.3); a request names the engines that the requester has mapped. -/
inductive RsCtl where
  | request (map : BitVec 16)
  | accept
  | refuse (rsn : Nat)
  | passStart
  | join (b : StateBlock)
  | done
  | abort (rsn : Nat)
  | handover
deriving DecidableEq, Repr

/-- A sync-link frame (Table 9.3), by its payload. -/
inductive SyncMsg where
  | hb (r : HbRecord)
  | token (t : Fin 32) (k : Token)
  | inpart (t : Fin 32) (bits words : List (Nat × Word))
  | ledger (e : Fin 16) (l : Ledger)
  | retract (e : Fin 16) (t : Fin 32) (index : Nat)
  | endmk (t : Fin 32) (num : Word) (how : Nat) (code : Nat)
  | hash (t : Fin 32) (num : Word) (h : Long)
  | stage (t : Fin 32) (addr : Nat) (value : Word) (num : Word)
  | status (tb : Time) (rings : List RingReport) (build staged : Long) (crc : Word)
  | rspage (page : Nat) (gen : Nat) (data : List Byte)
  | rsctl (c : RsCtl)
deriving DecidableEq, Repr

/-! ### CAN -/

/-- A frame valid on the bus (R319), with TB at its start of frame (R321). A base identifier stands in bits 28:18 (Table 11.1). -/
structure CanFrame where
  ide : Bool
  id : BitVec 29
  fdf : Bool
  brs : Bool
  esi : Bool
  rtr : Bool
  dlc : Fin 16
  data : List Byte
  stamp : Time
deriving DecidableEq, Repr

/-- An error that the protocol engine detects: LEC, and what ISO 11898-1 adds for it to TEC and to REC (R326). -/
structure CanErr where
  lec : Fin 7
  tec : Nat
  rec_ : Nat
deriving DecidableEq, Repr

/-- How a transmit attempt ends (R323): sent, with the stamp of its start and the delay measured (R311), arbitration lost, or an error, with the
delay measured before it; a delay above 127 mtq is such an error. -/
inductive CanEnd where
  | sent (stamp : Time) (delay : Option (Fin 128))
  | lost
  | error (e : CanErr) (delay : Option (Fin 128)) (delayOvf : Bool)
deriving DecidableEq, Repr

/-! ### Power -/

/-- What the supervisor and the pins show at power-good (R489, R491, R492): PAIR_ID, TESTEN, PFAIL_N low, FENCE_N asserted, which feeds
are good, and RST_N still low. -/
structure PowerOn where
  pairId : Bool
  testen : Bool
  pfailLow : Bool
  fence : Bool
  a : Bool
  b : Bool
  rstLow : Bool
deriving DecidableEq, Repr

/-- A command: one constructor per row of the table of operations and events, in the table's order. -/
inductive Instr where
  /-- REGISTER_WRITE (R6): A write to a control register that has no row of its own takes effect according to the access code of each field. -/
  | registerWrite (a : RegAccess)
  /-- AGENT_MEMORY_ACCESS (R471): An agent's access to SRAM, the parameter store window or the xSPI window is checked against the fixed rules and the
  partitions and then carried out. -/
  | agentMemoryAccess (a : MemAccess)
  /-- POWER_ON_RESET (R38): Power-good from the feed supervisor resets the chip into LOAD and preserves only the nonvolatile and backup contents. -/
  | powerOnReset (p : PowerOn) (now : Time)
  /-- PIN_RESET (R38): RST_N held low for at least 1 µs resets the chip into LOAD and preserves SYS_MAPSEQ and SYS_RSTCAUSE. -/
  | pinReset (now : Time)
  /-- POWER_GOOD_LOST (R490): A rail of the feed in use falls below its power-good threshold for 1 µs, and the chip is held in power-on reset. -/
  | powerGoodLost (now : Time)
  /-- PFAIL_STARTUP_WAIT_END (R492): After PFAIL_N has been high for 10 ms, the boot ROM ends its wait and the flush triggers become active. -/
  | pfailStartupWaitEnd (now : Time)
  /-- BOOT_SEQUENCE (R40): On leaving reset, the boot ROM checks the ROM, builds the engine map, tests the engines, chooses and loads the images, and
  enters STOP. -/
  | bootSequence (b : BootInput) (now : Time)
  /-- REFCLK_STOPPED (R496): The clock monitor finds that REFCLK has stopped for 1 µs and raises a UNIT fault with cause 0x4C. -/
  | refclkStopped (now : Time)
  /-- SYS_STOP (R30): The STOP command lets scans that have begun INPUT finish and starts no further task. -/
  | sysStop (w : Cmd)
  /-- STOP_TRANSITION_COMPLETE (R30): Once the last scan has finished, the transition from RUN to STOP completes and outputs take substitute values. -/
  | stopTransitionComplete (now : Time)
  /-- SYS_RUN_COLD (R47): The RUN_COLD command checks the configuration, initialises all state from the image and enters RUN. -/
  | sysRunCold (w : Cmd)
  /-- SYS_RUN_WARM (R48): The RUN_WARM command restores retentive data from a matching flush record and enters RUN, or is refused. -/
  | sysRunWarm (w : Cmd)
  /-- START_MODE_RESTART (R501): Once every configured ring is ready, the image's start mode takes the chip from STOP into RUN. -/
  | startModeRestart (now : Time)
  /-- RING_READY_TIMEOUT (R501): A configured ring counts as ready once 2 ms plus 40 ms per station have passed since STOP without its enumeration
  completing. -/
  | ringReadyTimeout (r : Fin 4) (now : Time)
  /-- SYS_INTERMISSION (R449): The INTERMISSION command, accepted in STOP, begins powering down the chip into INTERMISSION. -/
  | sysIntermission (w : Cmd)
  /-- SYS_LEAVE_SAFEHOLD (R29): LEAVE_SAFEHOLD returns the chip to STOP from a SAFE-HOLD that FENCE_N alone caused, once FENCE_N is released. -/
  | sysLeaveSafehold (w : Cmd)
  /-- SYS_SOFTWARE_RESET (R38): The software-reset command resets the chip into LOAD and preserves what a pin reset preserves. -/
  | sysSoftwareReset (w : Cmd)
  /-- FENCE_N_ASSERTED (R269): FENCE_N, filtered for 1 µs, closes the ring gate, releases the claim and enters SAFE-HOLD. -/
  | fenceNAsserted (now : Time)
  /-- NOP (R102): No operation. -/
  | nop (o : Op)
  /-- LDSB (R103): Loads a sign-extended byte into ACC. -/
  | ldsb (o : Op)
  /-- LDUB (R103): Loads a zero-extended byte into ACC. -/
  | ldub (o : Op)
  /-- LDSH (R103): Loads a sign-extended 16-bit value into ACC. -/
  | ldsh (o : Op)
  /-- LDUH (R103): Loads a zero-extended 16-bit value into ACC. -/
  | lduh (o : Op)
  /-- LDW (R103): Loads a word operand into ACC. -/
  | ldw (o : Op)
  /-- LDL (R103): Loads a 64-bit operand into ACH:ACC. -/
  | ldl (o : Op)
  /-- LDAH (R103): Loads a word operand into ACH. -/
  | ldah (o : Op)
  /-- STBY (R103): Stores ACC[7:0] as a byte. -/
  | stby (o : Op)
  /-- STHW (R103): Stores ACC[15:0] as a 16-bit value. -/
  | sthw (o : Op)
  /-- STW (R103): Stores ACC as a word, which may be a Q word. -/
  | stw (o : Op)
  /-- STL (R103): Stores ACH:ACC as 8 bytes. -/
  | stl (o : Op)
  /-- STAH (R103): Stores ACH as a word. -/
  | stah (o : Op)
  /-- LEA (R102): Loads an effective address into ACC without accessing memory. -/
  | lea (o : Op)
  /-- PSH (R68): Pushes ACC, or ACH:ACC, onto the data stack. -/
  | psh (o : Op)
  /-- POP (R68): Pops the data stack into ACC, or into ACH:ACC. -/
  | pop (o : Op)
  /-- MOVR (R104): Copies one register into another, with checks on FLG, BA and DSP writes. -/
  | movr (o : Op)
  /-- ADD (R102): Adds the operand to ACC. -/
  | add (o : Op)
  /-- ADC (R102): Adds the operand and the carry to ACC. -/
  | adc (o : Op)
  /-- SUB (R102): Subtracts the operand from ACC. -/
  | sub (o : Op)
  /-- SBC (R102): Subtracts the operand with borrow from ACC. -/
  | sbc (o : Op)
  /-- RSB (R102): Sets ACC to the operand minus ACC. -/
  | rsb (o : Op)
  /-- MULS (R105): Signed 32 × 32 multiply into ACH:ACC. -/
  | muls (o : Op)
  /-- MULU (R105): Unsigned 32 × 32 multiply into ACH:ACC. -/
  | mulu (o : Op)
  /-- DIVS (R105): Signed divide: quotient to ACC and remainder to ACH. -/
  | divs (o : Op)
  /-- DIVU (R105): Unsigned divide: quotient to ACC and remainder to ACH. -/
  | divu (o : Op)
  /-- NEG (R102): Negates ACC. -/
  | neg (o : Op)
  /-- ABS (R102): Sets ACC to its absolute value. -/
  | abs (o : Op)
  /-- CMP (R102): Sets the flags from ACC minus the operand. -/
  | cmp (o : Op)
  /-- CHK (R106): Checks ACC against a lower and an upper limit and raises the bounds exception when it lies outside them. -/
  | chk (o : Op)
  /-- ADX (R102): Adds an immediate to IX. -/
  | adx (o : Op)
  /-- ADY (R102): Adds an immediate to IY. -/
  | ady (o : Op)
  /-- AND (R102): Bitwise AND into ACC. -/
  | andW (o : Op)
  /-- OR (R102): Bitwise OR into ACC. -/
  | orW (o : Op)
  /-- XOR (R102): Bitwise XOR into ACC. -/
  | xorW (o : Op)
  /-- NOT (R102): Bitwise complement of ACC. -/
  | notW (o : Op)
  /-- SHL (R107): Shifts ACC left. -/
  | shl (o : Op)
  /-- SHR (R107): Shifts ACC right, logically. -/
  | shr (o : Op)
  /-- SAR (R107): Shifts ACC right, arithmetically. -/
  | sar (o : Op)
  /-- ROL (R107): Rotates ACC left. -/
  | rol (o : Op)
  /-- ROR (R107): Rotates ACC right. -/
  | ror (o : Op)
  /-- LDX (R103): Loads IX from the operand. -/
  | ldx (o : Op)
  /-- LDY (R103): Loads IY from the operand. -/
  | ldy (o : Op)
  /-- STX (R103): Stores IX. -/
  | stx (o : Op)
  /-- STY (R103): Stores IY. -/
  | sty (o : Op)
  /-- SEXT (R102): Sign-extends the low byte or halfword of ACC. -/
  | sext (o : Op)
  /-- ZEXT (R102): Zero-extends the low byte or halfword of ACC. -/
  | zext (o : Op)
  /-- ADDL (R102): 64-bit add into ACH:ACC. -/
  | addl (o : Op)
  /-- SUBL (R102): 64-bit subtract from ACH:ACC. -/
  | subl (o : Op)
  /-- CMPL (R102): 64-bit compare that sets the flags. -/
  | cmpl (o : Op)
  /-- NEGL (R102): 64-bit negate of ACH:ACC. -/
  | negl (o : Op)
  /-- MULL (R105): Lower 64 bits of the signed 64-bit product. -/
  | mull (o : Op)
  /-- DIVSL (R105): Signed 64-bit quotient. -/
  | divsl (o : Op)
  /-- REMSL (R105): Signed 64-bit remainder. -/
  | remsl (o : Op)
  /-- DIVUL (R105): Unsigned 64-bit quotient. -/
  | divul (o : Op)
  /-- SHFL (R107): 64-bit shift of the kind and count that the instruction selects. -/
  | shfl (o : Op)
  /-- ANDL (R102): 64-bit AND. -/
  | andl (o : Op)
  /-- ORL (R102): 64-bit OR. -/
  | orl (o : Op)
  /-- XORL (R102): 64-bit XOR. -/
  | xorl (o : Op)
  /-- NOTL (R102): 64-bit NOT. -/
  | notl (o : Op)
  /-- CVT (R108): Performs the type conversion that the selector in OPD[5:0] names. -/
  | cvt (o : Op)
  /-- SEL (R102): Reads and checks the operand, and loads it into ACC when BA is 1. -/
  | sel (o : Op)
  /-- LDB (R102): Loads a bit into BA. -/
  | ldb (o : Op)
  /-- LDBN (R102): Loads the complement of a bit into BA. -/
  | ldbn (o : Op)
  /-- ANDB (R102): ANDs a bit into BA. -/
  | andb (o : Op)
  /-- ANDBN (R102): ANDs the complement of a bit into BA. -/
  | andbn (o : Op)
  /-- ORB (R102): ORs a bit into BA. -/
  | orb (o : Op)
  /-- ORBN (R102): ORs the complement of a bit into BA. -/
  | orbn (o : Op)
  /-- XORB (R102): XORs a bit into BA. -/
  | xorb (o : Op)
  /-- STBT (R102): Stores BA into a bit. -/
  | stbt (o : Op)
  /-- STBN (R102): Stores NOT BA into a bit. -/
  | stbn (o : Op)
  /-- SETB (R102): Sets a bit to 1. -/
  | setb (o : Op)
  /-- RSTB (R102): Clears a bit to 0. -/
  | rstb (o : Op)
  /-- BAO (R102): Inverts, sets or clears BA, as OPD[1:0] selects. -/
  | bao (o : Op)
  /-- PSHB (R102): Pushes BA as a stack slot holding 0 or 1. -/
  | pshb (o : Op)
  /-- POPB (R102): Pops a slot and loads, ANDs or ORs its bit [0] into BA. -/
  | popb (o : Op)
  /-- LDBB (R102): Sets BA to 1 when a byte is non-zero, else to 0. -/
  | ldbb (o : Op)
  /-- STBB (R102): Stores BA as a byte of 0x01 or 0x00. -/
  | stbb (o : Op)
  /-- BR (R99): Branches to the target of the branch form. -/
  | br (o : Op)
  /-- CALL (R110): Calls without changing IB and pushes a return-stack entry. -/
  | call (o : Op)
  /-- CALE (R110): Calls an embedded function-block instance and loads the new IB. -/
  | cale (o : Op)
  /-- CALI (R110): Calls through an instance pointer and loads the new IB. -/
  | cali (o : Op)
  /-- RET (R110): Returns and restores PC and IB from the return stack. -/
  | ret (o : Op)
  /-- IPA (R111): Forms the instance pointer of an embedded instance in ACH:ACC. -/
  | ipa (o : Op)
  /-- ALOC (R69): Adjusts DSP by a signed number of slots, with stack checks. -/
  | aloc (o : Op)
  /-- ENDT (R112): Ends the activation, discards extra return entries and passes control to the scheduler. -/
  | endt (o : Op)
  /-- TON (R114): Evaluates an on-delay timer record against TS. -/
  | ton (o : Op)
  /-- TOF (R114): Evaluates an off-delay timer record against TS. -/
  | tof (o : Op)
  /-- TP (R114): Evaluates a pulse timer record against TS. -/
  | tp (o : Op)
  /-- TRS (R102): Clears the status DWORD of a timer record. -/
  | trs (o : Op)
  /-- RED (R115): Detects a rising edge against a previous-state bit and updates that bit. -/
  | red (o : Op)
  /-- FED (R115): Detects a falling edge against a previous-state bit and updates that bit. -/
  | fed (o : Op)
  /-- LDG (R116): Reads TB, the clock, a station, a mailbox word or a status bit and enters the value in the sample ledger. -/
  | ldg (o : Op)
  /-- TSC (R113): Loads the scan time stamp TS into ACH:ACC. -/
  | tsc (o : Op)
  /-- FADD (R83): binary32 addition. -/
  | fadd (o : Op)
  /-- FSUB (R83): binary32 subtraction. -/
  | fsub (o : Op)
  /-- FMUL (R83): binary32 multiplication. -/
  | fmul (o : Op)
  /-- FDIV (R83): binary32 division. -/
  | fdiv (o : Op)
  /-- FCMP (R109): binary32 compare that sets the flags of Table 4.8. -/
  | fcmp (o : Op)
  /-- FSQRT (R83): binary32 square root. -/
  | fsqrt (o : Op)
  /-- FUN (R102): Negates or takes the absolute value of a float by its sign bit alone. -/
  | fun (o : Op)
  /-- DADD (R83): binary64 addition. -/
  | dadd (o : Op)
  /-- DSUB (R83): binary64 subtraction. -/
  | dsub (o : Op)
  /-- DMUL (R83): binary64 multiplication. -/
  | dmul (o : Op)
  /-- DDIV (R83): binary64 division. -/
  | ddiv (o : Op)
  /-- DCMP (R109): binary64 compare that sets the flags. -/
  | dcmp (o : Op)
  /-- DSQRT (R83): binary64 square root. -/
  | dsqrt (o : Op)
  /-- BMOV (R117): Block move, one element at a time. -/
  | bmov (o : Op)
  /-- BFIL (R117): Block fill. -/
  | bfil (o : Op)
  /-- BCMP (R118): Block compare that stops at the first unequal element. -/
  | bcmp (o : Op)
  /-- BBMV (R117): Bit block move. -/
  | bbmv (o : Op)
  /-- BBPK (R117): Packs bits into bytes. -/
  | bbpk (o : Op)
  /-- BBUP (R117): Unpacks bytes into bits. -/
  | bbup (o : Op)
  /-- BTW (R102): Loads BA from a bit of ACC. -/
  | btw (o : Op)
  /-- BPW (R102): Writes BA into a bit of ACC. -/
  | bpw (o : Op)
  /-- MOVS (R120): Moves a Kazhin-M special register; a scan engine raises 0x02 instead. -/
  | movs (o : Op)
  /-- RETI (R89): Returns from an interrupt or exception handler and sets IE. -/
  | reti (o : Op)
  /-- WFI (R121): Stops issuing until an enabled interrupt line is pending. -/
  | wfi (o : Op)
  /-- RESERVED_OPCODE (R95): A reserved encoding raises the illegal-instruction exception whatever its condition. -/
  | reservedOpcode (opc : BitVec 7) (o : Op)
  /-- INTERRUPT_ENTRY (R89): A pending enabled interrupt line is taken at an instruction boundary of a management core. -/
  | interruptEntry (m : Fin 2) (now : Time)
  /-- WFI_RESUME (R121): A waiting WFI resumes issuing when an enabled line becomes pending. -/
  | wfiResume (m : Fin 2) (now : Time)
  /-- TASK_SWITCH (R76): A ready task of higher priority pre-empts the running task at the next instruction or element boundary. -/
  | taskSwitch (e : Fin 16) (now : Time)
  /-- DEBUG_HALT (R412): An unlocked debug port halts an engine or core, which freezes the watchdog. -/
  | debugHalt (x : DebugOp) (now : Time)
  /-- DEBUG_RESUME (R412): The debug port ends a halt, and the watchdog resumes with the time that remained. -/
  | debugResume (x : Exec) (now : Time)
  /-- CYCLIC_RELEASE (R127): A release instant of a cyclic task arrives, and INPUT begins with TS taken and the inputs frozen. -/
  | cyclicRelease (t : Fin 32) (now : Time)
  /-- INPUT_PHASE (R137): The image stores copy the frozen inputs into the working partition, and EXECUTE then begins. -/
  | inputPhase (t : Fin 32) (now : Time)
  /-- COMPARE_PHASE (R137): Forces are applied, the journal commits and the Q partition hash is formed. -/
  | comparePhase (t : Fin 32) (ecc : Ecc) (now : Time)
  /-- OUTPUT_PHASE (R141): The Q partition is copied into the ring transmit image. -/
  | outputPhase (t : Fin 32) (now : Time)
  /-- HOUSEKEEP_PHASE (R142): The scan publishes its partition, applies staged settings, releases its ledger entries and updates the status bits. -/
  | housekeepPhase (t : Fin 32) (now : Time)
  /-- EVENT_SOURCE_FIRE (R132): An event source fires and releases its task, remembers the firing once, or sets EVOVF. -/
  | eventSourceFire (t : Fin 32) (now : Time)
  /-- EVENT_RELEASE (R132): A remembered firing is released once the minimum separation has passed. -/
  | eventRelease (t : Fin 32) (now : Time)
  /-- ERROR_TASK_RELEASE (R289): The request at the head of an error-task queue is released in class order. -/
  | errorTaskRelease (t : Fin 32) (now : Time)
  /-- PACE_WINDOW_END (R151): A 64 µs pacemeter window ends; RATE is reported, and WARN or LOW is updated. -/
  | paceWindowEnd (e : Fin 16) (rate : Nat) (now : Time)
  /-- SLACK_WINDOW_END (R154): A 100 ms slack window ends; LAST is updated, and low slack sets SL and raises a DEGRADE fault. -/
  | slackWindowEnd (e : Fin 16) (slack : Nat) (now : Time)
  /-- MISMATCH_VERDICT (R176): The 60 µs self-test after a mismatch ends, and the fault manager gives a verdict of Table 6.3. -/
  | mismatchVerdict (e : Fin 16) (pass : Bool) (now : Time)
  /-- SPARE_MAPPING_COMPLETE (R177): A spare engine is mapped in after its grant, and SYS_MAPSEQ increments. -/
  | spareMappingComplete (e : Fin 16) (now : Time)
  /-- SHD_TMODE_WRITE (R185): A write to SHD_TMODE stages a task's mode, subject to PAIROK and MODELK. -/
  | shdTmodeWrite (t : Fin 32) (w : Cmd)
  /-- WARMUP_COPY_COMPLETE (R186): The shadow copy of a task's protected storage completes, so that its next scan runs PAIRED. -/
  | warmupCopyComplete (t : Fin 32) (now : Time)
  /-- OLC_LOAD (R194): LOAD begins copying a change package into the staging half. -/
  | olcLoad (w : Cmd)
  /-- OLC_LOAD_COMPLETE (R195): The load copies end, and the package is checked and either STAGED or refused. -/
  | olcLoadComplete (p : PkgSections) (now : Time)
  /-- OLC_DISARM (R204): DISARM returns an armed activation to STAGED. -/
  | olcDisarm (w : Cmd)
  /-- OLC_ACTIVATE (R197): ACTIVATE arms an activation at the pivot task's boundary after scan OLC_ACTSCAN. -/
  | olcActivate (w : Cmd)
  /-- OLC_DISCARD (R196): DISCARD empties the staged package. -/
  | olcDiscard (w : Cmd)
  /-- ACTIVATION_EXCHANGE (R201): At the activation point, the migration runs and the code halves and descriptors are exchanged in one handshake. -/
  | activationExchange (now : Time)
  /-- ALLTASK_EXCHANGE (R202): Once no task has an activation, an all-task package is exchanged and the held releases resume. -/
  | alltaskExchange (now : Time)
  /-- FORCE_SET (R211): SET stages a force entry for a symbolic ID, or is refused with FERR. -/
  | forceSet (w : Cmd)
  /-- FORCE_CLEAR (R211): CLEAR stages the removal of an ID's force entry. -/
  | forceClear (w : Cmd)
  /-- FORCE_CLEAR_ALL (R209): CLEAR ALL stages the removal of every force entry at its own owner's boundary. -/
  | forceClearAll (w : Cmd)
  /-- RING_CYCLE_START (R221): At S(c) the ring sends its cyclic frame from the transmit image, with PREP and MON where they apply. -/
  | ringCycleStart (r : Fin 4) (now : Time)
  /-- CYC_FRAME_RETURN (R220): A returned cyclic frame's slots are checked and valid inputs are taken. -/
  | cycFrameReturn (r : Fin 4) (leg : Fin 2) (f : RingFrame) (now : Time)
  /-- MON_FRAME_CHECK (R225): When the MON frame on link 1 has not returned in time, L1FAIL sets. -/
  | monFrameCheck (r : Fin 4) (now : Time)
  /-- RING_CYCLE_INPUTS_COMPLETE (R226): At S(c) + T_frame + 2 × RTD the cycle's inputs are complete, missed slots are counted and the acyclic window opens. -/
  | ringCycleInputsComplete (r : Fin 4) (now : Time)
  /-- RING_LINKS_ALIGNED (R225): The ring's links align, and the ring passes from TRAIN to ENUM. -/
  | ringLinksAligned (r : Fin 4) (now : Time)
  /-- ENUMERATION_COMPLETE (R228): Enumeration ends with RTD measured and the stations admitted, and the ring enters CLOSED or SPLIT. -/
  | enumerationComplete (r : Fin 4) (e : EnumReport) (now : Time)
  /-- RING_LOST_RETRAIN (R227): Every 100 ms a LOST ring returns to TRAIN and ENUM. -/
  | ringLostRetrain (r : Fin 4) (now : Time)
  /-- STN_AQSUB_SUBMIT (R239): A write to STN_AQSUB submits an acyclic transaction tag. -/
  | stnAqsubSubmit (r : Fin 4) (w : Cmd)
  /-- ACR_RECEIVED (R240): A station's ACR frame completes its transaction and sets its completion bit. -/
  | acrReceived (r : Fin 4) (tag : Fin 64) (a : AcrFrame) (now : Time)
  /-- ACYCLIC_TIMEOUT (R240): A transaction unanswered after ACTO cycles completes with STATUS 4. -/
  | acyclicTimeout (r : Fin 4) (tag : Fin 64) (now : Time)
  /-- HB_FRAME_RECEIVED (R259): A heartbeat record arrives on path 1 in an HB frame. -/
  | hbFrameReceived (h : SyncHdr) (r : HbRecord) (now : Time)
  /-- HB_PATH2_RECORD (R259): A heartbeat record arrives on HB_RX. -/
  | hbPath2Record (r : HbRecord) (now : Time)
  /-- HEARTBEAT_SEND (R259): At each 100 µs instant (10 ms in INTERMISSION), the heartbeat record is sent on both paths. -/
  | heartbeatSend (now : Time)
  /-- STATUS_FRAME_SEND (R248): At each 100 µs instant the active unit sends a STATUS frame. -/
  | statusFrameSend (now : Time)
  /-- TOKEN_RECEIVED (R249): The standby takes a TOKEN that releases a task with the active unit's TS and scan number. -/
  | tokenReceived (h : SyncHdr) (t : Fin 32) (k : Token) (now : Time)
  /-- INPART_RECEIVED (R249): The standby takes the frozen partition inputs of a scan. -/
  | inpartReceived (h : SyncHdr) (t : Fin 32) (bits words : List (Nat × Word)) (now : Time)
  /-- LEDGER_RECEIVED (R250): A ledger entry arrives in the partner ledger buffer and releases a waiting LDG. -/
  | ledgerReceived (h : SyncHdr) (l : Ledger) (now : Time)
  /-- RETRACT_RECEIVED (R251): The standby discards ledger entries from the given index and re-executes when it has consumed any of them. -/
  | retractReceived (h : SyncHdr) (t : Fin 32) (index : Nat) (now : Time)
  /-- ENDMK_RECEIVED (R252): The standby takes the end marker of an activation and commits or mirrors the abandonment. -/
  | endmkReceived (h : SyncHdr) (t : Fin 32) (num : Word) (how code : Nat) (now : Time)
  /-- HASH_RECEIVED (R254): The standby receives the active unit's partition hash for comparison. -/
  | hashReceived (h : SyncHdr) (t : Fin 32) (num : Word) (hash : Long) (now : Time)
  /-- STAGE_RECEIVED (R255): The standby stages a forwarded write for the boundary of the given scan. -/
  | stageReceived (h : SyncHdr) (t : Fin 32) (addr : Nat) (value num : Word) (now : Time)
  /-- STATUS_RECEIVED (R256): A STATUS frame steers the standby's TB and updates the partner's ring and build state. -/
  | statusReceived (h : SyncHdr) (rings : List RingReport) (build staged : Long) (crc ofs : Word) (now : Time)
  /-- RSPAGE_RECEIVED (R275): The resync target writes a copied page. -/
  | rspageReceived (h : SyncHdr) (page : Nat) (data : List Byte) (now : Time)
  /-- RSCTL_RECEIVED (R271): A resync control or HANDOVER notice frame is taken by the partner. -/
  | rsctlReceived (h : SyncHdr) (r : RsCtl) (now : Time)
  /-- REPLAY_TIMEOUT (R247): A sync-link frame unacknowledged within 5 µs is sent again; after three replays the link is down. -/
  | replayTimeout (now : Time)
  /-- LANE_ALIGNMENT_LOST (R245): A sync-link lane loses alignment, LANEDN sets and the link continues on one lane. -/
  | laneAlignmentLost (lane : Fin 2) (now : Time)
  /-- HEARTBEAT_PATH_LOST (R260): 305 µs (or 30.5 ms) without a valid record on a path declares that path lost. -/
  | heartbeatPathLost (path2 : Bool) (now : Time)
  /-- PATH1_LOSS_CONFIRM (R260): Path 2 is still valid 50 µs after path 1 is lost, and lockstep is lost. -/
  | path1LossConfirm (now : Time)
  /-- ILK_LINE_FAULT (R261): An illegal interlock input state, or a read-back mismatch, lasting 2 µs sets ILKFLT. -/
  | ilkLineFault (out : Bool) (now : Time)
  /-- ILK_FAULT_CLEAR (R261): An interlock line fault clears after 1 ms without fault. -/
  | ilkFaultClear (out : Bool) (now : Time)
  /-- CLAIM_BEGIN (R262): A unit whose claim conditions hold drives its claim on ILK_OUT. -/
  | claimBegin (now : Time)
  /-- CLAIM_SAMPLE (R263): 20 µs after driving the claim, ILK_IN is sampled and the claim is confirmed or withdrawn. -/
  | claimSample (now : Time)
  /-- CLAIM_UNIT0_CONFIRM (R263): Unit 0 confirms its claim once ILK_IN has been released for 20 µs. -/
  | claimUnit0Confirm (now : Time)
  /-- CLAIM_WITHDRAW_TIMEOUT (R263): Unit 0 withdraws its claim when ILK_IN is not released within 100 µs. -/
  | claimWithdrawTimeout (now : Time)
  /-- ARB_GNT_N_GRANT (R266): ARB_GNT_N low for 1 µs grants an arbitrated claim. -/
  | arbGntNGrant (now : Time)
  /-- ARB_CAN_ANSWER (R266): A Ringmaster grant or deny message with a matching NONCE arrives on RXOBJ. -/
  | arbCanAnswer (grant pid : Bool) (nonce : BitVec 16) (now : Time)
  /-- ARB_TIMEOUT (R267): No answer within ARBTO ms ends the arbitration episode with RESULT 4. -/
  | arbTimeout (now : Time)
  /-- HSB_RESYNC (R274): The RESYNC command requests a resync from the partner. -/
  | hsbResync (w : Cmd)
  /-- HSB_RSABORT (R277): RSABORT fails a running resync with FAILRSN 5. -/
  | hsbRsabort (w : Cmd)
  /-- HSB_HANDOVER (R271): HANDOVER sends a notice and moves the active role to the standby in a planned way. -/
  | hsbHandover (w : Cmd)
  /-- HSB_LGCSTART (R278): LGCSTART begins the legacy hand-over from an OVX-3300. -/
  | hsbLgcstart (w : Cmd)
  /-- HSB_LGCABORT (R280): LGCABORT ends the legacy mode without a hand-over. -/
  | hsbLgcabort (w : Cmd)
  /-- HSB_ARBCLR (R267): ARBCLR permits a further arbitration request. -/
  | hsbArbclr (w : Cmd)
  /-- HANDOVER_ACK_TIMEOUT (R271): A HANDOVER notice not acknowledged within 100 µs is refused with CMDERR 3. -/
  | handoverAckTimeout (now : Time)
  /-- HANDOVER_SILENCE_END (R271): After 1 ms of silence the former active unit resumes heartbeats and requests resync. -/
  | handoverSilenceEnd (now : Time)
  /-- RESYNC_PASS_END (R275): A copy pass ends, and the next pass starts with the pages that are dirty. -/
  | resyncPassEnd (now : Time)
  /-- RESYNC_JOIN_COMPLETE (R276): The join extension ends, and the standby enters FOLLOW with RSDONE set. -/
  | resyncJoinComplete (now : Time)
  /-- RESYNC_TIMEOUT (R277): RSTMO ms pass, and the resync fails with FAILRSN 1. -/
  | resyncTimeout (now : Time)
  /-- LEGACY_STATE_BLOCK (R279): A state block from the OVX-3300 arrives and is converted through the legacy map. -/
  | legacyStateBlock (b : LegacyBlock) (now : Time)
  /-- LEGACY_HANDOVER_RECORD (R280): The OVX-3300's hand-over record arrives, and the OVX-7100 claims and enters RUN on a continued grid. -/
  | legacyHandoverRecord (r : LegacyRecord) (now : Time)
  /-- FAULT_REPORT (R286): The fault manager receives a fault, logs it, carries out its class actions and queues its error-task request. -/
  | faultReport (f : FaultIn) (now : Time)
  /-- ROTATION_WINDOW_START (R294): At each 100 ms window a rotation test of each mapped engine becomes due. -/
  | rotationWindowStart (now : Time)
  /-- ROTATION_SEGMENT_COMPLETE (R294): A 1 µs self-test segment completes, and the test ends after its last segment. -/
  | rotationSegmentComplete (e : Fin 16) (pass : Bool) (now : Time)
  /-- ROTATION_FORCE_DEADLINE (R295): At 48.9 ms, the remaining segments of an unfinished test are forced. -/
  | rotationForceDeadline (now : Time)
  /-- SPARE_TEST_START (R296): At each whole second, each spare engine's test starts. -/
  | spareTestStart (now : Time)
  /-- SPARE_TEST_COMPLETE (R296): A spare's test ends, and a failing spare is retired. -/
  | spareTestComplete (p : Fin 18) (pass : Bool) (now : Time)
  /-- CORE_TEST_START (R297): Once each second, a management core is halted for its 60 µs test. -/
  | coreTestStart (m : Fin 2) (now : Time)
  /-- CORE_TEST_COMPLETE (R298): A core's test ends; a failing core is tested again and then restarted or retired. -/
  | coreTestComplete (m : Fin 2) (pass : Bool) (now : Time)
  /-- BLOCK_CHECK_START (R297): Once each second, a data-plane block check starts. -/
  | blockCheckStart (b : AgentId) (now : Time)
  /-- BLOCK_CHECK_COMPLETE (R297): A data-plane block check ends; a failure raises cause 0x49. -/
  | blockCheckComplete (b : AgentId) (pass : Bool) (now : Time)
  /-- SCRUB_SWEEP_START (R301): At each whole second, the scrubber starts a sweep of every array. -/
  | scrubSweepStart (now : Time)
  /-- SCRUB_WORD_CHECK (R301): The scrubber reads, checks and corrects one word in an indivisible read-modify-write. -/
  | scrubWordCheck (ecc : Ecc) (bit : Fin 72) (now : Time)
  /-- DEFECT_MAP_ENTRY_WRITE (R304): After its grant, a field defect-map entry is written by one cell write. -/
  | defectMapEntryWrite (k : Cells) (now : Time)
  /-- FLT_DM_CLEAR (R306): CLEAR removes a field defect-map entry under the two-party agreement. -/
  | fltDmClear (w : Cmd)
  /-- CAN_OPMODE_APPLY (R312): A staged OPMODE takes effect at bus idle, or is refused by the bit-timing checks. -/
  | canOpmodeApply (n : Fin 4) (now : Time)
  /-- CAN_RECOVER (R327): RECOVER permits a bus-off controller to recover. -/
  | canRecover (n : Fin 4) (w : Cmd)
  /-- CAN_ABORTALL (R324): ABORTALL applies TXABORT to every pending object. -/
  | canAbortall (n : Fin 4) (w : Cmd)
  /-- CAN_ENABLE (R316): ENABLE checks and enables a message object. -/
  | canEnable (n : Fin 4) (w : Cmd)
  /-- CAN_DISABLE (R317): DISABLE disables a message object, aborting a pending send. -/
  | canDisable (n : Fin 4) (w : Cmd)
  /-- CAN_TXREQ (R322): TXREQ makes a send object pending. -/
  | canTxreq (n : Fin 4) (w : Cmd)
  /-- CAN_TXABORT (R324): TXABORT ends a send request. -/
  | canTxabort (n : Fin 4) (w : Cmd)
  /-- CAN_CLRNEW (R320): CLRNEW releases a received frame, advancing GET in a FIFO. -/
  | canClrnew (n : Fin 4) (w : Cmd)
  /-- CAN_FIFOCFG_WRITE (R320): A write to a FIFO configuration enables, configures or empties the FIFO. -/
  | canFifocfgWrite (n : Fin 4) (f : Fin 8) (w : Cmd)
  /-- CAN_TX_ATTEMPT_START (R322): At bus idle the controller enters arbitration with the highest-priority pending frame. -/
  | canTxAttemptStart (n : Fin 4) (now : Time)
  /-- CAN_TX_ATTEMPT_END (R323): A transmit attempt ends in success, lost arbitration or error, and the retry limits are applied. -/
  | canTxAttemptEnd (n : Fin 4) (r : CanEnd) (now : Time)
  /-- CAN_FRAME_RECEIVED (R319): A valid received frame is filtered and stored in the first candidate that can take it. -/
  | canFrameReceived (n : Fin 4) (f : CanFrame) (now : Time)
  /-- CAN_BUS_ERROR (R326): A detected error updates TEC and REC and the error state. -/
  | canBusError (n : Fin 4) (e : CanErr) (now : Time)
  /-- CAN_RECOVERY_COUNT_DONE (R327): 128 occurrences of 11 recessive bits have been counted; the controller recovers or sets RCVRDY. -/
  | canRecoveryCountDone (n : Fin 4) (now : Time)
  /-- HOST_LINK_RESET (R331): A fundamental or hot reset reinitialises the endpoint configuration and sets PERST. -/
  | hostLinkReset (now : Time)
  /-- MBX_H2CSET (R336): The host sets H2C doorbell bits, asserting line 20 and firing event sources. -/
  | mbxH2cset (w : Cmd)
  /-- MBX_H2CDB_CLEAR (R336): A management core clears H2C doorbell bits. -/
  | mbxH2cdbClear (w : Cmd)
  /-- MBX_C2HSET (R336): A management core sets C2H doorbell bits. -/
  | mbxC2hset (w : Cmd)
  /-- MBX_C2HDB_CLEAR (R338): The host clears C2H doorbell bits and their pending bits. -/
  | mbxC2hdbClear (w : Cmd)
  /-- MSIX_PENDING_DELIVER (R338): A pending vector is sent when it becomes deliverable while its doorbell is still set. -/
  | msixPendingDeliver (masked : Word) (on : Bool) (now : Time)
  /-- MBX_CHPOST (R339): A post appends a pointer entry and rings the doorbell, or is lost when the queue is full. -/
  | mbxChpost (k : Fin 28) (w : Cmd)
  /-- MBX_CHPOP (R341): A POP with the head's SEQ releases the head entry. -/
  | mbxChpop (k : Fin 28) (w : Cmd)
  /-- MBX_CHCFG_WRITE (R343): A channel configuration write enables a pointer channel, or disables it and empties it. -/
  | mbxChcfgWrite (k : Fin 28) (w : Cmd)
  /-- MBX_WDATA_WRITE (R344): The writer class posts a word into a word channel, or is refused while it is full. -/
  | mbxWdataWrite (k : Fin 4) (w : Cmd)
  /-- MBX_WTAKE_READ (R345): A read of MBX_WTAKE takes the word and clears FULL, ringing the doorbells. -/
  | mbxWtakeRead (k : Fin 4) (agent : AgentId) (now : Time)
  /-- RECORDER_POST (R356): A write of REC_POSTCODE posts the code with the value held in REC_POSTVAL. -/
  | recorderPost (k : Fin 3) (w : Cmd)
  /-- RECORDER_ACCUMULATE (R357): A post is taken from the feed and accumulated into its code's open record. -/
  | recorderAccumulate (now : Time)
  /-- RECORD_INTERVAL_CLOSE (R358): At the end of its interval an open record closes into the queue. -/
  | recordIntervalClose (code : Fin 4096) (now : Time)
  /-- RECORD_EARLY_CLOSE (R359): A flood or saturation closes a record early, no sooner than RLIM after the previous early close. -/
  | recordEarlyClose (code : Fin 4096) (now : Time)
  /-- RECORD_DEFERRED_CLOSE (R360): A close deferred by a full queue takes place once the queue has room, with DEFER set. -/
  | recordDeferredClose (code : Fin 4096) (now : Time)
  /-- RECORDER_DRAIN_START (R363): A drain starts every DRAINPER seconds or when the queue reaches 768 records. -/
  | recorderDrainStart (now : Time)
  /-- RECORDER_SECTOR_WRITTEN (R363): A Carousel sector write completes or fails. -/
  | recorderSectorWritten (ok : Bool) (now : Time)
  /-- KEEP_AREA_WRITTEN (R364): A keep-area write of a record with SEQ below 1,024 completes. -/
  | keepAreaWritten (k : Cells) (now : Time)
  /-- RECORDER_NEXTSEQ_FOUND (R365): At STOP the recorder finds the newest Carousel record and sets NEXTSEQ. -/
  | recorderNextseqFound (now : Time)
  /-- TAIL_RESTORE_COMPLETE (R368): The power-fail tail is written to the Carousel and the keep area and marked consumed. -/
  | tailRestoreComplete (now : Time)
  /-- REC_DRAIN (R363): DRAIN starts a drain of the queue. -/
  | recDrain (w : Cmd)
  /-- REC_CLOSEALL (R361): CLOSEALL closes every open record with REASON 3. -/
  | recCloseall (w : Cmd)
  /-- REC_COMMISSION (R371): COMMISSION erases the keep area, increments EPOCH and resets NEXTSEQ. -/
  | recCommission (w : Cmd)
  /-- REC_RDSEQ_WRITE (R369): A write to REC_RDSEQ starts a record fetch into the read window. -/
  | recRdseqWrite (w : Cmd)
  /-- RECORD_FETCH_COMPLETE (R369): The fetched record lands in the window and READY sets. -/
  | recordFetchComplete (ok : Bool) (now : Time)
  /-- REC_RDWIN15_AUTO_READ (R370): A read of REC_RDWIN15 with AUTO set advances the cursor and starts the next fetch. -/
  | recRdwin15AutoRead (agent : AgentId) (now : Time)
  /-- NVS_WRITE (R381): WRITE starts writing a record into the bank that does not hold the chosen copy. -/
  | nvsWrite (w : Cmd)
  /-- NVS_READ (R382): READ copies the chosen copy of a record to NVS_RADDR. -/
  | nvsRead (w : Cmd)
  /-- NVS_INVAL (R382): INVAL empties a record. -/
  | nvsInval (w : Cmd)
  /-- NVS_RELOCK (R390): RELOCK withdraws the writing agent's password unlocks. -/
  | nvsRelock (w : Cmd)
  /-- NVS_RECORD_CMD_COMPLETE (R383): A record command finishes its cell writes and reports its status. -/
  | nvsRecordCmdComplete (bad stuck : List Nat) (now : Time)
  /-- NVS_CNTINC (R385): INC writes a counter's value plus one into its next cell. -/
  | nvsCntinc (k : Cells) (w : Cmd)
  /-- NVS_CNTL_READ (R384): A read of NVS_CNTL returns the low bits and latches the high bits into NVS_CNTH. -/
  | nvsCntlRead (r : CounterRead) (now : Time)
  /-- NVS_PW_ENTER (R390): A password entry unlocks an access for the writing agent, or counts a failure. -/
  | nvsPwEnter (w : Cmd)
  /-- NVS_PW_CHANGE (R392): A password change replaces a password when unlocked and agreed. -/
  | nvsPwChange (k : Cells) (w : Cmd)
  /-- RETENTIVE_AREA_ARMED (R388): The last erase of the retentive area completes, and RARM sets. -/
  | retentiveAreaArmed (now : Time)
  /-- TAIL_AREA_ARMED (R388): The last erase of the tail area completes, and TARM sets. -/
  | tailAreaArmed (now : Time)
  /-- RTC_SECOND_BOUNDARY (R394): The clock advances one second, applying commits, the weekday, the alarm and TICK. -/
  | rtcSecondBoundary (now : Time)
  /-- RTC_TAKE (R397): TAKE copies the whole clock into the snapshot registers and increments SNAPSEQ. -/
  | rtcTake (w : Cmd)
  /-- RTC_ARM (R398): ARM checks the staged date and time and sets WPEND. -/
  | rtcArm (w : Cmd)
  /-- RTC_CANCEL (R399): CANCEL clears WPEND. -/
  | rtcCancel (w : Cmd)
  /-- TRIM_SLOT_END (R400): At the end of one of the first |TRIM| slots, PRE gains or skips one count. -/
  | trimSlotEnd (now : Time)
  /-- VBAT_MEASURE (R404): VBAT is measured every 60 s, and VBATLOW sets below 2.0 V. -/
  | vbatMeasure (mv : Nat) (now : Time)
  /-- PPS_EDGE (R405): A PPS edge is stamped, and an accepted edge updates ERR and steers TB. -/
  | ppsEdge (now : Time)
  /-- PPS_LOSS_TIMEOUT (R405): 3 s without an accepted edge sets PPSLOST and frees TB. -/
  | ppsLossTimeout (now : Time)
  /-- WDI_SERVICE (R407): A change of the filtered WDI level services the watchdog and starts a new first period. -/
  | wdiService (now : Time)
  /-- WDG_FIRST_PERIOD_END (R408): The first period elapses without a service, WARN sets and the second period begins. -/
  | wdgFirstPeriodEnd (now : Time)
  /-- WDG_SECOND_PERIOD_END (R408): The second period elapses without a service, and the watchdog reset is requested. -/
  | wdgSecondPeriodEnd (now : Time)
  /-- WATCHDOG_RESET (R413): Once any erase unit in progress completes, the watchdog reset is carried out. -/
  | watchdogReset (now : Time)
  /-- WDG_KEY_WRITE (R414): A write to WDG_KEY advances or cancels the disable sequence. -/
  | wdgKeyWrite (w : Cmd)
  /-- WDG_CTL_WRITE (R414): A write to WDG_CTL sets EN or, after a complete key sequence, clears it. -/
  | wdgCtlWrite (w : Cmd)
  /-- MIM_EN_SET (R420): Setting EN checks the panel timing and starts a frame with the balance accumulators cleared. -/
  | mimEnSet (w : Cmd)
  /-- MIM_FRAME_BOUNDARY (R421): At the start of the vertical blank, tile sampling, blink, band, table and contrast take effect for the next frame. -/
  | mimFrameBoundary (ack again : Bool) (now : Time)
  /-- MIM_FILL (R426): FILL queues an overlay rectangle filled with one colour. -/
  | mimFill (w : Cmd)
  /-- MIM_COPY (R426): COPY queues an overlay rectangle copied from a source. -/
  | mimCopy (w : Cmd)
  /-- MIM_FLUSH (R427): FLUSH discards the overlay commands that have not started. -/
  | mimFlush (w : Cmd)
  /-- MIM_STAGING_COMPLETE (R428): A command's pixels have been copied into the staging area. -/
  | mimStagingComplete (now : Time)
  /-- MIM_BATCH_COMMIT (R428): After its grant, the batch of staged commands is exchanged into frame memory. -/
  | mimBatchCommit (now : Time)
  /-- MIM_SENSOR_READING (R431): A panel temperature reading completes and stages a band change. -/
  | mimSensorReading (r : Option (BitVec 16)) (now : Time)
  /-- CRACK_STEP (R434): A 100 µs crack-loop step ends, and three steps in error set CRACK. -/
  | crackStep (s0 s1 : Bool) (now : Time)
  /-- FEED_LOST (R438): A rail of a feed leaves its band for 100 ns, and the domains switch to the other feed. -/
  | feedLost (f : Fin 2) (now : Time)
  /-- FEED_GOOD (R438): A feed whose rails have stayed inside the restore band for 10 ms is declared good. -/
  | feedGood (f : Fin 2) (now : Time)
  /-- AUTO_RETURN (R440): A domain returns to the preferred feed once that feed has been good for 100 ms. -/
  | autoReturn (d : Fin 3) (now : Time)
  /-- FEED_COMPARE (R441): Every 10 µs the two VCORE feeds are compared, and FEEDMM sets on a persistent difference. -/
  | feedCompare (mv : Nat) (now : Time)
  /-- TEMP_SENSOR_UPDATE (R443): Every 1 ms the die temperature updates PWR_TEMP and ENV. -/
  | tempSensorUpdate (tj : BitVec 16) (now : Time)
  /-- TURNSTILE_GRANT (R447): A queued request is granted a slot of its class. -/
  | turnstileGrant (cls : Fin 7) (now : Time)
  /-- PWR_BUDGET_WRITE (R446): A write to PWR_BUDGET is accepted only when BASE + 3.04 W fits BUDGET. -/
  | pwrBudgetWrite (w : Cmd)
  /-- INTERMISSION_ENTRY_COMPLETE (R449): Ring retraining and domain power-down complete, and the chip is in INTERMISSION. -/
  | intermissionEntryComplete (now : Time)
  /-- WAKE_SOURCE (R450): A wake source fires, and an enabled source begins the exit to STOP. -/
  | wakeSource (k : Fin 5) (now : Time)
  /-- INTERMISSION_EXIT_COMPLETE (R451): The sleeping domains are powered up and the chip enters STOP with REASON 0x07. -/
  | intermissionExitComplete (now : Time)
  /-- POWER_FAIL_TRIGGER (R452): PFAIL_N low for 1 µs, or both feeds lost, starts the power-fail flush and stops the engines. -/
  | powerFailTrigger (pin : Bool) (now : Time)
  /-- FLUSH_COMPLETE (R455): The armed flush areas and records 1 and 2 are written, and DONE sets. -/
  | flushComplete (now : Time)
  /-- FLUSH_RECOVERY_RESET (R455): With PFAIL_N high and both feeds good for 10 ms after a flush, the chip resets and PFLUSH sets. -/
  | flushRecoveryReset (now : Time)
  /-- UPD_WRITE (R461): WRITE checks an update package and begins programming the unused bank. -/
  | updWrite (media : List Byte) (layout : List BankPlace) (w : Cmd)
  /-- UPD_WRITE_COMPLETE (R461): The bank is programmed and verified, and WDONE sets. -/
  | updWriteComplete (ok : Bool) (now : Time)
  /-- UPD_ARM (R463): ARM schedules the activation of a staged kind and starts its preload. -/
  | updArm (w : Cmd)
  /-- UPD_PRELOAD_COMPLETE (R466): The preload of the new image into the inactive area or store completes. -/
  | updPreloadComplete (tables : List Byte) (now : Time)
  /-- UPD_DISARM (R463): DISARM cancels an armed activation. -/
  | updDisarm (w : Cmd)
  /-- UPD_CORE_OK (R467): CORE_OK from the new firmware on MC1 restarts MC0 in the new area. -/
  | updCoreOk (w : Cmd)
  /-- UPD_CONFIRM (R468): A keyed write of UPD_CONFIRM within the window confirms every pending bank. -/
  | updConfirm (w : Cmd)
  /-- UPD_ACTIVATION_INSTANT (R466): At the instant, STG moves to PEND and the kind's switch is carried out. -/
  | updActivationInstant (now : Time)
  /-- UPD_COREOK_TIMEOUT (R467): No CORE_OK arrives within 10 s, and the engine reverts. -/
  | updCoreokTimeout (now : Time)
  /-- UPD_CONFIRM_WINDOW_END (R469): The confirm window ends without a confirm, and the pending bank is reverted. -/
  | updConfirmWindowEnd (now : Time)
  /-- UPD_AGREE_ANSWER (R464): An agreement answer from a distinct identifier counts toward ACKN. -/
  | updAgreeAnswer (id : BitVec 29) (kind : Byte) (agree : BitVec 16) (now : Time)
  /-- GRD_PROPOSE (R477): PROPOSE copies a change record, computes its digest and records a pending proposal. -/
  | grdPropose (w : Cmd)
  /-- GRD_AGREE (R478): AGREE from another class with a matching digest agrees the change. -/
  | grdAgree (w : Cmd)
  /-- KEY_SLOT_WRITE (R479): An agreed key-slot change checks the key and writes it through the parameter store after its grant. -/
  | keySlotWrite (now : Time)
  /-- GRD_WITHDRAW (R478): WITHDRAW by the proposer's class withdraws the pending proposal. -/
  | grdWithdraw (w : Cmd)
  /-- GRD_LOCKDBG (R482): LOCKDBG locks the debug port and releases every debug halt. -/
  | grdLockdbg (w : Cmd)
  /-- PROPOSAL_EXPIRY (R478): A proposal not agreed within 2 s expires with a NOTE fault. -/
  | proposalExpiry (now : Time)
  /-- GRANT_EXPIRY (R479): A grant for a block command that is not consumed within 2 s lapses. -/
  | grantExpiry (now : Time)
  /-- DEBUG_UNLOCK_EXPIRY (R482): The unlock duration ends, and the debug port locks. -/
  | debugUnlockExpiry (now : Time)
  /-- REFUSAL_SECOND_END (R475): At the end of a TB second with refusals, one DEGRADE fault with cause 0x5D is raised. -/
  | refusalSecondEnd (now : Time)
  /-- FENCE_N_RELEASED (R29): The filtered FENCE_N input is released, so that the fence ends and LEAVE_SAFEHOLD may succeed. -/
  | fenceNReleased (now : Time)
  /-- ILK_IN_CHANGE (R263): The partner's claim on ILK_IN_T and ILK_IN_C changes between asserted and released, updating INREL and the released-since time. -/
  | ilkInChange (lineT lineC : Bool) (now : Time)
  /-- MON_FRAME_RETURNED (R225): A MON frame returns on link 1, clearing L1FAIL. -/
  | monFrameReturned (r : Fin 4) (now : Time)
  /-- SYNC_LANE_ALIGNED (R245): A sync-link lane gains alignment, and LANE0 or LANE1 sets so that the lane carries frames. -/
  | syncLaneAligned (lane : Fin 2) (now : Time)
  /-- HOST_LINK_DOWN (R331): The PCI Express link leaves L0 for Detect, so that LINKDN sets and DLUP clears. -/
  | hostLinkDown (now : Time)
  /-- HOST_LINK_UP (R331): The PCI Express link trains and the data link layer comes up, so that DLUP, SPEED and WIDTH are set. -/
  | hostLinkUp (speed : Fin 4) (width : Fin 3) (now : Time)
  /-- LEGACY_TIMEOUT (R280): RSTMO ms pass after LGCSTART without a hand-over record, so the legacy mode ends with LGCFAIL. -/
  | legacyTimeout (now : Time)
  /-- COMMISSION_COMPLETE (R371): The erase of the keep area and the increment of EPOCH finish within 100 ms of COMMISSION, and COMMDONE sets. -/
  | commissionComplete (now : Time)
  /-- BACKUP_DOMAIN_BROWNOUT (R403): The backup-domain supply falls below 1.2 V and sets the brown-out latch. -/
  | backupDomainBrownout (now : Time)
  /-- CAN_BUS_INTEGRATED (R312): A controller that has left CONFIG completes bus integration and starts taking part on the bus. -/
  | canBusIntegrated (n : Fin 4) (now : Time)
deriving DecidableEq, Repr

end Sys2Proof
end

