-- ==== Sys2Proof/Decode.lean ====
section
/-! DEFINITION. The words that spell a command. The spec's table gives its rows no bits: the commands of this block reach it over its buses,
links and pins. A Kazhin instruction is issued as a command of its own, and its word is decoded here by the spec's opcode map. -/

namespace Sys2Proof

/-- The command that a word spells by the table's bits: none does, since no row of the table has bits. -/
def decodeTableWord (_nbits _w : Nat) : Option Instr := none

/-- The instruction that an opcode names (Table 4.5); the others are reserved (R102). -/
def kazhinRow (opc : BitVec 7) (o : Op) : Instr :=
  match opc.toNat with
  | 0x00 => .nop o
  | 0x01 => .ldsb o
  | 0x02 => .ldub o
  | 0x03 => .ldsh o
  | 0x04 => .lduh o
  | 0x05 => .ldw o
  | 0x06 => .ldl o
  | 0x07 => .ldah o
  | 0x08 => .stby o
  | 0x09 => .sthw o
  | 0x0A => .stw o
  | 0x0B => .stl o
  | 0x0C => .stah o
  | 0x0D => .lea o
  | 0x0E => .psh o
  | 0x0F => .pop o
  | 0x10 => .movr o
  | 0x11 => .add o
  | 0x12 => .adc o
  | 0x13 => .sub o
  | 0x14 => .sbc o
  | 0x15 => .rsb o
  | 0x16 => .muls o
  | 0x17 => .mulu o
  | 0x18 => .divs o
  | 0x19 => .divu o
  | 0x1A => .neg o
  | 0x1B => .abs o
  | 0x1C => .cmp o
  | 0x1D => .chk o
  | 0x1E => .adx o
  | 0x1F => .ady o
  | 0x20 => .andW o
  | 0x21 => .orW o
  | 0x22 => .xorW o
  | 0x23 => .notW o
  | 0x24 => .shl o
  | 0x25 => .shr o
  | 0x26 => .sar o
  | 0x27 => .rol o
  | 0x28 => .ror o
  | 0x29 => .ldx o
  | 0x2A => .ldy o
  | 0x2B => .stx o
  | 0x2C => .sty o
  | 0x2D => .sext o
  | 0x2E => .zext o
  | 0x30 => .addl o
  | 0x31 => .subl o
  | 0x32 => .cmpl o
  | 0x33 => .negl o
  | 0x34 => .mull o
  | 0x35 => .divsl o
  | 0x36 => .remsl o
  | 0x37 => .divul o
  | 0x38 => .shfl o
  | 0x39 => .andl o
  | 0x3A => .orl o
  | 0x3B => .xorl o
  | 0x3C => .notl o
  | 0x3D => .cvt o
  | 0x3E => .sel o
  | 0x40 => .ldb o
  | 0x41 => .ldbn o
  | 0x42 => .andb o
  | 0x43 => .andbn o
  | 0x44 => .orb o
  | 0x45 => .orbn o
  | 0x46 => .xorb o
  | 0x47 => .stbt o
  | 0x48 => .stbn o
  | 0x49 => .setb o
  | 0x4A => .rstb o
  | 0x4B => .bao o
  | 0x4C => .pshb o
  | 0x4D => .popb o
  | 0x4E => .ldbb o
  | 0x4F => .stbb o
  | 0x50 => .br o
  | 0x51 => .call o
  | 0x52 => .cale o
  | 0x53 => .cali o
  | 0x54 => .ret o
  | 0x55 => .ipa o
  | 0x56 => .aloc o
  | 0x57 => .endt o
  | 0x58 => .ton o
  | 0x59 => .tof o
  | 0x5A => .tp o
  | 0x5B => .trs o
  | 0x5C => .red o
  | 0x5D => .fed o
  | 0x5E => .ldg o
  | 0x5F => .tsc o
  | 0x60 => .fadd o
  | 0x61 => .fsub o
  | 0x62 => .fmul o
  | 0x63 => .fdiv o
  | 0x64 => .fcmp o
  | 0x65 => .fsqrt o
  | 0x66 => .fun o
  | 0x67 => .dadd o
  | 0x68 => .dsub o
  | 0x69 => .dmul o
  | 0x6A => .ddiv o
  | 0x6B => .dcmp o
  | 0x6C => .dsqrt o
  | 0x70 => .bmov o
  | 0x71 => .bfil o
  | 0x72 => .bcmp o
  | 0x73 => .bbmv o
  | 0x74 => .bbpk o
  | 0x75 => .bbup o
  | 0x76 => .btw o
  | 0x77 => .bpw o
  | 0x78 => .movs o
  | 0x79 => .reti o
  | 0x7A => .wfi o
  | _ => .reservedOpcode opc o

/-- The instruction of a first word and its extension word (R93): COND in [31:28], OPC in [27:21], AM in [20:18] and OPD in [17:0]. `x` issues it at
`now`, with what ECC reports of its reads and the disturbance of the shadow copy. -/
def decodeKazhin (w ext : Word) (x : Exec) (ecc : Ecc) (upset : Upset) (now : Time) : Instr :=
  kazhinRow (w.extractLsb' 21 7)
    { x, cond := w.extractLsb' 28 4, am := w.extractLsb' 18 3, opd := w.extractLsb' 0 18, ext, ecc, upset, sets := 0, now }

end Sys2Proof
end

