-- ==== Sys2Proof/Machine/Sparse.lean ====
section
/-! DEFINITION. Sparse arrays: lists of (key, value) pairs in one canonical form, keys strictly rising and no entry equal to what
an unlisted key reads as. Memory, the register file and the image stores are kept so. -/

namespace Sys2Proof.Machine

/-- The value listed under `k`, or `d`. -/
def spGet {α : Type} (d : α) : List (Nat × α) → Nat → α
  | [], _ => d
  | (k', v) :: l, k => if k' = k then v else spGet d l k

/-- Put `v` under `k`, keeping the keys rising. -/
def spIns {α : Type} (k : Nat) (v : α) : List (Nat × α) → List (Nat × α)
  | [] => [(k, v)]
  | (k', v') :: l => if k < k' then (k, v) :: (k', v') :: l else if k' = k then (k, v) :: l else (k', v') :: spIns k v l

/-- Remove the entry under `k`. -/
def spDel {α : Type} (k : Nat) : List (Nat × α) → List (Nat × α)
  | [] => []
  | (k', v) :: l => if k' = k then l else (k', v) :: spDel k l

/-- Write `v` under `k` where an unlisted key reads `d`: writing `d` removes the entry. -/
def spSet {α : Type} [DecidableEq α] (d : α) (k : Nat) (v : α) (l : List (Nat × α)) : List (Nat × α) :=
  if v = d then spDel k l else spIns k v l

/-- The keys rise strictly. -/
def spSorted {α : Type} : List (Nat × α) → Bool
  | [] => true
  | [_] => true
  | (k, _) :: (k', v) :: l => k < k' && spSorted ((k', v) :: l)

/-- The canonical form, where the key `k` unlisted reads as `d k`. -/
def spWf {α : Type} [DecidableEq α] (d : Nat → α) (l : List (Nat × α)) : Bool :=
  spSorted l && l.all fun e => decide (e.2 ≠ d e.1)

end Sys2Proof.Machine
end

