-- ==== Sys2Proof/Config.lean ====
section
/-! DEFINITION. The free values: what the spec leaves open and no run may rely on. A step that needs one applies the constant to the
counter `free` of the state and advances it. -/

namespace Sys2Proof

/-- An unstated 32-bit value. -/
opaque Config.freeWord : Nat → Word
/-- An unstated 64-bit value. -/
opaque Config.freeLong : Nat → Long
/-- An unstated byte. -/
opaque Config.freeByte : Nat → Byte

/-- The contents of the boot ROM (Table 1.3), which the spec does not give. -/
opaque Config.romByte : Nat → Byte

/-- The counts of the 32.768 kHz crystal in a second of the clock, since an instant of TB until another: the crystal does not follow TB
(R19). -/
opaque Config.crystalCounts : Nat → Time → Time → Nat

/-- Vendor ID and subsystem IDs from the fuses (Table 12.1). -/
opaque Config.fuseVendor : BitVec 16
opaque Config.fuseSubsystem : Word
/-- Where the MSI-X and the power management capability stand in the configuration space of the endpoint (Table 12.1). -/
opaque Config.msixCap : Nat
opaque Config.powerCap : Nat
/-- Where the PCI Express capability and Advanced Error Reporting stand there. -/
opaque Config.pcieCap : Nat
opaque Config.aerCap : Nat

/-- The entry point of the management firmware in a firmware area (R467, R88): the spec names it and does not place it. -/
opaque Config.fwEntry : Nat → Word
/-- The level of ROW_START at a line period and word where R419 does not give it (log entry 122). -/
opaque Config.rowStart : Nat → Nat → Bool

end Sys2Proof
end

