-- ==== Sys2Proof/Machine/Regs.lean ====
section
/-! DEFINITION. The control registers of Table 1.4, by name: the address of each register (R25), its fields, and one row
per register giving its reset value and the access code of each bit (R5, R6, Table 0.2). The names are the spec's own. -/

namespace Sys2Proof.Machine

/-- A field of a control register: the register's address and the bit range `[hi:lo]`. -/
structure Fld where
  addr : Nat
  hi : Nat
  lo : Nat
deriving DecidableEq, Repr

/-- One row of the register map: the registers at `base + stride * i + stride2 * j` for `i < count`, `j < count2`, their reset
value, and the bits of each access code (R6). A bit in no mask is reserved (R5). -/
structure RegRow where
  base : Nat
  stride : Nat
  count : Nat
  stride2 : Nat
  count2 : Nat
  reset : Word
  rw : Word
  w1c : Word
  wo : Word
  rwl : Word
  rws : Word
  ro : Word
deriving DecidableEq, Repr


/-! ### SYS -/

/-- SYS_LEMAP, 01_architecture.md. -/
def SYS_LEMAP.reg (k : Nat) : Nat := 0x40000040 + 0x4 * k
/-- VALID of logical engine `e` (byte `e mod 4` of SYS_LEMAP`e / 4`). -/
def SYS_LEMAP.VALID (e : Nat) : Fld := ⟨SYS_LEMAP.reg (e / 4), 8 * (e % 4) + 7, 8 * (e % 4) + 7⟩
/-- PHYS of logical engine `e`. -/
def SYS_LEMAP.PHYS (e : Nat) : Fld := ⟨SYS_LEMAP.reg (e / 4), 8 * (e % 4) + 4, 8 * (e % 4)⟩
/-- SYS_SPARE, 01_architecture.md. -/
def SYS_SPARE.reg : Nat := 0x40000050
def SYS_SPARE.VALID1 : Fld := ⟨SYS_SPARE.reg, 15, 15⟩
def SYS_SPARE.SPARE1 : Fld := ⟨SYS_SPARE.reg, 12, 8⟩
def SYS_SPARE.VALID0 : Fld := ⟨SYS_SPARE.reg, 7, 7⟩
def SYS_SPARE.SPARE0 : Fld := ⟨SYS_SPARE.reg, 4, 0⟩
/-- SYS_RETIRED, 01_architecture.md. -/
def SYS_RETIRED.reg : Nat := 0x40000054
def SYS_RETIRED.RET : Fld := ⟨SYS_RETIRED.reg, 17, 0⟩
/-- SYS_MAPSEQ, 01_architecture.md. -/
def SYS_MAPSEQ.reg : Nat := 0x40000058
def SYS_MAPSEQ.SEQ : Fld := ⟨SYS_MAPSEQ.reg, 15, 0⟩
/-- SYS_MODE, 02_modes_and_startup.md. -/
def SYS_MODE.reg : Nat := 0x40000004
def SYS_MODE.REASON : Fld := ⟨SYS_MODE.reg, 23, 16⟩
def SYS_MODE.TRANS : Fld := ⟨SYS_MODE.reg, 15, 15⟩
def SYS_MODE.TARGET : Fld := ⟨SYS_MODE.reg, 11, 8⟩
def SYS_MODE.PREV : Fld := ⟨SYS_MODE.reg, 7, 4⟩
def SYS_MODE.MODE : Fld := ⟨SYS_MODE.reg, 3, 0⟩
/-- SYS_CMD, 02_modes_and_startup.md. -/
def SYS_CMD.reg : Nat := 0x40000008
def SYS_CMD.KEY : Fld := ⟨SYS_CMD.reg, 31, 16⟩
def SYS_CMD.CMD : Fld := ⟨SYS_CMD.reg, 3, 0⟩
/-- SYS_CMDSTAT, 02_modes_and_startup.md. -/
def SYS_CMDSTAT.reg : Nat := 0x4000000C
def SYS_CMDSTAT.LASTCMD : Fld := ⟨SYS_CMDSTAT.reg, 7, 4⟩
def SYS_CMDSTAT.CMDERR : Fld := ⟨SYS_CMDSTAT.reg, 3, 0⟩
/-- SYS_BOOTSTAT, 02_modes_and_startup.md. -/
def SYS_BOOTSTAT.reg : Nat := 0x40000010
def SYS_BOOTSTAT.CFGERR : Fld := ⟨SYS_BOOTSTAT.reg, 31, 24⟩
def SYS_BOOTSTAT.SEQEQ : Fld := ⟨SYS_BOOTSTAT.reg, 23, 23⟩
def SYS_BOOTSTAT.MIGRATED : Fld := ⟨SYS_BOOTSTAT.reg, 22, 22⟩
def SYS_BOOTSTAT.QUADFB : Fld := ⟨SYS_BOOTSTAT.reg, 21, 21⟩
def SYS_BOOTSTAT.FWBANK : Fld := ⟨SYS_BOOTSTAT.reg, 20, 20⟩
def SYS_BOOTSTAT.CFGBANK : Fld := ⟨SYS_BOOTSTAT.reg, 19, 19⟩
def SYS_BOOTSTAT.WARMOK : Fld := ⟨SYS_BOOTSTAT.reg, 18, 18⟩
def SYS_BOOTSTAT.FMTMAJ : Fld := ⟨SYS_BOOTSTAT.reg, 15, 8⟩
def SYS_BOOTSTAT.FMTMIN : Fld := ⟨SYS_BOOTSTAT.reg, 7, 0⟩
/-- SYS_RSTCAUSE, 02_modes_and_startup.md. -/
def SYS_RSTCAUSE.reg : Nat := 0x40000014
def SYS_RSTCAUSE.PFLUSH : Fld := ⟨SYS_RSTCAUSE.reg, 4, 4⟩
def SYS_RSTCAUSE.WDG : Fld := ⟨SYS_RSTCAUSE.reg, 3, 3⟩
def SYS_RSTCAUSE.SW : Fld := ⟨SYS_RSTCAUSE.reg, 2, 2⟩
def SYS_RSTCAUSE.PIN : Fld := ⟨SYS_RSTCAUSE.reg, 1, 1⟩
def SYS_RSTCAUSE.POR : Fld := ⟨SYS_RSTCAUSE.reg, 0, 0⟩

/-! ### SCN -/

/-- SCN_CTL, 05_scan_execution.md. -/
def SCN_CTL.reg : Nat := 0x40020000
def SCN_CTL.IEN : Fld := ⟨SCN_CTL.reg, 5, 0⟩
/-- SCN_STAT, 05_scan_execution.md. -/
def SCN_STAT.reg : Nat := 0x40020004
def SCN_STAT.LOWRATE : Fld := ⟨SCN_STAT.reg, 5, 5⟩
def SCN_STAT.EVOVF : Fld := ⟨SCN_STAT.reg, 4, 4⟩
def SCN_STAT.LATE : Fld := ⟨SCN_STAT.reg, 3, 3⟩
def SCN_STAT.SL : Fld := ⟨SCN_STAT.reg, 2, 2⟩
def SCN_STAT.OV : Fld := ⟨SCN_STAT.reg, 1, 1⟩
def SCN_STAT.PW : Fld := ⟨SCN_STAT.reg, 0, 0⟩
/-- SCN_IMGSEQ, 05_scan_execution.md. -/
def SCN_IMGSEQ.reg : Nat := 0x40020008
def SCN_IMGSEQ.SEQ : Fld := ⟨SCN_IMGSEQ.reg, 31, 0⟩
/-- SCN_ANCHORL, 05_scan_execution.md. -/
def SCN_ANCHORL.reg : Nat := 0x40020010
def SCN_ANCHORL.ANCHOR : Fld := ⟨SCN_ANCHORL.reg, 31, 0⟩
/-- SCN_ANCHORH, 05_scan_execution.md. -/
def SCN_ANCHORH.reg : Nat := 0x40020014
def SCN_ANCHORH.ANCHOR : Fld := ⟨SCN_ANCHORH.reg, 31, 0⟩
/-- SCN_PACECFG, 05_scan_execution.md. -/
def SCN_PACECFG.reg : Nat := 0x40020018
def SCN_PACECFG.HYST : Fld := ⟨SCN_PACECFG.reg, 23, 16⟩
def SCN_PACECFG.THR : Fld := ⟨SCN_PACECFG.reg, 11, 0⟩
/-- SCN_TCFG, 05_scan_execution.md. -/
def SCN_TCFG.reg (t : Nat) : Nat := 0x40020100 + 0x40 * t
def SCN_TCFG.LEDGMAX (t : Nat) : Fld := ⟨SCN_TCFG.reg t, 31, 24⟩
def SCN_TCFG.HOLDLIM (t : Nat) : Fld := ⟨SCN_TCFG.reg t, 23, 20⟩
def SCN_TCFG.PRIO (t : Nat) : Fld := ⟨SCN_TCFG.reg t, 16, 12⟩
def SCN_TCFG.LE (t : Nat) : Fld := ⟨SCN_TCFG.reg t, 11, 8⟩
def SCN_TCFG.SUB (t : Nat) : Fld := ⟨SCN_TCFG.reg t, 4, 3⟩
def SCN_TCFG.KIND (t : Nat) : Fld := ⟨SCN_TCFG.reg t, 2, 0⟩
/-- SCN_TPERIOD, 05_scan_execution.md. -/
def SCN_TPERIOD.reg (t : Nat) : Nat := 0x40020104 + 0x40 * t
def SCN_TPERIOD.PERIOD (t : Nat) : Fld := ⟨SCN_TPERIOD.reg t, 23, 0⟩
/-- SCN_TPHASE, 05_scan_execution.md. -/
def SCN_TPHASE.reg (t : Nat) : Nat := 0x40020108 + 0x40 * t
def SCN_TPHASE.PHASE (t : Nat) : Fld := ⟨SCN_TPHASE.reg t, 23, 0⟩
/-- SCN_TBUD, 05_scan_execution.md. -/
def SCN_TBUD.reg (t : Nat) : Nat := 0x4002010C + 0x40 * t
def SCN_TBUD.TBUD (t : Nat) : Fld := ⟨SCN_TBUD.reg t, 31, 0⟩
/-- SCN_TENTRY, 05_scan_execution.md. -/
def SCN_TENTRY.reg (t : Nat) : Nat := 0x40020110 + 0x40 * t
def SCN_TENTRY.ENTRY (t : Nat) : Fld := ⟨SCN_TENTRY.reg t, 31, 0⟩
/-- SCN_TIBD, 05_scan_execution.md. -/
def SCN_TIBD.reg (t : Nat) : Nat := 0x40020114 + 0x40 * t
def SCN_TIBD.IBD (t : Nat) : Fld := ⟨SCN_TIBD.reg t, 31, 0⟩
/-- SCN_TIBB, 05_scan_execution.md. -/
def SCN_TIBB.reg (t : Nat) : Nat := 0x40020118 + 0x40 * t
def SCN_TIBB.IBB (t : Nat) : Fld := ⟨SCN_TIBB.reg t, 23, 0⟩
/-- SCN_TSTKLO, 05_scan_execution.md. -/
def SCN_TSTKLO.reg (t : Nat) : Nat := 0x4002011C + 0x40 * t
def SCN_TSTKLO.FLOOR (t : Nat) : Fld := ⟨SCN_TSTKLO.reg t, 31, 0⟩
/-- SCN_TSTKHI, 05_scan_execution.md. -/
def SCN_TSTKHI.reg (t : Nat) : Nat := 0x40020120 + 0x40 * t
def SCN_TSTKHI.TOP (t : Nat) : Fld := ⟨SCN_TSTKHI.reg t, 31, 0⟩
/-- SCN_TEVT, 05_scan_execution.md. -/
def SCN_TEVT.reg (t : Nat) : Nat := 0x40020124 + 0x40 * t
def SCN_TEVT.SRC (t : Nat) : Fld := ⟨SCN_TEVT.reg t, 27, 24⟩
def SCN_TEVT.SEL (t : Nat) : Fld := ⟨SCN_TEVT.reg t, 23, 0⟩
/-- SCN_TPART0, 05_scan_execution.md. -/
def SCN_TPART0.reg (t : Nat) : Nat := 0x40020128 + 0x40 * t
def SCN_TPART0.STN (t : Nat) : Fld := ⟨SCN_TPART0.reg t, 31, 0⟩
/-- SCN_TPART1, 05_scan_execution.md. -/
def SCN_TPART1.reg (t : Nat) : Nat := 0x4002012C + 0x40 * t
def SCN_TPART1.STN (t : Nat) : Fld := ⟨SCN_TPART1.reg t, 31, 0⟩
/-- SCN_TPART2, 05_scan_execution.md. -/
def SCN_TPART2.reg (t : Nat) : Nat := 0x40020130 + 0x40 * t
def SCN_TPART2.STN (t : Nat) : Fld := ⟨SCN_TPART2.reg t, 31, 0⟩
/-- SCN_TPART3, 05_scan_execution.md. -/
def SCN_TPART3.reg (t : Nat) : Nat := 0x40020134 + 0x40 * t
def SCN_TPART3.STN (t : Nat) : Fld := ⟨SCN_TPART3.reg t, 31, 0⟩
/-- SCN_TSTAT, 05_scan_execution.md. -/
def SCN_TSTAT.reg (t : Nat) : Nat := 0x40020138 + 0x40 * t
def SCN_TSTAT.ABNCNT (t : Nat) : Fld := ⟨SCN_TSTAT.reg t, 19, 16⟩
def SCN_TSTAT.EVOVF (t : Nat) : Fld := ⟨SCN_TSTAT.reg t, 10, 10⟩
def SCN_TSTAT.LATE (t : Nat) : Fld := ⟨SCN_TSTAT.reg t, 9, 9⟩
def SCN_TSTAT.OVR (t : Nat) : Fld := ⟨SCN_TSTAT.reg t, 8, 8⟩
def SCN_TSTAT.OVK (t : Nat) : Fld := ⟨SCN_TSTAT.reg t, 7, 6⟩
def SCN_TSTAT.SUBST (t : Nat) : Fld := ⟨SCN_TSTAT.reg t, 5, 5⟩
def SCN_TSTAT.HELD (t : Nat) : Fld := ⟨SCN_TSTAT.reg t, 4, 4⟩
def SCN_TSTAT.PHASE (t : Nat) : Fld := ⟨SCN_TSTAT.reg t, 3, 1⟩
def SCN_TSTAT.ACT (t : Nat) : Fld := ⟨SCN_TSTAT.reg t, 0, 0⟩
/-- SCN_TMAX, 05_scan_execution.md. -/
def SCN_TMAX.reg (t : Nat) : Nat := 0x4002013C + 0x40 * t
def SCN_TMAX.MAX (t : Nat) : Fld := ⟨SCN_TMAX.reg t, 31, 0⟩
/-- SCN_TSCAN, 05_scan_execution.md. -/
def SCN_TSCAN.reg (t : Nat) : Nat := 0x40020900 + 0x4 * t
def SCN_TSCAN.SCAN (t : Nat) : Fld := ⟨SCN_TSCAN.reg t, 31, 0⟩
/-- SCN_LEPACE, 05_scan_execution.md. -/
def SCN_LEPACE.reg (e : Nat) : Nat := 0x40020A00 + 0x4 * e
def SCN_LEPACE.MINRATE (e : Nat) : Fld := ⟨SCN_LEPACE.reg e, 27, 16⟩
def SCN_LEPACE.LOW (e : Nat) : Fld := ⟨SCN_LEPACE.reg e, 13, 13⟩
def SCN_LEPACE.WARN (e : Nat) : Fld := ⟨SCN_LEPACE.reg e, 12, 12⟩
def SCN_LEPACE.RATE (e : Nat) : Fld := ⟨SCN_LEPACE.reg e, 11, 0⟩
/-- SCN_LESLACK, 05_scan_execution.md. -/
def SCN_LESLACK.reg (e : Nat) : Nat := 0x40020A40 + 0x4 * e
def SCN_LESLACK.MIN (e : Nat) : Fld := ⟨SCN_LESLACK.reg e, 25, 16⟩
def SCN_LESLACK.LAST (e : Nat) : Fld := ⟨SCN_LESLACK.reg e, 9, 0⟩

/-! ### SHD -/

/-- SHD_CTL, 06_coded_time_redundancy.md. -/
def SHD_CTL.reg : Nat := 0x40030000
def SHD_CTL.IEN : Fld := ⟨SHD_CTL.reg, 6, 0⟩
/-- SHD_STAT, 06_coded_time_redundancy.md. -/
def SHD_STAT.reg : Nat := 0x40030004
def SHD_STAT.MMLOST : Fld := ⟨SHD_STAT.reg, 6, 6⟩
def SHD_STAT.WUDONE : Fld := ⟨SHD_STAT.reg, 5, 5⟩
def SHD_STAT.JLIM : Fld := ⟨SHD_STAT.reg, 4, 4⟩
def SHD_STAT.NOSPARE : Fld := ⟨SHD_STAT.reg, 3, 3⟩
def SHD_STAT.UNREC : Fld := ⟨SHD_STAT.reg, 2, 2⟩
def SHD_STAT.RETIRE : Fld := ⟨SHD_STAT.reg, 1, 1⟩
def SHD_STAT.MM : Fld := ⟨SHD_STAT.reg, 0, 0⟩
/-- SHD_CNT, 06_coded_time_redundancy.md. -/
def SHD_CNT.reg : Nat := 0x40030008
def SHD_CNT.UNRECCNT : Fld := ⟨SHD_CNT.reg, 31, 24⟩
def SHD_CNT.RETCNT : Fld := ⟨SHD_CNT.reg, 23, 16⟩
def SHD_CNT.TRANSCNT : Fld := ⟨SHD_CNT.reg, 15, 0⟩
/-- SHD_LOCK, 06_coded_time_redundancy.md. -/
def SHD_LOCK.reg : Nat := 0x4003000C
def SHD_LOCK.MODELK : Fld := ⟨SHD_LOCK.reg, 0, 0⟩
/-- SHD_MMINFO, 06_coded_time_redundancy.md. -/
def SHD_MMINFO.reg : Nat := 0x40030010
def SHD_MMINFO.VALID : Fld := ⟨SHD_MMINFO.reg, 31, 31⟩
def SHD_MMINFO.PHYS : Fld := ⟨SHD_MMINFO.reg, 28, 24⟩
def SHD_MMINFO.LE : Fld := ⟨SHD_MMINFO.reg, 19, 16⟩
def SHD_MMINFO.TASK : Fld := ⟨SHD_MMINFO.reg, 12, 8⟩
def SHD_MMINFO.VERDICT : Fld := ⟨SHD_MMINFO.reg, 6, 4⟩
def SHD_MMINFO.KIND : Fld := ⟨SHD_MMINFO.reg, 2, 0⟩
/-- SHD_MMPC, 06_coded_time_redundancy.md. -/
def SHD_MMPC.reg : Nat := 0x40030014
def SHD_MMPC.PC : Fld := ⟨SHD_MMPC.reg, 31, 0⟩
/-- SHD_MMADDR, 06_coded_time_redundancy.md. -/
def SHD_MMADDR.reg : Nat := 0x40030018
def SHD_MMADDR.ADDR : Fld := ⟨SHD_MMADDR.reg, 31, 0⟩
/-- SHD_MMTS, 06_coded_time_redundancy.md. -/
def SHD_MMTS.reg : Nat := 0x4003001C
def SHD_MMTS.TS : Fld := ⟨SHD_MMTS.reg, 31, 0⟩
/-- SHD_MMPVL, 06_coded_time_redundancy.md. -/
def SHD_MMPVL.reg : Nat := 0x40030020
def SHD_MMPVL.PVAL : Fld := ⟨SHD_MMPVL.reg, 31, 0⟩
/-- SHD_MMPVH, 06_coded_time_redundancy.md. -/
def SHD_MMPVH.reg : Nat := 0x40030024
def SHD_MMPVH.PVAL : Fld := ⟨SHD_MMPVH.reg, 31, 0⟩
/-- SHD_MMSVL, 06_coded_time_redundancy.md. -/
def SHD_MMSVL.reg : Nat := 0x40030028
def SHD_MMSVL.SVAL : Fld := ⟨SHD_MMSVL.reg, 31, 0⟩
/-- SHD_MMSVH, 06_coded_time_redundancy.md. -/
def SHD_MMSVH.reg : Nat := 0x4003002C
def SHD_MMSVH.SVAL : Fld := ⟨SHD_MMSVH.reg, 31, 0⟩
/-- SHD_TCFG, 06_coded_time_redundancy.md. -/
def SHD_TCFG.reg (t : Nat) : Nat := 0x40030100 + 0x20 * t
def SHD_TCFG.PAIROK (t : Nat) : Fld := ⟨SHD_TCFG.reg t, 31, 31⟩
def SHD_TCFG.PAIRINIT (t : Nat) : Fld := ⟨SHD_TCFG.reg t, 30, 30⟩
def SHD_TCFG.JMAX (t : Nat) : Fld := ⟨SHD_TCFG.reg t, 28, 16⟩
def SHD_TCFG.RSV (t : Nat) : Fld := ⟨SHD_TCFG.reg t, 11, 0⟩
/-- SHD_TMODE, 06_coded_time_redundancy.md. -/
def SHD_TMODE.reg (t : Nat) : Nat := 0x40030104 + 0x20 * t
def SHD_TMODE.MODE (t : Nat) : Fld := ⟨SHD_TMODE.reg t, 0, 0⟩
/-- SHD_TSTAT, 06_coded_time_redundancy.md. -/
def SHD_TSTAT.reg (t : Nat) : Nat := 0x40030108 + 0x20 * t
def SHD_TSTAT.JHWM (t : Nat) : Fld := ⟨SHD_TSTAT.reg t, 28, 16⟩
def SHD_TSTAT.REEX (t : Nat) : Fld := ⟨SHD_TSTAT.reg t, 7, 4⟩
def SHD_TSTAT.PEND (t : Nat) : Fld := ⟨SHD_TSTAT.reg t, 2, 2⟩
def SHD_TSTAT.WARM (t : Nat) : Fld := ⟨SHD_TSTAT.reg t, 1, 1⟩
def SHD_TSTAT.CUR (t : Nat) : Fld := ⟨SHD_TSTAT.reg t, 0, 0⟩
/-- SHD_TPDBASE, 06_coded_time_redundancy.md. -/
def SHD_TPDBASE.reg (t : Nat) : Nat := 0x4003010C + 0x20 * t
def SHD_TPDBASE.BASE (t : Nat) : Fld := ⟨SHD_TPDBASE.reg t, 31, 0⟩
/-- SHD_TPDLEN, 06_coded_time_redundancy.md. -/
def SHD_TPDLEN.reg (t : Nat) : Nat := 0x40030110 + 0x20 * t
def SHD_TPDLEN.LEN (t : Nat) : Fld := ⟨SHD_TPDLEN.reg t, 21, 0⟩
/-- SHD_TPBBASE, 06_coded_time_redundancy.md. -/
def SHD_TPBBASE.reg (t : Nat) : Nat := 0x40030114 + 0x20 * t
def SHD_TPBBASE.BASE (t : Nat) : Fld := ⟨SHD_TPBBASE.reg t, 23, 0⟩
/-- SHD_TPBLEN, 06_coded_time_redundancy.md. -/
def SHD_TPBLEN.reg (t : Nat) : Nat := 0x40030118 + 0x20 * t
def SHD_TPBLEN.LEN (t : Nat) : Fld := ⟨SHD_TPBLEN.reg t, 22, 0⟩
/-- SHD_LEJRN, 06_coded_time_redundancy.md. -/
def SHD_LEJRN.reg (e : Nat) : Nat := 0x40030500 + 0x4 * e
def SHD_LEJRN.HWM (e : Nat) : Fld := ⟨SHD_LEJRN.reg e, 28, 16⟩
def SHD_LEJRN.USED (e : Nat) : Fld := ⟨SHD_LEJRN.reg e, 12, 0⟩

/-! ### OLC -/

/-- OLC_CTL, 07_online_change_and_forcing.md. -/
def OLC_CTL.reg : Nat := 0x40040000
def OLC_CTL.HDBEN : Fld := ⟨OLC_CTL.reg, 13, 13⟩
def OLC_CTL.HDB : Fld := ⟨OLC_CTL.reg, 12, 8⟩
def OLC_CTL.IEN : Fld := ⟨OLC_CTL.reg, 6, 0⟩
/-- OLC_STAT, 07_online_change_and_forcing.md. -/
def OLC_STAT.reg : Nat := 0x40040004
def OLC_STAT.FERRS : Fld := ⟨OLC_STAT.reg, 6, 6⟩
def OLC_STAT.DISC : Fld := ⟨OLC_STAT.reg, 5, 5⟩
def OLC_STAT.FDROP : Fld := ⟨OLC_STAT.reg, 4, 4⟩
def OLC_STAT.ABORT : Fld := ⟨OLC_STAT.reg, 3, 3⟩
def OLC_STAT.ACTDONE : Fld := ⟨OLC_STAT.reg, 2, 2⟩
def OLC_STAT.ERR : Fld := ⟨OLC_STAT.reg, 1, 1⟩
def OLC_STAT.LDDONE : Fld := ⟨OLC_STAT.reg, 0, 0⟩
/-- OLC_STATE, 07_online_change_and_forcing.md. -/
def OLC_STATE.reg : Nat := 0x40040008
def OLC_STATE.FERR : Fld := ⟨OLC_STATE.reg, 27, 24⟩
def OLC_STATE.ACTERR : Fld := ⟨OLC_STATE.reg, 23, 16⟩
def OLC_STATE.LDERR : Fld := ⟨OLC_STATE.reg, 15, 8⟩
def OLC_STATE.STATE : Fld := ⟨OLC_STATE.reg, 2, 0⟩
/-- OLC_CMD, 07_online_change_and_forcing.md. -/
def OLC_CMD.reg : Nat := 0x4004000C
def OLC_CMD.KEY : Fld := ⟨OLC_CMD.reg, 31, 16⟩
def OLC_CMD.CMD : Fld := ⟨OLC_CMD.reg, 3, 0⟩
/-- OLC_LDSRC, 07_online_change_and_forcing.md. -/
def OLC_LDSRC.reg : Nat := 0x40040010
def OLC_LDSRC.SRC : Fld := ⟨OLC_LDSRC.reg, 31, 0⟩
/-- OLC_LDLEN, 07_online_change_and_forcing.md. -/
def OLC_LDLEN.reg : Nat := 0x40040014
def OLC_LDLEN.LEN : Fld := ⟨OLC_LDLEN.reg, 31, 0⟩
/-- OLC_ACT, 07_online_change_and_forcing.md. -/
def OLC_ACT.reg : Nat := 0x40040018
def OLC_ACT.ARMSCOPE : Fld := ⟨OLC_ACT.reg, 0, 0⟩
/-- OLC_ACTSCAN, 07_online_change_and_forcing.md. -/
def OLC_ACTSCAN.reg : Nat := 0x4004001C
def OLC_ACTSCAN.SCAN : Fld := ⟨OLC_ACTSCAN.reg, 31, 0⟩
/-- OLC_RUNIDL, 07_online_change_and_forcing.md. -/
def OLC_RUNIDL.reg : Nat := 0x40040020
def OLC_RUNIDL.RUNID : Fld := ⟨OLC_RUNIDL.reg, 31, 0⟩
/-- OLC_RUNIDH, 07_online_change_and_forcing.md. -/
def OLC_RUNIDH.reg : Nat := 0x40040024
def OLC_RUNIDH.RUNID : Fld := ⟨OLC_RUNIDH.reg, 31, 0⟩
/-- OLC_STGIDL, 07_online_change_and_forcing.md. -/
def OLC_STGIDL.reg : Nat := 0x40040028
def OLC_STGIDL.STGID : Fld := ⟨OLC_STGIDL.reg, 31, 0⟩
/-- OLC_STGIDH, 07_online_change_and_forcing.md. -/
def OLC_STGIDH.reg : Nat := 0x4004002C
def OLC_STGIDH.STGID : Fld := ⟨OLC_STGIDH.reg, 31, 0⟩
/-- OLC_PSTGL, 07_online_change_and_forcing.md. -/
def OLC_PSTGL.reg : Nat := 0x40040030
def OLC_PSTGL.PSTG : Fld := ⟨OLC_PSTGL.reg, 31, 0⟩
/-- OLC_PSTGH, 07_online_change_and_forcing.md. -/
def OLC_PSTGH.reg : Nat := 0x40040034
def OLC_PSTGH.PSTG : Fld := ⟨OLC_PSTGH.reg, 31, 0⟩
/-- OLC_MIGT, 07_online_change_and_forcing.md. -/
def OLC_MIGT.reg : Nat := 0x40040038
def OLC_MIGT.MIGT : Fld := ⟨OLC_MIGT.reg, 31, 0⟩
/-- OLC_MIGMAX, 07_online_change_and_forcing.md. -/
def OLC_MIGMAX.reg : Nat := 0x4004003C
def OLC_MIGMAX.MIGMAX : Fld := ⟨OLC_MIGMAX.reg, 11, 0⟩
/-- OLC_ACTSEQ, 07_online_change_and_forcing.md. -/
def OLC_ACTSEQ.reg : Nat := 0x40040040
def OLC_ACTSEQ.SEQ : Fld := ⟨OLC_ACTSEQ.reg, 31, 0⟩
/-- OLC_DISCNT, 07_online_change_and_forcing.md. -/
def OLC_DISCNT.reg : Nat := 0x40040044
def OLC_DISCNT.CNT : Fld := ⟨OLC_DISCNT.reg, 31, 0⟩
/-- OLC_FIDX, 07_online_change_and_forcing.md. -/
def OLC_FIDX.reg : Nat := 0x40040080
def OLC_FIDX.IDX : Fld := ⟨OLC_FIDX.reg, 7, 0⟩
/-- OLC_FID, 07_online_change_and_forcing.md. -/
def OLC_FID.reg : Nat := 0x40040084
def OLC_FID.ID : Fld := ⟨OLC_FID.reg, 31, 0⟩
/-- OLC_FVALL, 07_online_change_and_forcing.md. -/
def OLC_FVALL.reg : Nat := 0x40040088
def OLC_FVALL.VAL : Fld := ⟨OLC_FVALL.reg, 31, 0⟩
/-- OLC_FVALH, 07_online_change_and_forcing.md. -/
def OLC_FVALH.reg : Nat := 0x4004008C
def OLC_FVALH.VAL : Fld := ⟨OLC_FVALH.reg, 31, 0⟩
/-- OLC_FINFO, 07_online_change_and_forcing.md. -/
def OLC_FINFO.reg : Nat := 0x40040090
def OLC_FINFO.VALID : Fld := ⟨OLC_FINFO.reg, 31, 31⟩
def OLC_FINFO.PEND : Fld := ⟨OLC_FINFO.reg, 30, 30⟩
def OLC_FINFO.SPACE : Fld := ⟨OLC_FINFO.reg, 29, 27⟩
def OLC_FINFO.SIZE : Fld := ⟨OLC_FINFO.reg, 26, 25⟩
def OLC_FINFO.OWNER : Fld := ⟨OLC_FINFO.reg, 24, 20⟩
def OLC_FINFO.NOOWN : Fld := ⟨OLC_FINFO.reg, 19, 19⟩
def OLC_FINFO.FCNT : Fld := ⟨OLC_FINFO.reg, 8, 0⟩
/-- OLC_FLOC, 07_online_change_and_forcing.md. -/
def OLC_FLOC.reg : Nat := 0x40040094
def OLC_FLOC.LOC : Fld := ⟨OLC_FLOC.reg, 31, 0⟩
/-- OLC_FCMD, 07_online_change_and_forcing.md. -/
def OLC_FCMD.reg : Nat := 0x40040098
def OLC_FCMD.KEY : Fld := ⟨OLC_FCMD.reg, 31, 16⟩
def OLC_FCMD.CMD : Fld := ⟨OLC_FCMD.reg, 1, 0⟩
/-- OLC_FDID, 07_online_change_and_forcing.md. -/
def OLC_FDID.reg : Nat := 0x4004009C
def OLC_FDID.ID : Fld := ⟨OLC_FDID.reg, 31, 0⟩
/-- OLC_FDRSN, 07_online_change_and_forcing.md. -/
def OLC_FDRSN.reg : Nat := 0x400400A0
def OLC_FDRSN.CNT : Fld := ⟨OLC_FDRSN.reg, 9, 2⟩
def OLC_FDRSN.FDRSN : Fld := ⟨OLC_FDRSN.reg, 1, 0⟩

/-! ### STN -/

/-- STN_CTL, 08_station_rings.md. -/
def STN_CTL.reg (n : Nat) : Nat := 0x40050000 + 0x4000 * n
def STN_CTL.ACTO (n : Nat) : Fld := ⟨STN_CTL.reg n, 23, 16⟩
def STN_CTL.IMKEEP (n : Nat) : Fld := ⟨STN_CTL.reg n, 8, 8⟩
def STN_CTL.IEN (n : Nat) : Fld := ⟨STN_CTL.reg n, 7, 0⟩
/-- STN_STAT, 08_station_rings.md. -/
def STN_STAT.reg (n : Nat) : Nat := 0x40050004 + 0x4000 * n
def STN_STAT.RTDERR (n : Nat) : Fld := ⟨STN_STAT.reg n, 8, 8⟩
def STN_STAT.EVQOVF (n : Nat) : Fld := ⟨STN_STAT.reg n, 7, 7⟩
def STN_STAT.ACMP (n : Nat) : Fld := ⟨STN_STAT.reg n, 6, 6⟩
def STN_STAT.PGFE (n : Nat) : Fld := ⟨STN_STAT.reg n, 5, 5⟩
def STN_STAT.DIAGS (n : Nat) : Fld := ⟨STN_STAT.reg n, 4, 4⟩
def STN_STAT.REJOIN (n : Nat) : Fld := ⟨STN_STAT.reg n, 3, 3⟩
def STN_STAT.DROPE (n : Nat) : Fld := ⟨STN_STAT.reg n, 2, 2⟩
def STN_STAT.L1FAIL (n : Nat) : Fld := ⟨STN_STAT.reg n, 1, 1⟩
def STN_STAT.BREAK (n : Nat) : Fld := ⟨STN_STAT.reg n, 0, 0⟩
/-- STN_STATE, 08_station_rings.md. -/
def STN_STATE.reg (n : Nat) : Nat := 0x40050008 + 0x4000 * n
def STN_STATE.AQERR (n : Nat) : Fld := ⟨STN_STATE.reg n, 11, 8⟩
def STN_STATE.NSTN (n : Nat) : Fld := ⟨STN_STATE.reg n, 5, 0⟩
/-- STN_CYC, 08_station_rings.md. -/
def STN_CYC.reg (n : Nat) : Nat := 0x4005000C + 0x4000 * n
def STN_CYC.IMCYC (n : Nat) : Fld := ⟨STN_CYC.reg n, 31, 24⟩
def STN_CYC.CYCLE (n : Nat) : Fld := ⟨STN_CYC.reg n, 13, 0⟩
/-- STN_LAT, 08_station_rings.md. -/
def STN_LAT.reg (n : Nat) : Nat := 0x40050010 + 0x4000 * n
def STN_LAT.STATE (n : Nat) : Fld := ⟨STN_LAT.reg n, 31, 29⟩
def STN_LAT.B0NONE (n : Nat) : Fld := ⟨STN_LAT.reg n, 27, 27⟩
def STN_LAT.BRKPOS (n : Nat) : Fld := ⟨STN_LAT.reg n, 26, 22⟩
def STN_LAT.ACWIN (n : Nat) : Fld := ⟨STN_LAT.reg n, 21, 16⟩
def STN_LAT.RTD (n : Nat) : Fld := ⟨STN_LAT.reg n, 15, 0⟩
/-- STN_CYCNO, 08_station_rings.md. -/
def STN_CYCNO.reg (n : Nat) : Nat := 0x40050014 + 0x4000 * n
def STN_CYCNO.CYCNO (n : Nat) : Fld := ⟨STN_CYCNO.reg n, 31, 0⟩
/-- STN_DROP, 08_station_rings.md. -/
def STN_DROP.reg (n : Nat) : Nat := 0x40050018 + 0x4000 * n
def STN_DROP.DROP (n : Nat) : Fld := ⟨STN_DROP.reg n, 31, 0⟩
/-- STN_DIAGB, 08_station_rings.md. -/
def STN_DIAGB.reg (n : Nat) : Nat := 0x4005001C + 0x4000 * n
def STN_DIAGB.DIAG (n : Nat) : Fld := ⟨STN_DIAGB.reg n, 31, 0⟩
/-- STN_PGF0, 08_station_rings.md. -/
def STN_PGF0.reg (n : Nat) : Nat := 0x40050020 + 0x4000 * n
def STN_PGF0.PGF (n : Nat) : Fld := ⟨STN_PGF0.reg n, 31, 0⟩
/-- STN_PGF1, 08_station_rings.md. -/
def STN_PGF1.reg (n : Nat) : Nat := 0x40050024 + 0x4000 * n
def STN_PGF1.PGF (n : Nat) : Fld := ⟨STN_PGF1.reg n, 31, 0⟩
/-- STN_AQSUB, 08_station_rings.md. -/
def STN_AQSUB.reg (n : Nat) : Nat := 0x40050028 + 0x4000 * n
def STN_AQSUB.GO (n : Nat) : Fld := ⟨STN_AQSUB.reg n, 6, 6⟩
def STN_AQSUB.TAG (n : Nat) : Fld := ⟨STN_AQSUB.reg n, 5, 0⟩
/-- STN_ACMP0, 08_station_rings.md. -/
def STN_ACMP0.reg (n : Nat) : Nat := 0x4005002C + 0x4000 * n
def STN_ACMP0.CMP (n : Nat) : Fld := ⟨STN_ACMP0.reg n, 31, 0⟩
/-- STN_ACMP1, 08_station_rings.md. -/
def STN_ACMP1.reg (n : Nat) : Nat := 0x40050030 + 0x4000 * n
def STN_ACMP1.CMP (n : Nat) : Fld := ⟨STN_ACMP1.reg n, 31, 0⟩
/-- STN_SUBBASE, 08_station_rings.md. -/
def STN_SUBBASE.reg (n : Nat) : Nat := 0x40050034 + 0x4000 * n
def STN_SUBBASE.BASE (n : Nat) : Fld := ⟨STN_SUBBASE.reg n, 31, 0⟩
/-- STN_SCFG, 08_station_rings.md. -/
def STN_SCFG.reg (n : Nat) (s : Nat) : Nat := 0x40050100 + 0x4000 * n + 0x10 * s
def STN_SCFG.MISSLIM (n : Nat) (s : Nat) : Fld := ⟨STN_SCFG.reg n s, 31, 28⟩
def STN_SCFG.PULSEN (n : Nat) (s : Nat) : Fld := ⟨STN_SCFG.reg n s, 27, 27⟩
def STN_SCFG.AOW (n : Nat) (s : Nat) : Fld := ⟨STN_SCFG.reg n s, 26, 20⟩
def STN_SCFG.AIW (n : Nat) (s : Nat) : Fld := ⟨STN_SCFG.reg n s, 19, 13⟩
def STN_SCFG.DOB (n : Nat) (s : Nat) : Fld := ⟨STN_SCFG.reg n s, 12, 8⟩
def STN_SCFG.DIB (n : Nat) (s : Nat) : Fld := ⟨STN_SCFG.reg n s, 7, 3⟩
/-- STN_SCAP, 08_station_rings.md. -/
def STN_SCAP.reg (n : Nat) (s : Nat) : Nat := 0x40050104 + 0x4000 * n + 0x10 * s
def STN_SCAP.CAP (n : Nat) (s : Nat) : Fld := ⟨STN_SCAP.reg n s, 31, 0⟩
/-- STN_SSTAT, 08_station_rings.md. -/
def STN_SSTAT.reg (n : Nat) (s : Nat) : Nat := 0x40050108 + 0x4000 * n + 0x10 * s
def STN_SSTAT.CRCERR (n : Nat) (s : Nat) : Fld := ⟨STN_SSTAT.reg n s, 31, 24⟩
def STN_SSTAT.STALE (n : Nat) (s : Nat) : Fld := ⟨STN_SSTAT.reg n s, 23, 16⟩
def STN_SSTAT.MISS (n : Nat) (s : Nat) : Fld := ⟨STN_SSTAT.reg n s, 15, 12⟩
def STN_SSTAT.CFGMIS (n : Nat) (s : Nat) : Fld := ⟨STN_SSTAT.reg n s, 2, 2⟩
def STN_SSTAT.WRAP (n : Nat) (s : Nat) : Fld := ⟨STN_SSTAT.reg n s, 1, 1⟩
def STN_SSTAT.DROP (n : Nat) (s : Nat) : Fld := ⟨STN_SSTAT.reg n s, 0, 0⟩
/-- STN_PGCFG, 08_station_rings.md. -/
def STN_PGCFG.reg (n : Nat) (g : Nat) : Nat := 0x40050400 + 0x4000 * n + 0x4 * g
def STN_PGCFG.VALID (n : Nat) (g : Nat) : Fld := ⟨STN_PGCFG.reg n g, 31, 31⟩
def STN_PGCFG.ACT (n : Nat) (g : Nat) : Fld := ⟨STN_PGCFG.reg n g, 30, 30⟩
def STN_PGCFG.STATION (n : Nat) (g : Nat) : Fld := ⟨STN_PGCFG.reg n g, 28, 24⟩
def STN_PGCFG.NM1 (n : Nat) (g : Nat) : Fld := ⟨STN_PGCFG.reg n g, 23, 22⟩
def STN_PGCFG.FBDLY (n : Nat) (g : Nat) : Fld := ⟨STN_PGCFG.reg n g, 21, 18⟩
def STN_PGCFG.FBBASE (n : Nat) (g : Nat) : Fld := ⟨STN_PGCFG.reg n g, 17, 9⟩
def STN_PGCFG.LEADER (n : Nat) (g : Nat) : Fld := ⟨STN_PGCFG.reg n g, 8, 0⟩

/-! ### HSB -/

/-- HSB_CTL, 09_hot_standby.md. -/
def HSB_CTL.reg : Nat := 0x40060000
def HSB_CTL.IEN : Fld := ⟨HSB_CTL.reg, 12, 0⟩
/-- HSB_STAT, 09_hot_standby.md. -/
def HSB_STAT.reg : Nat := 0x40060004
def HSB_STAT.LGCFAIL : Fld := ⟨HSB_STAT.reg, 12, 12⟩
def HSB_STAT.LGCDONE : Fld := ⟨HSB_STAT.reg, 11, 11⟩
def HSB_STAT.PAIRIDERR : Fld := ⟨HSB_STAT.reg, 10, 10⟩
def HSB_STAT.RSFAIL : Fld := ⟨HSB_STAT.reg, 9, 9⟩
def HSB_STAT.RSDONE : Fld := ⟨HSB_STAT.reg, 8, 8⟩
def HSB_STAT.ARBDONE : Fld := ⟨HSB_STAT.reg, 7, 7⟩
def HSB_STAT.TAKEOVER : Fld := ⟨HSB_STAT.reg, 6, 6⟩
def HSB_STAT.HASHMM : Fld := ⟨HSB_STAT.reg, 5, 5⟩
def HSB_STAT.LOCKLOST : Fld := ⟨HSB_STAT.reg, 4, 4⟩
def HSB_STAT.ILKFLT : Fld := ⟨HSB_STAT.reg, 3, 3⟩
def HSB_STAT.LANEDN : Fld := ⟨HSB_STAT.reg, 2, 2⟩
def HSB_STAT.BOTHLOST : Fld := ⟨HSB_STAT.reg, 1, 1⟩
def HSB_STAT.PATHLOST : Fld := ⟨HSB_STAT.reg, 0, 0⟩
/-- HSB_CMD, 09_hot_standby.md. -/
def HSB_CMD.reg : Nat := 0x40060008
def HSB_CMD.KEY : Fld := ⟨HSB_CMD.reg, 31, 16⟩
def HSB_CMD.CMD : Fld := ⟨HSB_CMD.reg, 3, 0⟩
/-- HSB_STATE, 09_hot_standby.md. -/
def HSB_STATE.reg : Nat := 0x4006000C
def HSB_STATE.CMDERR : Fld := ⟨HSB_STATE.reg, 31, 28⟩
def HSB_STATE.PMODE : Fld := ⟨HSB_STATE.reg, 27, 24⟩
def HSB_STATE.PROLE : Fld := ⟨HSB_STATE.reg, 23, 20⟩
def HSB_STATE.CLM : Fld := ⟨HSB_STATE.reg, 11, 10⟩
def HSB_STATE.RSSRC : Fld := ⟨HSB_STATE.reg, 9, 9⟩
def HSB_STATE.SIL : Fld := ⟨HSB_STATE.reg, 8, 8⟩
def HSB_STATE.LOCKED : Fld := ⟨HSB_STATE.reg, 7, 7⟩
def HSB_STATE.LGC : Fld := ⟨HSB_STATE.reg, 6, 6⟩
def HSB_STATE.PID : Fld := ⟨HSB_STATE.reg, 5, 5⟩
def HSB_STATE.ROLE : Fld := ⟨HSB_STATE.reg, 2, 0⟩
/-- HSB_LINK, 09_hot_standby.md. -/
def HSB_LINK.reg : Nat := 0x40060010
def HSB_LINK.HBSEQ : Fld := ⟨HSB_LINK.reg, 31, 16⟩
def HSB_LINK.LANE1 : Fld := ⟨HSB_LINK.reg, 11, 11⟩
def HSB_LINK.LANE0 : Fld := ⟨HSB_LINK.reg, 10, 10⟩
def HSB_LINK.P2OK : Fld := ⟨HSB_LINK.reg, 9, 9⟩
def HSB_LINK.P1OK : Fld := ⟨HSB_LINK.reg, 8, 8⟩
def HSB_LINK.P2MISS : Fld := ⟨HSB_LINK.reg, 7, 4⟩
def HSB_LINK.P1MISS : Fld := ⟨HSB_LINK.reg, 3, 0⟩
/-- HSB_ILK, 09_hot_standby.md. -/
def HSB_ILK.reg : Nat := 0x40060014
def HSB_ILK.INREL : Fld := ⟨HSB_ILK.reg, 23, 16⟩
def HSB_ILK.OUTFLT : Fld := ⟨HSB_ILK.reg, 7, 7⟩
def HSB_ILK.INFLT : Fld := ⟨HSB_ILK.reg, 6, 6⟩
def HSB_ILK.INASS : Fld := ⟨HSB_ILK.reg, 5, 5⟩
def HSB_ILK.INRELD : Fld := ⟨HSB_ILK.reg, 4, 4⟩
def HSB_ILK.OUTC : Fld := ⟨HSB_ILK.reg, 3, 3⟩
def HSB_ILK.OUTT : Fld := ⟨HSB_ILK.reg, 2, 2⟩
def HSB_ILK.INC : Fld := ⟨HSB_ILK.reg, 1, 1⟩
def HSB_ILK.INT : Fld := ⟨HSB_ILK.reg, 0, 0⟩
/-- HSB_ARBCFG, 09_hot_standby.md. -/
def HSB_ARBCFG.reg : Nat := 0x40060018
def HSB_ARBCFG.LK : Fld := ⟨HSB_ARBCFG.reg, 31, 31⟩
def HSB_ARBCFG.MODE : Fld := ⟨HSB_ARBCFG.reg, 29, 28⟩
def HSB_ARBCFG.ARBTO : Fld := ⟨HSB_ARBCFG.reg, 27, 24⟩
def HSB_ARBCFG.CANCTL : Fld := ⟨HSB_ARBCFG.reg, 21, 20⟩
def HSB_ARBCFG.TXOBJ : Fld := ⟨HSB_ARBCFG.reg, 15, 8⟩
def HSB_ARBCFG.RXOBJ : Fld := ⟨HSB_ARBCFG.reg, 7, 0⟩
/-- HSB_ARBSTAT, 09_hot_standby.md. -/
def HSB_ARBSTAT.reg : Nat := 0x4006001C
def HSB_ARBSTAT.NONCE : Fld := ⟨HSB_ARBSTAT.reg, 31, 16⟩
def HSB_ARBSTAT.COUNT : Fld := ⟨HSB_ARBSTAT.reg, 15, 8⟩
def HSB_ARBSTAT.RESULT : Fld := ⟨HSB_ARBSTAT.reg, 2, 0⟩
/-- HSB_SYNCSTAT, 09_hot_standby.md. -/
def HSB_SYNCSTAT.reg : Nat := 0x40060020
def HSB_SYNCSTAT.LLCNT : Fld := ⟨HSB_SYNCSTAT.reg, 31, 24⟩
def HSB_SYNCSTAT.LLRSN : Fld := ⟨HSB_SYNCSTAT.reg, 23, 20⟩
def HSB_SYNCSTAT.LAGMAX : Fld := ⟨HSB_SYNCSTAT.reg, 15, 0⟩
/-- HSB_TBOFS, 09_hot_standby.md. -/
def HSB_TBOFS.reg : Nat := 0x40060024
def HSB_TBOFS.OFS : Fld := ⟨HSB_TBOFS.reg, 31, 0⟩
/-- HSB_RSCFG, 09_hot_standby.md. -/
def HSB_RSCFG.reg : Nat := 0x40060028
def HSB_RSCFG.RSTMO : Fld := ⟨HSB_RSCFG.reg, 27, 16⟩
def HSB_RSCFG.JOINPG : Fld := ⟨HSB_RSCFG.reg, 6, 0⟩
/-- HSB_RSSTAT, 09_hot_standby.md. -/
def HSB_RSSTAT.reg : Nat := 0x4006002C
def HSB_RSSTAT.PHASE : Fld := ⟨HSB_RSSTAT.reg, 31, 28⟩
def HSB_RSSTAT.FAILRSN : Fld := ⟨HSB_RSSTAT.reg, 27, 24⟩
def HSB_RSSTAT.PASS : Fld := ⟨HSB_RSSTAT.reg, 23, 16⟩
def HSB_RSSTAT.DIRTY : Fld := ⟨HSB_RSSTAT.reg, 11, 0⟩
/-- HSB_RSTIME, 09_hot_standby.md. -/
def HSB_RSTIME.reg : Nat := 0x40060030
def HSB_RSTIME.TIME : Fld := ⟨HSB_RSTIME.reg, 31, 0⟩

/-! ### FLT -/

/-- FLT_CTL, 10_fault_management.md. -/
def FLT_CTL.reg : Nat := 0x40070000
def FLT_CTL.LK : Fld := ⟨FLT_CTL.reg, 31, 31⟩
def FLT_CTL.SCREN : Fld := ⟨FLT_CTL.reg, 17, 17⟩
def FLT_CTL.ROTEN : Fld := ⟨FLT_CTL.reg, 16, 16⟩
def FLT_CTL.IEN : Fld := ⟨FLT_CTL.reg, 13, 0⟩
/-- FLT_STAT, 10_fault_management.md. -/
def FLT_STAT.reg : Nat := 0x40070004
def FLT_STAT.DMFULL : Fld := ⟨FLT_STAT.reg, 13, 13⟩
def FLT_STAT.CORERET : Fld := ⟨FLT_STAT.reg, 12, 12⟩
def FLT_STAT.CORERST : Fld := ⟨FLT_STAT.reg, 11, 11⟩
def FLT_STAT.UNCORR : Fld := ⟨FLT_STAT.reg, 10, 10⟩
def FLT_STAT.ROWEXH : Fld := ⟨FLT_STAT.reg, 9, 9⟩
def FLT_STAT.ROWREP : Fld := ⟨FLT_STAT.reg, 8, 8⟩
def FLT_STAT.SPAREFAIL : Fld := ⟨FLT_STAT.reg, 7, 7⟩
def FLT_STAT.ROTFORCE : Fld := ⟨FLT_STAT.reg, 6, 6⟩
def FLT_STAT.ROTFAIL : Fld := ⟨FLT_STAT.reg, 5, 5⟩
def FLT_STAT.FQOVF : Fld := ⟨FLT_STAT.reg, 4, 4⟩
def FLT_STAT.UNIT : Fld := ⟨FLT_STAT.reg, 3, 3⟩
def FLT_STAT.TASK : Fld := ⟨FLT_STAT.reg, 2, 2⟩
def FLT_STAT.DEG : Fld := ⟨FLT_STAT.reg, 1, 1⟩
def FLT_STAT.NOTE : Fld := ⟨FLT_STAT.reg, 0, 0⟩
/-- FLT_PROMISE, 10_fault_management.md. -/
def FLT_PROMISE.reg : Nat := 0x40070008
def FLT_PROMISE.HOLDS : Fld := ⟨FLT_PROMISE.reg, 5, 5⟩
def FLT_PROMISE.ENV : Fld := ⟨FLT_PROMISE.reg, 4, 4⟩
def FLT_PROMISE.PAIRED : Fld := ⟨FLT_PROMISE.reg, 3, 3⟩
def FLT_PROMISE.SLACK : Fld := ⟨FLT_PROMISE.reg, 2, 2⟩
def FLT_PROMISE.SCR : Fld := ⟨FLT_PROMISE.reg, 1, 1⟩
def FLT_PROMISE.ROT : Fld := ⟨FLT_PROMISE.reg, 0, 0⟩
/-- FLT_CNTA, 10_fault_management.md. -/
def FLT_CNTA.reg : Nat := 0x4007000C
def FLT_CNTA.DEGCNT : Fld := ⟨FLT_CNTA.reg, 31, 16⟩
def FLT_CNTA.NOTECNT : Fld := ⟨FLT_CNTA.reg, 15, 0⟩
/-- FLT_CNTB, 10_fault_management.md. -/
def FLT_CNTB.reg : Nat := 0x40070010
def FLT_CNTB.ESCCNT : Fld := ⟨FLT_CNTB.reg, 31, 24⟩
def FLT_CNTB.LOSTCNT : Fld := ⟨FLT_CNTB.reg, 23, 16⟩
def FLT_CNTB.TASKCNT : Fld := ⟨FLT_CNTB.reg, 15, 0⟩
/-- FLT_ECC, 10_fault_management.md. -/
def FLT_ECC.reg : Nat := 0x40070014
def FLT_ECC.CORCNT : Fld := ⟨FLT_ECC.reg, 31, 8⟩
def FLT_ECC.UNCCNT : Fld := ⟨FLT_ECC.reg, 7, 0⟩
/-- FLT_ROWS, 10_fault_management.md. -/
def FLT_ROWS.reg : Nat := 0x40070018
def FLT_ROWS.FREE : Fld := ⟨FLT_ROWS.reg, 26, 16⟩
def FLT_ROWS.USED : Fld := ⟨FLT_ROWS.reg, 10, 0⟩
/-- FLT_ROTLE, 10_fault_management.md. -/
def FLT_ROTLE.reg : Nat := 0x4007001C
def FLT_ROTLE.FORCED : Fld := ⟨FLT_ROTLE.reg, 31, 16⟩
def FLT_ROTLE.DONE : Fld := ⟨FLT_ROTLE.reg, 15, 0⟩
/-- FLT_ROTSP, 10_fault_management.md. -/
def FLT_ROTSP.reg : Nat := 0x40070020
def FLT_ROTSP.SPDONE : Fld := ⟨FLT_ROTSP.reg, 1, 0⟩
/-- FLT_SCRUB, 10_fault_management.md. -/
def FLT_SCRUB.reg : Nat := 0x40070024
def FLT_SCRUB.SWEEPS : Fld := ⟨FLT_SCRUB.reg, 31, 16⟩
def FLT_SCRUB.PROG : Fld := ⟨FLT_SCRUB.reg, 9, 0⟩
/-- FLT_CORE, 10_fault_management.md. -/
def FLT_CORE.reg : Nat := 0x40070028
def FLT_CORE.RSTCNT : Fld := ⟨FLT_CORE.reg, 15, 8⟩
def FLT_CORE.MC1 : Fld := ⟨FLT_CORE.reg, 5, 4⟩
def FLT_CORE.MC0 : Fld := ⟨FLT_CORE.reg, 1, 0⟩
/-- FLT_EQ, 10_fault_management.md. -/
def FLT_EQ.reg : Nat := 0x4007002C
def FLT_EQ.SYSQ : Fld := ⟨FLT_EQ.reg, 11, 8⟩
def FLT_EQ.COMMQ : Fld := ⟨FLT_EQ.reg, 7, 4⟩
def FLT_EQ.EXECQ : Fld := ⟨FLT_EQ.reg, 3, 0⟩
/-- FLT_LOGSEQ, 10_fault_management.md. -/
def FLT_LOGSEQ.reg : Nat := 0x40070030
def FLT_LOGSEQ.SEQ : Fld := ⟨FLT_LOGSEQ.reg, 31, 0⟩
/-- FLT_LOGIDX, 10_fault_management.md. -/
def FLT_LOGIDX.reg : Nat := 0x40070034
def FLT_LOGIDX.IDX : Fld := ⟨FLT_LOGIDX.reg, 5, 0⟩
/-- FLT_LOG, 10_fault_management.md. -/
def FLT_LOG.reg (k : Nat) : Nat := 0x40070038 + 0x4 * k
def FLT_LOG.WORD (k : Nat) : Fld := ⟨FLT_LOG.reg k, 31, 0⟩
/-- FLT_DMSTAT, 10_fault_management.md. -/
def FLT_DMSTAT.reg : Nat := 0x40070048
def FLT_DMSTAT.FUSECNT : Fld := ⟨FLT_DMSTAT.reg, 22, 16⟩
def FLT_DMSTAT.NVCNT : Fld := ⟨FLT_DMSTAT.reg, 10, 0⟩
/-- FLT_DMCMD, 10_fault_management.md. -/
def FLT_DMCMD.reg : Nat := 0x4007004C
def FLT_DMCMD.KEY : Fld := ⟨FLT_DMCMD.reg, 31, 16⟩
def FLT_DMCMD.ENTRY : Fld := ⟨FLT_DMCMD.reg, 13, 4⟩
def FLT_DMCMD.CMD : Fld := ⟨FLT_DMCMD.reg, 3, 0⟩

/-! ### CAN -/

/-- CAN_CTL, 11_can_fd_controllers.md. -/
def CAN_CTL.reg (n : Nat) : Nat := 0x40080000 + 0x10000 * n
def CAN_CTL.IEN (n : Nat) : Fld := ⟨CAN_CTL.reg n, 19, 8⟩
def CAN_CTL.TDCEN (n : Nat) : Fld := ⟨CAN_CTL.reg n, 6, 6⟩
def CAN_CTL.PXE (n : Nat) : Fld := ⟨CAN_CTL.reg n, 5, 5⟩
def CAN_CTL.FDEN (n : Nat) : Fld := ⟨CAN_CTL.reg n, 4, 4⟩
def CAN_CTL.OPMODE (n : Nat) : Fld := ⟨CAN_CTL.reg n, 2, 0⟩
/-- CAN_STAT, 11_can_fd_controllers.md. -/
def CAN_STAT.reg (n : Nat) : Nat := 0x40080004 + 0x10000 * n
def CAN_STAT.TDCOVF (n : Nat) : Fld := ⟨CAN_STAT.reg n, 11, 11⟩
def CAN_STAT.CHKFAIL (n : Nat) : Fld := ⟨CAN_STAT.reg n, 10, 10⟩
def CAN_STAT.MEMERR (n : Nat) : Fld := ⟨CAN_STAT.reg n, 9, 9⟩
def CAN_STAT.PXEV (n : Nat) : Fld := ⟨CAN_STAT.reg n, 8, 8⟩
def CAN_STAT.FIFOOVF (n : Nat) : Fld := ⟨CAN_STAT.reg n, 7, 7⟩
def CAN_STAT.RXOVR (n : Nat) : Fld := ⟨CAN_STAT.reg n, 6, 6⟩
def CAN_STAT.RCVRDY (n : Nat) : Fld := ⟨CAN_STAT.reg n, 5, 5⟩
def CAN_STAT.BOFF (n : Nat) : Fld := ⟨CAN_STAT.reg n, 4, 4⟩
def CAN_STAT.EPASS (n : Nat) : Fld := ⟨CAN_STAT.reg n, 3, 3⟩
def CAN_STAT.TXFAIL (n : Nat) : Fld := ⟨CAN_STAT.reg n, 2, 2⟩
def CAN_STAT.TXDONE (n : Nat) : Fld := ⟨CAN_STAT.reg n, 1, 1⟩
def CAN_STAT.RXNEW (n : Nat) : Fld := ⟨CAN_STAT.reg n, 0, 0⟩
/-- CAN_ERR, 11_can_fd_controllers.md. -/
def CAN_ERR.reg (n : Nat) : Nat := 0x40080008 + 0x10000 * n
def CAN_ERR.ESTATE (n : Nat) : Fld := ⟨CAN_ERR.reg n, 29, 28⟩
def CAN_ERR.LEC (n : Nat) : Fld := ⟨CAN_ERR.reg n, 27, 24⟩
def CAN_ERR.REC (n : Nat) : Fld := ⟨CAN_ERR.reg n, 23, 16⟩
def CAN_ERR.TEC (n : Nat) : Fld := ⟨CAN_ERR.reg n, 8, 0⟩
/-- CAN_CMD, 11_can_fd_controllers.md. -/
def CAN_CMD.reg (n : Nat) : Nat := 0x4008000C + 0x10000 * n
def CAN_CMD.KEY (n : Nat) : Fld := ⟨CAN_CMD.reg n, 31, 16⟩
def CAN_CMD.CMD (n : Nat) : Fld := ⟨CAN_CMD.reg n, 3, 0⟩
/-- CAN_OBJCMD, 11_can_fd_controllers.md. -/
def CAN_OBJCMD.reg (n : Nat) : Nat := 0x40080010 + 0x10000 * n
def CAN_OBJCMD.KEY (n : Nat) : Fld := ⟨CAN_OBJCMD.reg n, 31, 16⟩
def CAN_OBJCMD.CMD (n : Nat) : Fld := ⟨CAN_OBJCMD.reg n, 11, 8⟩
def CAN_OBJCMD.OBJ (n : Nat) : Fld := ⟨CAN_OBJCMD.reg n, 7, 0⟩
/-- CAN_CMDSTAT, 11_can_fd_controllers.md. -/
def CAN_CMDSTAT.reg (n : Nat) : Nat := 0x40080014 + 0x10000 * n
def CAN_CMDSTAT.CFGERR (n : Nat) : Fld := ⟨CAN_CMDSTAT.reg n, 19, 16⟩
def CAN_CMDSTAT.CMDERR (n : Nat) : Fld := ⟨CAN_CMDSTAT.reg n, 15, 12⟩
def CAN_CMDSTAT.LASTCMD (n : Nat) : Fld := ⟨CAN_CMDSTAT.reg n, 11, 8⟩
def CAN_CMDSTAT.LASTOBJ (n : Nat) : Fld := ⟨CAN_CMDSTAT.reg n, 7, 0⟩
/-- CAN_NBT, 11_can_fd_controllers.md. -/
def CAN_NBT.reg (n : Nat) : Nat := 0x40080018 + 0x10000 * n
def CAN_NBT.NBRP (n : Nat) : Fld := ⟨CAN_NBT.reg n, 28, 24⟩
def CAN_NBT.NTSEG1 (n : Nat) : Fld := ⟨CAN_NBT.reg n, 23, 16⟩
def CAN_NBT.NTSEG2 (n : Nat) : Fld := ⟨CAN_NBT.reg n, 14, 8⟩
def CAN_NBT.NSJW (n : Nat) : Fld := ⟨CAN_NBT.reg n, 6, 0⟩
/-- CAN_DBT, 11_can_fd_controllers.md. -/
def CAN_DBT.reg (n : Nat) : Nat := 0x4008001C + 0x10000 * n
def CAN_DBT.DBRP (n : Nat) : Fld := ⟨CAN_DBT.reg n, 28, 24⟩
def CAN_DBT.DTSEG1 (n : Nat) : Fld := ⟨CAN_DBT.reg n, 20, 16⟩
def CAN_DBT.DTSEG2 (n : Nat) : Fld := ⟨CAN_DBT.reg n, 11, 8⟩
def CAN_DBT.DSJW (n : Nat) : Fld := ⟨CAN_DBT.reg n, 3, 0⟩
/-- CAN_TDC, 11_can_fd_controllers.md. -/
def CAN_TDC.reg (n : Nat) : Nat := 0x40080020 + 0x10000 * n
def CAN_TDC.TDCV (n : Nat) : Fld := ⟨CAN_TDC.reg n, 22, 16⟩
def CAN_TDC.TDCO (n : Nat) : Fld := ⟨CAN_TDC.reg n, 6, 0⟩
/-- CAN_RXCNT, 11_can_fd_controllers.md. -/
def CAN_RXCNT.reg (n : Nat) : Nat := 0x40080024 + 0x10000 * n
def CAN_RXCNT.CNT (n : Nat) : Fld := ⟨CAN_RXCNT.reg n, 31, 0⟩
/-- CAN_TXCNT, 11_can_fd_controllers.md. -/
def CAN_TXCNT.reg (n : Nat) : Nat := 0x40080028 + 0x10000 * n
def CAN_TXCNT.CNT (n : Nat) : Fld := ⟨CAN_TXCNT.reg n, 31, 0⟩
/-- CAN_MEMERR, 11_can_fd_controllers.md. -/
def CAN_MEMERR.reg (n : Nat) : Nat := 0x4008002C + 0x10000 * n
def CAN_MEMERR.OBJ (n : Nat) : Fld := ⟨CAN_MEMERR.reg n, 7, 0⟩
/-- CAN_TXPEND, 11_can_fd_controllers.md. -/
def CAN_TXPEND.reg (n : Nat) (j : Nat) : Nat := 0x40080040 + 0x10000 * n + 0x4 * j
def CAN_TXPEND.PEND (n : Nat) (j : Nat) : Fld := ⟨CAN_TXPEND.reg n j, 31, 0⟩
/-- CAN_NEW, 11_can_fd_controllers.md. -/
def CAN_NEW.reg (n : Nat) (j : Nat) : Nat := 0x40080060 + 0x10000 * n + 0x4 * j
def CAN_NEW.NEW (n : Nat) (j : Nat) : Fld := ⟨CAN_NEW.reg n j, 31, 0⟩
/-- CAN_ENA, 11_can_fd_controllers.md. -/
def CAN_ENA.reg (n : Nat) (j : Nat) : Nat := 0x40080080 + 0x10000 * n + 0x4 * j
def CAN_ENA.ENA (n : Nat) (j : Nat) : Fld := ⟨CAN_ENA.reg n j, 31, 0⟩
/-- CAN_FIFOCFG, 11_can_fd_controllers.md. -/
def CAN_FIFOCFG.reg (n : Nat) (f : Nat) : Nat := 0x40080100 + 0x10000 * n + 0x8 * f
def CAN_FIFOCFG.FEN (n : Nat) (f : Nat) : Fld := ⟨CAN_FIFOCFG.reg n f, 16, 16⟩
def CAN_FIFOCFG.FLENM1 (n : Nat) (f : Nat) : Fld := ⟨CAN_FIFOCFG.reg n f, 13, 8⟩
def CAN_FIFOCFG.FBASE (n : Nat) (f : Nat) : Fld := ⟨CAN_FIFOCFG.reg n f, 7, 0⟩
/-- CAN_FIFOSTAT, 11_can_fd_controllers.md. -/
def CAN_FIFOSTAT.reg (n : Nat) (f : Nat) : Nat := 0x40080104 + 0x10000 * n + 0x8 * f
def CAN_FIFOSTAT.OVFCNT (n : Nat) (f : Nat) : Fld := ⟨CAN_FIFOSTAT.reg n f, 31, 24⟩
def CAN_FIFOSTAT.COUNT (n : Nat) (f : Nat) : Fld := ⟨CAN_FIFOSTAT.reg n f, 23, 16⟩
def CAN_FIFOSTAT.PUT (n : Nat) (f : Nat) : Fld := ⟨CAN_FIFOSTAT.reg n f, 15, 8⟩
def CAN_FIFOSTAT.GET (n : Nat) (f : Nat) : Fld := ⟨CAN_FIFOSTAT.reg n f, 7, 0⟩

/-! ### MBX -/

/-- MBX_CTL, 12_host_port_and_mailboxes.md. -/
def MBX_CTL.reg : Nat := 0x400C0000
def MBX_CTL.SIEN : Fld := ⟨MBX_CTL.reg, 15, 8⟩
def MBX_CTL.WIEN : Fld := ⟨MBX_CTL.reg, 3, 0⟩
/-- MBX_STAT, 12_host_port_and_mailboxes.md. -/
def MBX_STAT.reg : Nat := 0x400C0004
def MBX_STAT.LINKDN : Fld := ⟨MBX_STAT.reg, 5, 5⟩
def MBX_STAT.PERST : Fld := ⟨MBX_STAT.reg, 4, 4⟩
def MBX_STAT.HREF : Fld := ⟨MBX_STAT.reg, 3, 3⟩
def MBX_STAT.WOVF : Fld := ⟨MBX_STAT.reg, 2, 2⟩
def MBX_STAT.CHOVF : Fld := ⟨MBX_STAT.reg, 1, 1⟩
def MBX_STAT.DLUP : Fld := ⟨MBX_STAT.reg, 0, 0⟩
/-- MBX_LINK, 12_host_port_and_mailboxes.md. -/
def MBX_LINK.reg : Nat := 0x400C0008
def MBX_LINK.L1CNT : Fld := ⟨MBX_LINK.reg, 31, 16⟩
def MBX_LINK.WIDTH : Fld := ⟨MBX_LINK.reg, 7, 4⟩
def MBX_LINK.INL1 : Fld := ⟨MBX_LINK.reg, 3, 3⟩
def MBX_LINK.SPEED : Fld := ⟨MBX_LINK.reg, 2, 0⟩
/-- MBX_APBASE, 12_host_port_and_mailboxes.md. -/
def MBX_APBASE.reg : Nat := 0x400C000C
def MBX_APBASE.BASE : Fld := ⟨MBX_APBASE.reg, 31, 14⟩
/-- MBX_H2CDB, 12_host_port_and_mailboxes.md. -/
def MBX_H2CDB.reg : Nat := 0x400C0010
def MBX_H2CDB.DB : Fld := ⟨MBX_H2CDB.reg, 31, 0⟩
/-- MBX_H2CSET, 12_host_port_and_mailboxes.md. -/
def MBX_H2CSET.reg : Nat := 0x400C0014
def MBX_H2CSET.SET : Fld := ⟨MBX_H2CSET.reg, 31, 0⟩
/-- MBX_H2CMASK, 12_host_port_and_mailboxes.md. -/
def MBX_H2CMASK.reg : Nat := 0x400C0018
def MBX_H2CMASK.MASK : Fld := ⟨MBX_H2CMASK.reg, 31, 0⟩
/-- MBX_C2HDB, 12_host_port_and_mailboxes.md. -/
def MBX_C2HDB.reg : Nat := 0x400C0020
def MBX_C2HDB.DB : Fld := ⟨MBX_C2HDB.reg, 31, 0⟩
/-- MBX_C2HSET, 12_host_port_and_mailboxes.md. -/
def MBX_C2HSET.reg : Nat := 0x400C0024
def MBX_C2HSET.SET : Fld := ⟨MBX_C2HSET.reg, 31, 0⟩
/-- MBX_C2HMASK, 12_host_port_and_mailboxes.md. -/
def MBX_C2HMASK.reg : Nat := 0x400C0028
def MBX_C2HMASK.MASK : Fld := ⟨MBX_C2HMASK.reg, 31, 0⟩
/-- MBX_WCFG, 12_host_port_and_mailboxes.md. -/
def MBX_WCFG.reg (w : Nat) : Nat := 0x400C0040 + 0x4 * w
def MBX_WCFG.WEN (w : Nat) : Fld := ⟨MBX_WCFG.reg w, 31, 31⟩
def MBX_WCFG.WRCLS (w : Nat) : Fld := ⟨MBX_WCFG.reg w, 30, 29⟩
def MBX_WCFG.RDCLS (w : Nat) : Fld := ⟨MBX_WCFG.reg w, 28, 27⟩
def MBX_WCFG.FDBEN (w : Nat) : Fld := ⟨MBX_WCFG.reg w, 15, 15⟩
def MBX_WCFG.FDB (w : Nat) : Fld := ⟨MBX_WCFG.reg w, 12, 8⟩
def MBX_WCFG.EDBEN (w : Nat) : Fld := ⟨MBX_WCFG.reg w, 7, 7⟩
def MBX_WCFG.EDB (w : Nat) : Fld := ⟨MBX_WCFG.reg w, 4, 0⟩
/-- MBX_WDATA, 12_host_port_and_mailboxes.md. -/
def MBX_WDATA.reg (w : Nat) : Nat := 0x400C0050 + 0x4 * w
def MBX_WDATA.WORD (w : Nat) : Fld := ⟨MBX_WDATA.reg w, 31, 0⟩
/-- MBX_WTAKE, 12_host_port_and_mailboxes.md. -/
def MBX_WTAKE.reg (w : Nat) : Nat := 0x400C0060 + 0x4 * w
def MBX_WTAKE.WORD (w : Nat) : Fld := ⟨MBX_WTAKE.reg w, 31, 0⟩
/-- MBX_WINFO, 12_host_port_and_mailboxes.md. -/
def MBX_WINFO.reg (w : Nat) : Nat := 0x400C0070 + 0x4 * w
def MBX_WINFO.FULL (w : Nat) : Fld := ⟨MBX_WINFO.reg w, 31, 31⟩
def MBX_WINFO.WOVF (w : Nat) : Fld := ⟨MBX_WINFO.reg w, 30, 30⟩
def MBX_WINFO.AGENT (w : Nat) : Fld := ⟨MBX_WINFO.reg w, 23, 16⟩
def MBX_WINFO.WCNT (w : Nat) : Fld := ⟨MBX_WINFO.reg w, 15, 0⟩
/-- MBX_CHCFG, 12_host_port_and_mailboxes.md. -/
def MBX_CHCFG.reg (c : Nat) : Nat := 0x400C0100 + 0x20 * c
def MBX_CHCFG.EN (c : Nat) : Fld := ⟨MBX_CHCFG.reg c, 31, 31⟩
def MBX_CHCFG.DIR (c : Nat) : Fld := ⟨MBX_CHCFG.reg c, 30, 30⟩
def MBX_CHCFG.DBEN (c : Nat) : Fld := ⟨MBX_CHCFG.reg c, 5, 5⟩
def MBX_CHCFG.DB (c : Nat) : Fld := ⟨MBX_CHCFG.reg c, 4, 0⟩
/-- MBX_CHPOST, 12_host_port_and_mailboxes.md. -/
def MBX_CHPOST.reg (c : Nat) : Nat := 0x400C0104 + 0x20 * c
def MBX_CHPOST.TAG (c : Nat) : Fld := ⟨MBX_CHPOST.reg c, 31, 19⟩
def MBX_CHPOST.OFS (c : Nat) : Fld := ⟨MBX_CHPOST.reg c, 18, 0⟩
/-- MBX_CHHEAD, 12_host_port_and_mailboxes.md. -/
def MBX_CHHEAD.reg (c : Nat) : Nat := 0x400C0108 + 0x20 * c
def MBX_CHHEAD.ENTRY (c : Nat) : Fld := ⟨MBX_CHHEAD.reg c, 31, 0⟩
/-- MBX_CHINFO, 12_host_port_and_mailboxes.md. -/
def MBX_CHINFO.reg (c : Nat) : Nat := 0x400C010C + 0x20 * c
def MBX_CHINFO.LOST (c : Nat) : Fld := ⟨MBX_CHINFO.reg c, 31, 24⟩
def MBX_CHINFO.AGENT (c : Nat) : Fld := ⟨MBX_CHINFO.reg c, 23, 16⟩
def MBX_CHINFO.SEQ (c : Nat) : Fld := ⟨MBX_CHINFO.reg c, 15, 8⟩
def MBX_CHINFO.COUNT (c : Nat) : Fld := ⟨MBX_CHINFO.reg c, 4, 0⟩
/-- MBX_CHPOP, 12_host_port_and_mailboxes.md. -/
def MBX_CHPOP.reg (c : Nat) : Nat := 0x400C0110 + 0x20 * c
def MBX_CHPOP.SEQ (c : Nat) : Fld := ⟨MBX_CHPOP.reg c, 7, 0⟩

/-! ### REC -/

/-- REC_CTL, 13_event_recorder.md. -/
def REC_CTL.reg : Nat := 0x400D0000
def REC_CTL.DRAINPER : Fld := ⟨REC_CTL.reg, 23, 16⟩
def REC_CTL.EN : Fld := ⟨REC_CTL.reg, 9, 9⟩
def REC_CTL.IEN : Fld := ⟨REC_CTL.reg, 8, 0⟩
/-- REC_STAT, 13_event_recorder.md. -/
def REC_STAT.reg : Nat := 0x400D0004
def REC_STAT.CFGOVF : Fld := ⟨REC_STAT.reg, 8, 8⟩
def REC_STAT.COMMDONE : Fld := ⟨REC_STAT.reg, 7, 7⟩
def REC_STAT.TAILREST : Fld := ⟨REC_STAT.reg, 6, 6⟩
def REC_STAT.MEMERR : Fld := ⟨REC_STAT.reg, 5, 5⟩
def REC_STAT.KEEPFULL : Fld := ⟨REC_STAT.reg, 4, 4⟩
def REC_STAT.EMMCERR : Fld := ⟨REC_STAT.reg, 3, 3⟩
def REC_STAT.FEEDDROP : Fld := ⟨REC_STAT.reg, 2, 2⟩
def REC_STAT.DEFER : Fld := ⟨REC_STAT.reg, 1, 1⟩
def REC_STAT.QHI : Fld := ⟨REC_STAT.reg, 0, 0⟩
/-- REC_QSTAT, 13_event_recorder.md. -/
def REC_QSTAT.reg : Nat := 0x400D0008
def REC_QSTAT.QCNT : Fld := ⟨REC_QSTAT.reg, 26, 16⟩
def REC_QSTAT.UNITS : Fld := ⟨REC_QSTAT.reg, 12, 0⟩
/-- REC_NEXTSEQ, 13_event_recorder.md. -/
def REC_NEXTSEQ.reg : Nat := 0x400D000C
def REC_NEXTSEQ.SEQ : Fld := ⟨REC_NEXTSEQ.reg, 31, 0⟩
/-- REC_DROP, 13_event_recorder.md. -/
def REC_DROP.reg : Nat := 0x400D0010
def REC_DROP.NCFG : Fld := ⟨REC_DROP.reg, 31, 16⟩
def REC_DROP.FEED : Fld := ⟨REC_DROP.reg, 15, 0⟩
/-- REC_CAR, 13_event_recorder.md. -/
def REC_CAR.reg : Nat := 0x400D0014
def REC_CAR.EPOCH : Fld := ⟨REC_CAR.reg, 31, 24⟩
def REC_CAR.CAROFS : Fld := ⟨REC_CAR.reg, 15, 0⟩
/-- REC_CMD, 13_event_recorder.md. -/
def REC_CMD.reg : Nat := 0x400D0018
def REC_CMD.KEY : Fld := ⟨REC_CMD.reg, 31, 16⟩
def REC_CMD.CMD : Fld := ⟨REC_CMD.reg, 3, 0⟩
/-- REC_CMDSTAT, 13_event_recorder.md. -/
def REC_CMDSTAT.reg : Nat := 0x400D001C
def REC_CMDSTAT.LASTCMD : Fld := ⟨REC_CMDSTAT.reg, 7, 4⟩
def REC_CMDSTAT.CMDERR : Fld := ⟨REC_CMDSTAT.reg, 3, 0⟩
/-- REC_POSTVAL, 13_event_recorder.md. -/
def REC_POSTVAL.reg (k : Nat) : Nat := 0x400D0020 + 0x4 * k
def REC_POSTVAL.VALUE (k : Nat) : Fld := ⟨REC_POSTVAL.reg k, 31, 0⟩
/-- REC_POSTCODE, 13_event_recorder.md. -/
def REC_POSTCODE.reg (k : Nat) : Nat := 0x400D0030 + 0x4 * k
def REC_POSTCODE.CODE (k : Nat) : Fld := ⟨REC_POSTCODE.reg k, 11, 0⟩
/-- REC_RDCTL, 13_event_recorder.md. -/
def REC_RDCTL.reg : Nat := 0x400D0040
def REC_RDCTL.AUTO : Fld := ⟨REC_RDCTL.reg, 1, 1⟩
def REC_RDCTL.SRC : Fld := ⟨REC_RDCTL.reg, 0, 0⟩
/-- REC_RDSEQ, 13_event_recorder.md. -/
def REC_RDSEQ.reg : Nat := 0x400D0044
def REC_RDSEQ.SEQ : Fld := ⟨REC_RDSEQ.reg, 31, 0⟩
/-- REC_RDSTAT, 13_event_recorder.md. -/
def REC_RDSTAT.reg : Nat := 0x400D0048
def REC_RDSTAT.READY : Fld := ⟨REC_RDSTAT.reg, 31, 31⟩
def REC_RDSTAT.STATUS : Fld := ⟨REC_RDSTAT.reg, 30, 28⟩
def REC_RDSTAT.OWNER : Fld := ⟨REC_RDSTAT.reg, 23, 16⟩
def REC_RDSTAT.RDGEN : Fld := ⟨REC_RDSTAT.reg, 15, 0⟩
/-- REC_RDWIN, 13_event_recorder.md. -/
def REC_RDWIN.reg (j : Nat) : Nat := 0x400D0080 + 0x4 * j
def REC_RDWIN.WORD (j : Nat) : Fld := ⟨REC_RDWIN.reg j, 31, 0⟩

/-! ### NVS -/

/-- NVS_CTL, 14_parameter_store_and_counters.md. -/
def NVS_CTL.reg : Nat := 0x400E0000
def NVS_CTL.IEN : Fld := ⟨NVS_CTL.reg, 8, 0⟩
/-- NVS_STAT, 14_parameter_store_and_counters.md. -/
def NVS_STAT.reg : Nat := 0x400E0004
def NVS_STAT.TARM : Fld := ⟨NVS_STAT.reg, 10, 10⟩
def NVS_STAT.RARM : Fld := ⟨NVS_STAT.reg, 9, 9⟩
def NVS_STAT.RTABERR : Fld := ⟨NVS_STAT.reg, 8, 8⟩
def NVS_STAT.TAILLOST : Fld := ⟨NVS_STAT.reg, 7, 7⟩
def NVS_STAT.LOCKD : Fld := ⟨NVS_STAT.reg, 6, 6⟩
def NVS_STAT.WORN : Fld := ⟨NVS_STAT.reg, 5, 5⟩
def NVS_STAT.SAT : Fld := ⟨NVS_STAT.reg, 4, 4⟩
def NVS_STAT.VERR : Fld := ⟨NVS_STAT.reg, 3, 3⟩
def NVS_STAT.SEQEQ : Fld := ⟨NVS_STAT.reg, 2, 2⟩
def NVS_STAT.ERR : Fld := ⟨NVS_STAT.reg, 1, 1⟩
def NVS_STAT.DONE : Fld := ⟨NVS_STAT.reg, 0, 0⟩
/-- NVS_CMD, 14_parameter_store_and_counters.md. -/
def NVS_CMD.reg : Nat := 0x400E0008
def NVS_CMD.KEY : Fld := ⟨NVS_CMD.reg, 31, 16⟩
def NVS_CMD.REC : Fld := ⟨NVS_CMD.reg, 13, 8⟩
def NVS_CMD.CMD : Fld := ⟨NVS_CMD.reg, 3, 0⟩
/-- NVS_CMDSTAT, 14_parameter_store_and_counters.md. -/
def NVS_CMDSTAT.reg : Nat := 0x400E000C
def NVS_CMDSTAT.BUSY : Fld := ⟨NVS_CMDSTAT.reg, 8, 8⟩
def NVS_CMDSTAT.LASTCMD : Fld := ⟨NVS_CMDSTAT.reg, 7, 4⟩
def NVS_CMDSTAT.CMDERR : Fld := ⟨NVS_CMDSTAT.reg, 3, 0⟩
/-- NVS_RADDR, 14_parameter_store_and_counters.md. -/
def NVS_RADDR.reg : Nat := 0x400E0010
def NVS_RADDR.ADDR : Fld := ⟨NVS_RADDR.reg, 31, 0⟩
/-- NVS_RRES, 14_parameter_store_and_counters.md. -/
def NVS_RRES.reg : Nat := 0x400E0014
def NVS_RRES.LEN : Fld := ⟨NVS_RRES.reg, 31, 16⟩
def NVS_RRES.BANK : Fld := ⟨NVS_RRES.reg, 4, 4⟩
def NVS_RRES.STATUS : Fld := ⟨NVS_RRES.reg, 1, 0⟩
/-- NVS_RSEQ, 14_parameter_store_and_counters.md. -/
def NVS_RSEQ.reg : Nat := 0x400E0018
def NVS_RSEQ.SEQ : Fld := ⟨NVS_RSEQ.reg, 31, 0⟩
/-- NVS_CNTINC, 14_parameter_store_and_counters.md. -/
def NVS_CNTINC.reg : Nat := 0x400E0020
def NVS_CNTINC.KEY : Fld := ⟨NVS_CNTINC.reg, 31, 16⟩
def NVS_CNTINC.CNT : Fld := ⟨NVS_CNTINC.reg, 6, 0⟩
/-- NVS_CNTSEL, 14_parameter_store_and_counters.md. -/
def NVS_CNTSEL.reg : Nat := 0x400E0024
def NVS_CNTSEL.CNT : Fld := ⟨NVS_CNTSEL.reg, 6, 0⟩
/-- NVS_CNTL, 14_parameter_store_and_counters.md. -/
def NVS_CNTL.reg : Nat := 0x400E0028
def NVS_CNTL.VAL : Fld := ⟨NVS_CNTL.reg, 31, 0⟩
/-- NVS_CNTH, 14_parameter_store_and_counters.md. -/
def NVS_CNTH.reg : Nat := 0x400E002C
def NVS_CNTH.WORN : Fld := ⟨NVS_CNTH.reg, 17, 17⟩
def NVS_CNTH.SAT : Fld := ⟨NVS_CNTH.reg, 16, 16⟩
def NVS_CNTH.VAL : Fld := ⟨NVS_CNTH.reg, 15, 0⟩
/-- NVS_PWSEL, 14_parameter_store_and_counters.md. -/
def NVS_PWSEL.reg : Nat := 0x400E0030
def NVS_PWSEL.OP : Fld := ⟨NVS_PWSEL.reg, 5, 5⟩
def NVS_PWSEL.KIND : Fld := ⟨NVS_PWSEL.reg, 4, 4⟩
def NVS_PWSEL.PART : Fld := ⟨NVS_PWSEL.reg, 2, 0⟩
/-- NVS_PWL, 14_parameter_store_and_counters.md. -/
def NVS_PWL.reg : Nat := 0x400E0034
def NVS_PWL.PW : Fld := ⟨NVS_PWL.reg, 31, 0⟩
/-- NVS_PWH, 14_parameter_store_and_counters.md. -/
def NVS_PWH.reg : Nat := 0x400E0038
def NVS_PWH.PW : Fld := ⟨NVS_PWH.reg, 31, 0⟩
/-- NVS_PWSTAT, 14_parameter_store_and_counters.md. -/
def NVS_PWSTAT.reg : Nat := 0x400E003C
def NVS_PWSTAT.LOCKD : Fld := ⟨NVS_PWSTAT.reg, 31, 27⟩
def NVS_PWSTAT.PWERR : Fld := ⟨NVS_PWSTAT.reg, 26, 25⟩
def NVS_PWSTAT.WUNL : Fld := ⟨NVS_PWSTAT.reg, 14, 10⟩
def NVS_PWSTAT.RUNL : Fld := ⟨NVS_PWSTAT.reg, 9, 5⟩
def NVS_PWSTAT.FAILS : Fld := ⟨NVS_PWSTAT.reg, 2, 0⟩
/-- NVS_RTSEL, 14_parameter_store_and_counters.md. -/
def NVS_RTSEL.reg : Nat := 0x400E0040
def NVS_RTSEL.REC : Fld := ⟨NVS_RTSEL.reg, 5, 0⟩
/-- NVS_RTINFO, 14_parameter_store_and_counters.md. -/
def NVS_RTINFO.reg : Nat := 0x400E0044
def NVS_RTINFO.VALID : Fld := ⟨NVS_RTINFO.reg, 31, 31⟩
def NVS_RTINFO.LEN : Fld := ⟨NVS_RTINFO.reg, 28, 16⟩
def NVS_RTINFO.OFS : Fld := ⟨NVS_RTINFO.reg, 15, 0⟩

/-! ### RTC -/

/-- RTC_CTL, 15_rtc_and_backup_domain.md. -/
def RTC_CTL.reg : Nat := 0x400F0000
def RTC_CTL.IEN : Fld := ⟨RTC_CTL.reg, 6, 0⟩
/-- RTC_STAT, 15_rtc_and_backup_domain.md. -/
def RTC_STAT.reg : Nat := 0x400F0004
def RTC_STAT.PPSLOST : Fld := ⟨RTC_STAT.reg, 6, 6⟩
def RTC_STAT.VBATLOW : Fld := ⟨RTC_STAT.reg, 5, 5⟩
def RTC_STAT.WERR : Fld := ⟨RTC_STAT.reg, 4, 4⟩
def RTC_STAT.WDONE : Fld := ⟨RTC_STAT.reg, 3, 3⟩
def RTC_STAT.BKPLOST : Fld := ⟨RTC_STAT.reg, 2, 2⟩
def RTC_STAT.ALARM : Fld := ⟨RTC_STAT.reg, 1, 1⟩
def RTC_STAT.TICK : Fld := ⟨RTC_STAT.reg, 0, 0⟩
/-- RTC_STATE, 15_rtc_and_backup_domain.md. -/
def RTC_STATE.reg : Nat := 0x400F0008
def RTC_STATE.SNAPSEQ : Fld := ⟨RTC_STATE.reg, 31, 16⟩
def RTC_STATE.PPSLOCK : Fld := ⟨RTC_STATE.reg, 2, 2⟩
def RTC_STATE.WPEND : Fld := ⟨RTC_STATE.reg, 1, 1⟩
def RTC_STATE.TIMEINV : Fld := ⟨RTC_STATE.reg, 0, 0⟩
/-- RTC_SNAP, 15_rtc_and_backup_domain.md. -/
def RTC_SNAP.reg : Nat := 0x400F000C
def RTC_SNAP.TAKE : Fld := ⟨RTC_SNAP.reg, 0, 0⟩
/-- RTC_SDATE, 15_rtc_and_backup_domain.md. -/
def RTC_SDATE.reg : Nat := 0x400F0010
def RTC_SDATE.YEAR : Fld := ⟨RTC_SDATE.reg, 24, 16⟩
def RTC_SDATE.MONTH : Fld := ⟨RTC_SDATE.reg, 11, 8⟩
def RTC_SDATE.DAY : Fld := ⟨RTC_SDATE.reg, 4, 0⟩
/-- RTC_STIME, 15_rtc_and_backup_domain.md. -/
def RTC_STIME.reg : Nat := 0x400F0014
def RTC_STIME.WDAY : Fld := ⟨RTC_STIME.reg, 26, 24⟩
def RTC_STIME.HOUR : Fld := ⟨RTC_STIME.reg, 20, 16⟩
def RTC_STIME.MIN : Fld := ⟨RTC_STIME.reg, 13, 8⟩
def RTC_STIME.SEC : Fld := ⟨RTC_STIME.reg, 5, 0⟩
/-- RTC_SSUB, 15_rtc_and_backup_domain.md. -/
def RTC_SSUB.reg : Nat := 0x400F0018
def RTC_SSUB.PRE : Fld := ⟨RTC_SSUB.reg, 14, 0⟩
/-- RTC_WDATE, 15_rtc_and_backup_domain.md. -/
def RTC_WDATE.reg : Nat := 0x400F0020
def RTC_WDATE.YEAR : Fld := ⟨RTC_WDATE.reg, 24, 16⟩
def RTC_WDATE.MONTH : Fld := ⟨RTC_WDATE.reg, 11, 8⟩
def RTC_WDATE.DAY : Fld := ⟨RTC_WDATE.reg, 4, 0⟩
/-- RTC_WTIME, 15_rtc_and_backup_domain.md. -/
def RTC_WTIME.reg : Nat := 0x400F0024
def RTC_WTIME.WDAY : Fld := ⟨RTC_WTIME.reg, 26, 24⟩
def RTC_WTIME.HOUR : Fld := ⟨RTC_WTIME.reg, 20, 16⟩
def RTC_WTIME.MIN : Fld := ⟨RTC_WTIME.reg, 13, 8⟩
def RTC_WTIME.SEC : Fld := ⟨RTC_WTIME.reg, 5, 0⟩
/-- RTC_WCMD, 15_rtc_and_backup_domain.md. -/
def RTC_WCMD.reg : Nat := 0x400F0028
def RTC_WCMD.KEY : Fld := ⟨RTC_WCMD.reg, 31, 16⟩
def RTC_WCMD.WDAYEN : Fld := ⟨RTC_WCMD.reg, 4, 4⟩
def RTC_WCMD.CMD : Fld := ⟨RTC_WCMD.reg, 3, 0⟩
/-- RTC_WTBL, 15_rtc_and_backup_domain.md. -/
def RTC_WTBL.reg : Nat := 0x400F002C
def RTC_WTBL.WTB : Fld := ⟨RTC_WTBL.reg, 31, 0⟩
/-- RTC_WTBH, 15_rtc_and_backup_domain.md. -/
def RTC_WTBH.reg : Nat := 0x400F0030
def RTC_WTBH.WTB : Fld := ⟨RTC_WTBH.reg, 31, 0⟩
/-- RTC_TRIM, 15_rtc_and_backup_domain.md. -/
def RTC_TRIM.reg : Nat := 0x400F0034
def RTC_TRIM.TRIM : Fld := ⟨RTC_TRIM.reg, 9, 0⟩
/-- RTC_ALM, 15_rtc_and_backup_domain.md. -/
def RTC_ALM.reg : Nat := 0x400F0038
def RTC_ALM.EN : Fld := ⟨RTC_ALM.reg, 31, 28⟩
def RTC_ALM.DAY : Fld := ⟨RTC_ALM.reg, 27, 23⟩
def RTC_ALM.HOUR : Fld := ⟨RTC_ALM.reg, 20, 16⟩
def RTC_ALM.MIN : Fld := ⟨RTC_ALM.reg, 13, 8⟩
def RTC_ALM.SEC : Fld := ⟨RTC_ALM.reg, 5, 0⟩
/-- RTC_PPSCTL, 15_rtc_and_backup_domain.md. -/
def RTC_PPSCTL.reg : Nat := 0x400F003C
def RTC_PPSCTL.EN : Fld := ⟨RTC_PPSCTL.reg, 31, 31⟩
def RTC_PPSCTL.EDGE : Fld := ⟨RTC_PPSCTL.reg, 30, 30⟩
def RTC_PPSCTL.MAXSLEW : Fld := ⟨RTC_PPSCTL.reg, 7, 0⟩
/-- RTC_PPSERR, 15_rtc_and_backup_domain.md. -/
def RTC_PPSERR.reg : Nat := 0x400F0040
def RTC_PPSERR.ERR : Fld := ⟨RTC_PPSERR.reg, 31, 0⟩
/-- RTC_BKP, 15_rtc_and_backup_domain.md. -/
def RTC_BKP.reg (j : Nat) : Nat := 0x400F0080 + 0x4 * j
def RTC_BKP.WORD (j : Nat) : Fld := ⟨RTC_BKP.reg j, 31, 0⟩

/-! ### WDG -/

/-- WDG_CTL, 16_watchdog.md. -/
def WDG_CTL.reg : Nat := 0x40100000
def WDG_CTL.LOCK : Fld := ⟨WDG_CTL.reg, 31, 31⟩
def WDG_CTL.EN : Fld := ⟨WDG_CTL.reg, 30, 30⟩
def WDG_CTL.RUNONLY : Fld := ⟨WDG_CTL.reg, 29, 29⟩
def WDG_CTL.SRC : Fld := ⟨WDG_CTL.reg, 28, 28⟩
def WDG_CTL.WIEN : Fld := ⟨WDG_CTL.reg, 27, 27⟩
def WDG_CTL.PERIOD : Fld := ⟨WDG_CTL.reg, 13, 0⟩
/-- WDG_STAT, 16_watchdog.md. -/
def WDG_STAT.reg : Nat := 0x40100004
def WDG_STAT.WDILVL : Fld := ⟨WDG_STAT.reg, 4, 4⟩
def WDG_STAT.WDOLVL : Fld := ⟨WDG_STAT.reg, 3, 3⟩
def WDG_STAT.PHASE : Fld := ⟨WDG_STAT.reg, 2, 2⟩
def WDG_STAT.FROZEN : Fld := ⟨WDG_STAT.reg, 1, 1⟩
def WDG_STAT.WARN : Fld := ⟨WDG_STAT.reg, 0, 0⟩
/-- WDG_KEY, 16_watchdog.md. -/
def WDG_KEY.reg : Nat := 0x40100008
def WDG_KEY.KEY : Fld := ⟨WDG_KEY.reg, 15, 0⟩
/-- WDG_WDO, 16_watchdog.md. -/
def WDG_WDO.reg : Nat := 0x4010000C
def WDG_WDO.WDOV : Fld := ⟨WDG_WDO.reg, 0, 0⟩
/-- WDG_SRCBIT, 16_watchdog.md. -/
def WDG_SRCBIT.reg : Nat := 0x40100010
def WDG_SRCBIT.QBIT : Fld := ⟨WDG_SRCBIT.reg, 23, 0⟩
/-- WDG_REMAIN, 16_watchdog.md. -/
def WDG_REMAIN.reg : Nat := 0x40100014
def WDG_REMAIN.REM : Fld := ⟨WDG_REMAIN.reg, 23, 0⟩
/-- WDG_CNT, 16_watchdog.md. -/
def WDG_CNT.reg : Nat := 0x40100018
def WDG_CNT.WARNCNT : Fld := ⟨WDG_CNT.reg, 31, 16⟩
def WDG_CNT.SVCCNT : Fld := ⟨WDG_CNT.reg, 15, 0⟩

/-! ### MIM -/

/-- MIM_CTL, 17_mimic_display.md. -/
def MIM_CTL.reg : Nat := 0x40110000
def MIM_CTL.EN : Fld := ⟨MIM_CTL.reg, 31, 31⟩
def MIM_CTL.CRKACT : Fld := ⟨MIM_CTL.reg, 30, 30⟩
def MIM_CTL.CRKEN : Fld := ⟨MIM_CTL.reg, 29, 29⟩
def MIM_CTL.IEN : Fld := ⟨MIM_CTL.reg, 9, 0⟩
/-- MIM_STAT, 17_mimic_display.md. -/
def MIM_STAT.reg : Nat := 0x40110004
def MIM_STAT.FLAGS : Fld := ⟨MIM_STAT.reg, 9, 0⟩
/-- MIM_STATE, 17_mimic_display.md. -/
def MIM_STATE.reg : Nat := 0x40110008
def MIM_STATE.CFGERR : Fld := ⟨MIM_STATE.reg, 27, 24⟩
def MIM_STATE.BAND : Fld := ⟨MIM_STATE.reg, 18, 16⟩
def MIM_STATE.RUN : Fld := ⟨MIM_STATE.reg, 0, 0⟩
/-- MIM_TIM0, 17_mimic_display.md. -/
def MIM_TIM0.reg : Nat := 0x4011000C
def MIM_TIM0.VACT : Fld := ⟨MIM_TIM0.reg, 25, 16⟩
def MIM_TIM0.HACT : Fld := ⟨MIM_TIM0.reg, 10, 0⟩
/-- MIM_TIM1, 17_mimic_display.md. -/
def MIM_TIM1.reg : Nat := 0x40110010
def MIM_TIM1.VTOTAL : Fld := ⟨MIM_TIM1.reg, 28, 16⟩
def MIM_TIM1.OEG : Fld := ⟨MIM_TIM1.reg, 15, 13⟩
def MIM_TIM1.BDIV : Fld := ⟨MIM_TIM1.reg, 12, 8⟩
def MIM_TIM1.HBLK : Fld := ⟨MIM_TIM1.reg, 7, 0⟩
/-- MIM_FRAME, 17_mimic_display.md. -/
def MIM_FRAME.reg : Nat := 0x40110014
def MIM_FRAME.CNT : Fld := ⟨MIM_FRAME.reg, 31, 0⟩
/-- MIM_OVPOS, 17_mimic_display.md. -/
def MIM_OVPOS.reg : Nat := 0x40110020
def MIM_OVPOS.X : Fld := ⟨MIM_OVPOS.reg, 26, 16⟩
def MIM_OVPOS.Y : Fld := ⟨MIM_OVPOS.reg, 9, 0⟩
/-- MIM_OVSIZE, 17_mimic_display.md. -/
def MIM_OVSIZE.reg : Nat := 0x40110024
def MIM_OVSIZE.W : Fld := ⟨MIM_OVSIZE.reg, 26, 16⟩
def MIM_OVSIZE.H : Fld := ⟨MIM_OVSIZE.reg, 9, 0⟩
/-- MIM_OVSRC, 17_mimic_display.md. -/
def MIM_OVSRC.reg : Nat := 0x40110028
def MIM_OVSRC.SRC : Fld := ⟨MIM_OVSRC.reg, 31, 0⟩
/-- MIM_OVSTRIDE, 17_mimic_display.md. -/
def MIM_OVSTRIDE.reg : Nat := 0x4011002C
def MIM_OVSTRIDE.STRIDE : Fld := ⟨MIM_OVSTRIDE.reg, 31, 0⟩
/-- MIM_OVCMD, 17_mimic_display.md. -/
def MIM_OVCMD.reg : Nat := 0x40110030
def MIM_OVCMD.KEY : Fld := ⟨MIM_OVCMD.reg, 31, 16⟩
def MIM_OVCMD.TAG : Fld := ⟨MIM_OVCMD.reg, 15, 8⟩
def MIM_OVCMD.OP : Fld := ⟨MIM_OVCMD.reg, 3, 0⟩
/-- MIM_OVSTAT, 17_mimic_display.md. -/
def MIM_OVSTAT.reg : Nat := 0x40110034
def MIM_OVSTAT.LASTTAG : Fld := ⟨MIM_OVSTAT.reg, 31, 24⟩
def MIM_OVSTAT.OVERR : Fld := ⟨MIM_OVSTAT.reg, 23, 20⟩
def MIM_OVSTAT.QCNT : Fld := ⟨MIM_OVSTAT.reg, 19, 15⟩
def MIM_OVSTAT.FREE : Fld := ⟨MIM_OVSTAT.reg, 14, 0⟩
/-- MIM_OVCNT, 17_mimic_display.md. -/
def MIM_OVCNT.reg : Nat := 0x40110038
def MIM_OVCNT.COALCNT : Fld := ⟨MIM_OVCNT.reg, 31, 16⟩
def MIM_OVCNT.COMMITCNT : Fld := ⟨MIM_OVCNT.reg, 15, 0⟩
/-- MIM_TEMP, 17_mimic_display.md. -/
def MIM_TEMP.reg : Nat := 0x40110040
def MIM_TEMP.TEMP : Fld := ⟨MIM_TEMP.reg, 31, 16⟩
def MIM_TEMP.PEND : Fld := ⟨MIM_TEMP.reg, 2, 0⟩
/-- MIM_THR0, 17_mimic_display.md. -/
def MIM_THR0.reg : Nat := 0x40110044
def MIM_THR0.T1TO4 : Fld := ⟨MIM_THR0.reg, 31, 0⟩
/-- MIM_THR1, 17_mimic_display.md. -/
def MIM_THR1.reg : Nat := 0x40110048
def MIM_THR1.T5TO7 : Fld := ⟨MIM_THR1.reg, 23, 0⟩
/-- MIM_CONTR0, 17_mimic_display.md. -/
def MIM_CONTR0.reg : Nat := 0x4011004C
def MIM_CONTR0.CODE : Fld := ⟨MIM_CONTR0.reg, 31, 0⟩
/-- MIM_CONTR1, 17_mimic_display.md. -/
def MIM_CONTR1.reg : Nat := 0x40110050
def MIM_CONTR1.CODE : Fld := ⟨MIM_CONTR1.reg, 31, 0⟩
/-- MIM_I2C, 17_mimic_display.md. -/
def MIM_I2C.reg : Nat := 0x40110054
def MIM_I2C.SADDR : Fld := ⟨MIM_I2C.reg, 30, 24⟩
def MIM_I2C.PADDR : Fld := ⟨MIM_I2C.reg, 22, 16⟩
def MIM_I2C.SREG : Fld := ⟨MIM_I2C.reg, 15, 8⟩
def MIM_I2C.PREG : Fld := ⟨MIM_I2C.reg, 7, 0⟩
/-- MIM_SENS, 17_mimic_display.md. -/
def MIM_SENS.reg : Nat := 0x40110058
def MIM_SENS.FAILBAND : Fld := ⟨MIM_SENS.reg, 10, 8⟩
def MIM_SENS.TSPER : Fld := ⟨MIM_SENS.reg, 7, 0⟩
/-- MIM_CRK, 17_mimic_display.md. -/
def MIM_CRK.reg : Nat := 0x4011005C
def MIM_CRK.ERRCNT : Fld := ⟨MIM_CRK.reg, 7, 0⟩
/-- MIM_BAL, 17_mimic_display.md. -/
def MIM_BAL.reg : Nat := 0x40110060
def MIM_BAL.SATCNT : Fld := ⟨MIM_BAL.reg, 31, 0⟩
/-- MIM_MEMERR, 17_mimic_display.md. -/
def MIM_MEMERR.reg : Nat := 0x40110064
def MIM_MEMERR.ADDR : Fld := ⟨MIM_MEMERR.reg, 31, 0⟩

/-! ### PWR -/

/-- PWR_CTL, 18_power_and_intermission.md. -/
def PWR_CTL.reg : Nat := 0x40010000
def PWR_CTL.AUTORET : Fld := ⟨PWR_CTL.reg, 9, 9⟩
def PWR_CTL.PREF : Fld := ⟨PWR_CTL.reg, 8, 8⟩
def PWR_CTL.IEN : Fld := ⟨PWR_CTL.reg, 7, 0⟩
/-- PWR_STAT, 18_power_and_intermission.md. -/
def PWR_STAT.reg : Nat := 0x40010004
def PWR_STAT.WOKE : Fld := ⟨PWR_STAT.reg, 5, 5⟩
def PWR_STAT.BUDERR : Fld := ⟨PWR_STAT.reg, 4, 4⟩
def PWR_STAT.FEEDMM : Fld := ⟨PWR_STAT.reg, 3, 3⟩
def PWR_STAT.SWITCH : Fld := ⟨PWR_STAT.reg, 2, 2⟩
def PWR_STAT.FEEDREST : Fld := ⟨PWR_STAT.reg, 1, 1⟩
def PWR_STAT.FEEDLOST : Fld := ⟨PWR_STAT.reg, 0, 0⟩
/-- PWR_FEED, 18_power_and_intermission.md. -/
def PWR_FEED.reg : Nat := 0x40010008
def PWR_FEED.DIFF : Fld := ⟨PWR_FEED.reg, 23, 16⟩
def PWR_FEED.ENV : Fld := ⟨PWR_FEED.reg, 8, 8⟩
def PWR_FEED.SDSRC : Fld := ⟨PWR_FEED.reg, 4, 4⟩
def PWR_FEED.IOSRC : Fld := ⟨PWR_FEED.reg, 3, 3⟩
def PWR_FEED.CORESRC : Fld := ⟨PWR_FEED.reg, 2, 2⟩
def PWR_FEED.BGOOD : Fld := ⟨PWR_FEED.reg, 1, 1⟩
def PWR_FEED.AGOOD : Fld := ⟨PWR_FEED.reg, 0, 0⟩
/-- PWR_TEMP, 18_power_and_intermission.md. -/
def PWR_TEMP.reg : Nat := 0x4001000C
def PWR_TEMP.TJ : Fld := ⟨PWR_TEMP.reg, 15, 0⟩
/-- PWR_BUDGET, 18_power_and_intermission.md. -/
def PWR_BUDGET.reg : Nat := 0x40010010
def PWR_BUDGET.LK : Fld := ⟨PWR_BUDGET.reg, 31, 31⟩
def PWR_BUDGET.BASE : Fld := ⟨PWR_BUDGET.reg, 26, 16⟩
def PWR_BUDGET.BUDGET : Fld := ⟨PWR_BUDGET.reg, 10, 0⟩
/-- PWR_TSCLS, 18_power_and_intermission.md. -/
def PWR_TSCLS.reg (k : Nat) : Nat := 0x40010020 + 0x4 * k
def PWR_TSCLS.INFL (k : Nat) : Fld := ⟨PWR_TSCLS.reg k, 31, 24⟩
def PWR_TSCLS.QUEUED (k : Nat) : Fld := ⟨PWR_TSCLS.reg k, 23, 16⟩
def PWR_TSCLS.WMAX (k : Nat) : Fld := ⟨PWR_TSCLS.reg k, 15, 0⟩
/-- PWR_WAKEEN, 18_power_and_intermission.md. -/
def PWR_WAKEEN.reg : Nat := 0x40010040
def PWR_WAKEEN.EN : Fld := ⟨PWR_WAKEEN.reg, 4, 0⟩
/-- PWR_WAKE, 18_power_and_intermission.md. -/
def PWR_WAKE.reg : Nat := 0x40010044
def PWR_WAKE.FIRST : Fld := ⟨PWR_WAKE.reg, 10, 8⟩
def PWR_WAKE.SRC : Fld := ⟨PWR_WAKE.reg, 4, 0⟩
/-- PWR_FLUSH, 18_power_and_intermission.md. -/
def PWR_FLUSH.reg : Nat := 0x40010048
def PWR_FLUSH.DONE : Fld := ⟨PWR_FLUSH.reg, 31, 31⟩
def PWR_FLUSH.RETW : Fld := ⟨PWR_FLUSH.reg, 30, 30⟩
def PWR_FLUSH.TAILW : Fld := ⟨PWR_FLUSH.reg, 29, 29⟩
def PWR_FLUSH.TIME : Fld := ⟨PWR_FLUSH.reg, 15, 0⟩

/-! ### UPD -/

/-- UPD_CTL, 19_field_update.md. -/
def UPD_CTL.reg : Nat := 0x40120000
def UPD_CTL.IEN : Fld := ⟨UPD_CTL.reg, 8, 0⟩
/-- UPD_STAT, 19_field_update.md. -/
def UPD_STAT.reg : Nat := 0x40120004
def UPD_STAT.FLAGS : Fld := ⟨UPD_STAT.reg, 8, 0⟩
/-- UPD_STATE, 19_field_update.md. -/
def UPD_STATE.reg : Nat := 0x40120008
def UPD_STATE.UPDERR : Fld := ⟨UPD_STATE.reg, 31, 24⟩
def UPD_STATE.KIND : Fld := ⟨UPD_STATE.reg, 6, 4⟩
def UPD_STATE.STATE : Fld := ⟨UPD_STATE.reg, 3, 0⟩
/-- UPD_CMD, 19_field_update.md. -/
def UPD_CMD.reg : Nat := 0x4012000C
def UPD_CMD.KEY : Fld := ⟨UPD_CMD.reg, 31, 16⟩
def UPD_CMD.KIND : Fld := ⟨UPD_CMD.reg, 10, 8⟩
def UPD_CMD.CMD : Fld := ⟨UPD_CMD.reg, 3, 0⟩
/-- UPD_SRC, 19_field_update.md. -/
def UPD_SRC.reg : Nat := 0x40120010
def UPD_SRC.SRC : Fld := ⟨UPD_SRC.reg, 31, 0⟩
/-- UPD_SRCCFG, 19_field_update.md. -/
def UPD_SRCCFG.reg : Nat := 0x40120014
def UPD_SRCCFG.EMMC : Fld := ⟨UPD_SRCCFG.reg, 0, 0⟩
/-- UPD_PROG, 19_field_update.md. -/
def UPD_PROG.reg : Nat := 0x40120018
def UPD_PROG.BYTES : Fld := ⟨UPD_PROG.reg, 31, 0⟩
/-- UPD_WHENL, 19_field_update.md. -/
def UPD_WHENL.reg : Nat := 0x40120020
def UPD_WHENL.WHEN : Fld := ⟨UPD_WHENL.reg, 31, 0⟩
/-- UPD_WHENH, 19_field_update.md. -/
def UPD_WHENH.reg : Nat := 0x40120024
def UPD_WHENH.WHEN : Fld := ⟨UPD_WHENH.reg, 31, 0⟩
/-- UPD_WHENSCAN, 19_field_update.md. -/
def UPD_WHENSCAN.reg : Nat := 0x40120028
def UPD_WHENSCAN.SCAN : Fld := ⟨UPD_WHENSCAN.reg, 31, 0⟩
/-- UPD_WHENCFG, 19_field_update.md. -/
def UPD_WHENCFG.reg : Nat := 0x4012002C
def UPD_WHENCFG.SEL : Fld := ⟨UPD_WHENCFG.reg, 31, 31⟩
def UPD_WHENCFG.TASK : Fld := ⟨UPD_WHENCFG.reg, 4, 0⟩
/-- UPD_CONFIRM, 19_field_update.md. -/
def UPD_CONFIRM.reg : Nat := 0x40120030
def UPD_CONFIRM.KEY : Fld := ⟨UPD_CONFIRM.reg, 31, 16⟩
/-- UPD_CWIN, 19_field_update.md. -/
def UPD_CWIN.reg : Nat := 0x40120034
def UPD_CWIN.LK : Fld := ⟨UPD_CWIN.reg, 31, 31⟩
def UPD_CWIN.WIN : Fld := ⟨UPD_CWIN.reg, 15, 0⟩
/-- UPD_CREM, 19_field_update.md. -/
def UPD_CREM.reg : Nat := 0x40120038
def UPD_CREM.REM : Fld := ⟨UPD_CREM.reg, 31, 0⟩
/-- UPD_CANCFG, 19_field_update.md. -/
def UPD_CANCFG.reg : Nat := 0x4012003C
def UPD_CANCFG.EN : Fld := ⟨UPD_CANCFG.reg, 31, 31⟩
def UPD_CANCFG.CANCTL : Fld := ⟨UPD_CANCFG.reg, 29, 28⟩
def UPD_CANCFG.TXOBJ : Fld := ⟨UPD_CANCFG.reg, 23, 16⟩
def UPD_CANCFG.RXOBJ : Fld := ⟨UPD_CANCFG.reg, 15, 8⟩
def UPD_CANCFG.ACKN : Fld := ⟨UPD_CANCFG.reg, 4, 0⟩
/-- UPD_AGREE, 19_field_update.md. -/
def UPD_AGREE.reg : Nat := 0x40120040
def UPD_AGREE.AGREE : Fld := ⟨UPD_AGREE.reg, 31, 16⟩
def UPD_AGREE.ACKS : Fld := ⟨UPD_AGREE.reg, 4, 0⟩
/-- UPD_BANKS, 19_field_update.md. -/
def UPD_BANKS.reg : Nat := 0x40120044
def UPD_BANKS.INUSE (k : Nat) : Fld := ⟨UPD_BANKS.reg, 6 * k + 0, 6 * k + 0⟩
def UPD_BANKS.STG (k : Nat) : Fld := ⟨UPD_BANKS.reg, 6 * k + 1, 6 * k + 1⟩
def UPD_BANKS.PEND (k : Nat) : Fld := ⟨UPD_BANKS.reg, 6 * k + 2, 6 * k + 2⟩
def UPD_BANKS.REVA (k : Nat) : Fld := ⟨UPD_BANKS.reg, 6 * k + 3, 6 * k + 3⟩
def UPD_BANKS.REVB (k : Nat) : Fld := ⟨UPD_BANKS.reg, 6 * k + 4, 6 * k + 4⟩

/-! ### GRD -/

/-- GRD_CTL, 20_protection_and_access.md. -/
def GRD_CTL.reg : Nat := 0x40130000
def GRD_CTL.IEN : Fld := ⟨GRD_CTL.reg, 5, 0⟩
/-- GRD_STAT, 20_protection_and_access.md. -/
def GRD_STAT.reg : Nat := 0x40130004
def GRD_STAT.FLAGS : Fld := ⟨GRD_STAT.reg, 5, 0⟩
/-- GRD_CMD, 20_protection_and_access.md. -/
def GRD_CMD.reg : Nat := 0x40130008
def GRD_CMD.KEY : Fld := ⟨GRD_CMD.reg, 31, 16⟩
def GRD_CMD.CMD : Fld := ⟨GRD_CMD.reg, 3, 0⟩
/-- GRD_CMDSTAT, 20_protection_and_access.md. -/
def GRD_CMDSTAT.reg : Nat := 0x4013000C
def GRD_CMDSTAT.CMDERR : Fld := ⟨GRD_CMDSTAT.reg, 3, 0⟩
/-- GRD_RADDR, 20_protection_and_access.md. -/
def GRD_RADDR.reg : Nat := 0x40130010
def GRD_RADDR.ADDR : Fld := ⟨GRD_RADDR.reg, 31, 0⟩
/-- GRD_PSEQ, 20_protection_and_access.md. -/
def GRD_PSEQ.reg : Nat := 0x40130014
def GRD_PSEQ.SEQ : Fld := ⟨GRD_PSEQ.reg, 31, 0⟩
/-- GRD_PROP, 20_protection_and_access.md. -/
def GRD_PROP.reg : Nat := 0x40130018
def GRD_PROP.KIND : Fld := ⟨GRD_PROP.reg, 31, 24⟩
def GRD_PROP.ARG : Fld := ⟨GRD_PROP.reg, 23, 16⟩
def GRD_PROP.PCLASS : Fld := ⟨GRD_PROP.reg, 11, 8⟩
def GRD_PROP.STATE : Fld := ⟨GRD_PROP.reg, 1, 0⟩
/-- GRD_DBG, 20_protection_and_access.md. -/
def GRD_DBG.reg : Nat := 0x4013001C
def GRD_DBG.DREM : Fld := ⟨GRD_DBG.reg, 31, 16⟩
def GRD_DBG.DBGST : Fld := ⟨GRD_DBG.reg, 1, 0⟩
/-- GRD_DIG, 20_protection_and_access.md. -/
def GRD_DIG.reg (k : Nat) : Nat := 0x40130020 + 0x4 * k
def GRD_DIG.DIG (k : Nat) : Fld := ⟨GRD_DIG.reg k, 31, 0⟩
/-- GRD_AGD, 20_protection_and_access.md. -/
def GRD_AGD.reg (k : Nat) : Nat := 0x40130040 + 0x4 * k
def GRD_AGD.DIG (k : Nat) : Fld := ⟨GRD_AGD.reg k, 31, 0⟩
/-- GRD_VINFO, 20_protection_and_access.md. -/
def GRD_VINFO.reg : Nat := 0x40130060
def GRD_VINFO.AGENT : Fld := ⟨GRD_VINFO.reg, 15, 8⟩
def GRD_VINFO.FIXED : Fld := ⟨GRD_VINFO.reg, 6, 6⟩
def GRD_VINFO.PV : Fld := ⟨GRD_VINFO.reg, 5, 5⟩
def GRD_VINFO.PART : Fld := ⟨GRD_VINFO.reg, 4, 1⟩
def GRD_VINFO.DIR : Fld := ⟨GRD_VINFO.reg, 0, 0⟩
/-- GRD_VADDR, 20_protection_and_access.md. -/
def GRD_VADDR.reg : Nat := 0x40130064
def GRD_VADDR.ADDR : Fld := ⟨GRD_VADDR.reg, 31, 0⟩
/-- GRD_VCNT, 20_protection_and_access.md. -/
def GRD_VCNT.reg : Nat := 0x40130068
def GRD_VCNT.CNT : Fld := ⟨GRD_VCNT.reg, 31, 0⟩
/-- GRD_PBASE, 20_protection_and_access.md. -/
def GRD_PBASE.reg (p : Nat) : Nat := 0x40130100 + 0x10 * p
def GRD_PBASE.BASE (p : Nat) : Fld := ⟨GRD_PBASE.reg p, 31, 12⟩
def GRD_PBASE.EN (p : Nat) : Fld := ⟨GRD_PBASE.reg p, 0, 0⟩
/-- GRD_PLIM, 20_protection_and_access.md. -/
def GRD_PLIM.reg (p : Nat) : Nat := 0x40130104 + 0x10 * p
def GRD_PLIM.LIMIT (p : Nat) : Fld := ⟨GRD_PLIM.reg p, 31, 12⟩
/-- GRD_PPERM, 20_protection_and_access.md. -/
def GRD_PPERM.reg (p : Nat) : Nat := 0x40130108 + 0x10 * p
def GRD_PPERM.WR (p : Nat) : Fld := ⟨GRD_PPERM.reg p, 31, 16⟩
def GRD_PPERM.RD (p : Nat) : Fld := ⟨GRD_PPERM.reg p, 15, 0⟩

/-! ### The register map as data, block by block -/

/-- The SYS rows: base, stride, count, second stride and count, reset, then the RW, W1C, WO, RWL, RWS and RO masks. -/
def regRowsSYS : List RegRow :=
  [⟨0x40000040, 0, 1, 0, 1, 0x83828180, 0, 0, 0, 0, 0, 0x9F9F9F9F⟩,
   ⟨0x40000044, 0, 1, 0, 1, 0x87868584, 0, 0, 0, 0, 0, 0x9F9F9F9F⟩,
   ⟨0x40000048, 0, 1, 0, 1, 0x8B8A8988, 0, 0, 0, 0, 0, 0x9F9F9F9F⟩,
   ⟨0x4000004C, 0, 1, 0, 1, 0x8F8E8D8C, 0, 0, 0, 0, 0, 0x9F9F9F9F⟩,
   ⟨0x40000050, 0x0, 1, 0x0, 1, 0x00009190, 0x00000000, 0x00000000, 0x00000000, 0x00000000, 0x00000000, 0x00009F9F⟩,
   ⟨0x40000054, 0x0, 1, 0x0, 1, 0x00000000, 0x00000000, 0x00000000, 0x00000000, 0x00000000, 0x00000000, 0x0003FFFF⟩,
   ⟨0x40000058, 0x0, 1, 0x0, 1, 0x00000000, 0x00000000, 0x00000000, 0x00000000, 0x00000000, 0x00000000, 0x0000FFFF⟩,
   ⟨0x40000004, 0x0, 1, 0x0, 1, 0x00000001, 0x00000000, 0x00000000, 0x00000000, 0x00000000, 0x00000000, 0x00FF8FFF⟩,
   ⟨0x40000008, 0x0, 1, 0x0, 1, 0x00000000, 0x00000000, 0x00000000, 0xFFFF000F, 0x00000000, 0x00000000, 0x00000000⟩,
   ⟨0x4000000C, 0x0, 1, 0x0, 1, 0x00000000, 0x00000000, 0x00000000, 0x00000000, 0x00000000, 0x00000000, 0x000000FF⟩,
   ⟨0x40000010, 0x0, 1, 0x0, 1, 0x00000000, 0x00000000, 0x00000000, 0x00000000, 0x00000000, 0x00000000, 0xFFFCFFFF⟩,
   ⟨0x40000014, 0x0, 1, 0x0, 1, 0x00000001, 0x00000000, 0x0000001F, 0x00000000, 0x00000000, 0x00000000, 0x00000000⟩]

/-- The SCN rows: base, stride, count, second stride and count, reset, then the RW, W1C, WO, RWL, RWS and RO masks. -/
def regRowsSCN : List RegRow :=
  [⟨0x40020000, 0x0, 1, 0x0, 1, 0x00000000, 0x0000003F, 0x00000000, 0x00000000, 0x00000000, 0x00000000, 0x00000000⟩,
   ⟨0x40020004, 0x0, 1, 0x0, 1, 0x00000000, 0x00000000, 0x0000003F, 0x00000000, 0x00000000, 0x00000000, 0x00000000⟩,
   ⟨0x40020008, 0x0, 1, 0x0, 1, 0x00000000, 0x00000000, 0x00000000, 0x00000000, 0x00000000, 0x00000000, 0xFFFFFFFF⟩,
   ⟨0x40020010, 0x0, 1, 0x0, 1, 0x00000000, 0x00000000, 0x00000000, 0x00000000, 0x00000000, 0x00000000, 0xFFFFFFFF⟩,
   ⟨0x40020014, 0x0, 1, 0x0, 1, 0x00000000, 0x00000000, 0x00000000, 0x00000000, 0x00000000, 0x00000000, 0xFFFFFFFF⟩,
   ⟨0x40020018, 0x0, 1, 0x0, 1, 0x00100348, 0x00FF0FFF, 0x00000000, 0x00000000, 0x00000000, 0x00000000, 0x00000000⟩,
   ⟨0x40020100, 0x40, 32, 0x0, 1, 0x00000000, 0x00000000, 0x00000000, 0x00000000, 0x00000000, 0x00000000, 0xFFF1FF1F⟩,
   ⟨0x40020104, 0x40, 32, 0x0, 1, 0x00000000, 0x00000000, 0x00000000, 0x00000000, 0x00000000, 0x00000000, 0x00FFFFFF⟩,
   ⟨0x40020108, 0x40, 32, 0x0, 1, 0x00000000, 0x00000000, 0x00000000, 0x00000000, 0x00000000, 0x00000000, 0x00FFFFFF⟩,
   ⟨0x4002010C, 0x40, 32, 0x0, 1, 0x00000000, 0x00000000, 0x00000000, 0x00000000, 0x00000000, 0x00000000, 0xFFFFFFFF⟩,
   ⟨0x40020110, 0x40, 32, 0x0, 1, 0x00000000, 0x00000000, 0x00000000, 0x00000000, 0x00000000, 0x00000000, 0xFFFFFFFF⟩,
   ⟨0x40020114, 0x40, 32, 0x0, 1, 0x00000000, 0x00000000, 0x00000000, 0x00000000, 0x00000000, 0x00000000, 0xFFFFFFFF⟩,
   ⟨0x40020118, 0x40, 32, 0x0, 1, 0x00000000, 0x00000000, 0x00000000, 0x00000000, 0x00000000, 0x00000000, 0x00FFFFFF⟩,
   ⟨0x4002011C, 0x40, 32, 0x0, 1, 0x00000000, 0x00000000, 0x00000000, 0x00000000, 0x00000000, 0x00000000, 0xFFFFFFFF⟩,
   ⟨0x40020120, 0x40, 32, 0x0, 1, 0x00000000, 0x00000000, 0x00000000, 0x00000000, 0x00000000, 0x00000000, 0xFFFFFFFF⟩,
   ⟨0x40020124, 0x40, 32, 0x0, 1, 0x00000000, 0x00000000, 0x00000000, 0x00000000, 0x00000000, 0x00000000, 0x0FFFFFFF⟩,
   ⟨0x40020128, 0x40, 32, 0x0, 1, 0x00000000, 0x00000000, 0x00000000, 0x00000000, 0x00000000, 0x00000000, 0xFFFFFFFF⟩,
   ⟨0x4002012C, 0x40, 32, 0x0, 1, 0x00000000, 0x00000000, 0x00000000, 0x00000000, 0x00000000, 0x00000000, 0xFFFFFFFF⟩,
   ⟨0x40020130, 0x40, 32, 0x0, 1, 0x00000000, 0x00000000, 0x00000000, 0x00000000, 0x00000000, 0x00000000, 0xFFFFFFFF⟩,
   ⟨0x40020134, 0x40, 32, 0x0, 1, 0x00000000, 0x00000000, 0x00000000, 0x00000000, 0x00000000, 0x00000000, 0xFFFFFFFF⟩,
   ⟨0x40020138, 0x40, 32, 0x0, 1, 0x00000000, 0x00000000, 0x00000700, 0x00000000, 0x00000000, 0x00000000, 0x000F00FF⟩,
   ⟨0x4002013C, 0x40, 32, 0x0, 1, 0x00000000, 0x00000000, 0x00000000, 0x00000000, 0x00000000, 0x00000000, 0xFFFFFFFF⟩,
   ⟨0x40020900, 0x4, 32, 0x0, 1, 0x00000000, 0x00000000, 0x00000000, 0x00000000, 0x00000000, 0x00000000, 0xFFFFFFFF⟩,
   ⟨0x40020A00, 0x4, 16, 0x0, 1, 0x00000000, 0x00000000, 0x00000000, 0x00000000, 0x00000000, 0x00000000, 0x0FFF3FFF⟩,
   ⟨0x40020A40, 0x4, 16, 0x0, 1, 0x00000000, 0x00000000, 0x00000000, 0x00000000, 0x00000000, 0x00000000, 0x03FF03FF⟩]

/-- The SHD rows: base, stride, count, second stride and count, reset, then the RW, W1C, WO, RWL, RWS and RO masks. -/
def regRowsSHD : List RegRow :=
  [⟨0x40030000, 0x0, 1, 0x0, 1, 0x00000000, 0x0000007F, 0x00000000, 0x00000000, 0x00000000, 0x00000000, 0x00000000⟩,
   ⟨0x40030004, 0x0, 1, 0x0, 1, 0x00000000, 0x00000000, 0x0000007F, 0x00000000, 0x00000000, 0x00000000, 0x00000000⟩,
   ⟨0x40030008, 0x0, 1, 0x0, 1, 0x00000000, 0x00000000, 0x00000000, 0x00000000, 0x00000000, 0x00000000, 0xFFFFFFFF⟩,
   ⟨0x4003000C, 0x0, 1, 0x0, 1, 0x00000000, 0x00000000, 0x00000000, 0x00000000, 0x00000001, 0x00000000, 0x00000000⟩,
   ⟨0x40030010, 0x0, 1, 0x0, 1, 0x00000000, 0x00000000, 0x00000000, 0x00000000, 0x00000000, 0x00000000, 0x9F0F1F77⟩,
   ⟨0x40030014, 0x0, 1, 0x0, 1, 0x00000000, 0x00000000, 0x00000000, 0x00000000, 0x00000000, 0x00000000, 0xFFFFFFFF⟩,
   ⟨0x40030018, 0x0, 1, 0x0, 1, 0x00000000, 0x00000000, 0x00000000, 0x00000000, 0x00000000, 0x00000000, 0xFFFFFFFF⟩,
   ⟨0x4003001C, 0x0, 1, 0x0, 1, 0x00000000, 0x00000000, 0x00000000, 0x00000000, 0x00000000, 0x00000000, 0xFFFFFFFF⟩,
   ⟨0x40030020, 0x0, 1, 0x0, 1, 0x00000000, 0x00000000, 0x00000000, 0x00000000, 0x00000000, 0x00000000, 0xFFFFFFFF⟩,
   ⟨0x40030024, 0x0, 1, 0x0, 1, 0x00000000, 0x00000000, 0x00000000, 0x00000000, 0x00000000, 0x00000000, 0xFFFFFFFF⟩,
   ⟨0x40030028, 0x0, 1, 0x0, 1, 0x00000000, 0x00000000, 0x00000000, 0x00000000, 0x00000000, 0x00000000, 0xFFFFFFFF⟩,
   ⟨0x4003002C, 0x0, 1, 0x0, 1, 0x00000000, 0x00000000, 0x00000000, 0x00000000, 0x00000000, 0x00000000, 0xFFFFFFFF⟩,
   ⟨0x40030100, 0x20, 32, 0x0, 1, 0x00000000, 0x00000000, 0x00000000, 0x00000000, 0x00000000, 0x00000000, 0xDFFF0FFF⟩,
   ⟨0x40030104, 0x20, 32, 0x0, 1, 0x00000000, 0x00000000, 0x00000000, 0x00000000, 0x00000000, 0x00000001, 0x00000000⟩,
   ⟨0x40030108, 0x20, 32, 0x0, 1, 0x00000000, 0x00000000, 0x00000000, 0x00000000, 0x00000000, 0x00000000, 0x1FFF00F7⟩,
   ⟨0x4003010C, 0x20, 32, 0x0, 1, 0x00000000, 0x00000000, 0x00000000, 0x00000000, 0x00000000, 0x00000000, 0xFFFFFFFF⟩,
   ⟨0x40030110, 0x20, 32, 0x0, 1, 0x00000000, 0x00000000, 0x00000000, 0x00000000, 0x00000000, 0x00000000, 0x003FFFFF⟩,
   ⟨0x40030114, 0x20, 32, 0x0, 1, 0x00000000, 0x00000000, 0x00000000, 0x00000000, 0x00000000, 0x00000000, 0x00FFFFFF⟩,
   ⟨0x40030118, 0x20, 32, 0x0, 1, 0x00000000, 0x00000000, 0x00000000, 0x00000000, 0x00000000, 0x00000000, 0x007FFFFF⟩,
   ⟨0x40030500, 0x4, 16, 0x0, 1, 0x00000000, 0x00000000, 0x00000000, 0x00000000, 0x00000000, 0x00000000, 0x1FFF1FFF⟩]

/-- The OLC rows: base, stride, count, second stride and count, reset, then the RW, W1C, WO, RWL, RWS and RO masks. -/
def regRowsOLC : List RegRow :=
  [⟨0x40040000, 0x0, 1, 0x0, 1, 0x00000000, 0x00003F7F, 0x00000000, 0x00000000, 0x00000000, 0x00000000, 0x00000000⟩,
   ⟨0x40040004, 0x0, 1, 0x0, 1, 0x00000000, 0x00000000, 0x0000007F, 0x00000000, 0x00000000, 0x00000000, 0x00000000⟩,
   ⟨0x40040008, 0x0, 1, 0x0, 1, 0x00000000, 0x00000000, 0x00000000, 0x00000000, 0x00000000, 0x00000000, 0x0FFFFF07⟩,
   ⟨0x4004000C, 0x0, 1, 0x0, 1, 0x00000000, 0x00000000, 0x00000000, 0xFFFF000F, 0x00000000, 0x00000000, 0x00000000⟩,
   ⟨0x40040010, 0x0, 1, 0x0, 1, 0x00000000, 0xFFFFFFFF, 0x00000000, 0x00000000, 0x00000000, 0x00000000, 0x00000000⟩,
   ⟨0x40040014, 0x0, 1, 0x0, 1, 0x00000000, 0xFFFFFFFF, 0x00000000, 0x00000000, 0x00000000, 0x00000000, 0x00000000⟩,
   ⟨0x40040018, 0x0, 1, 0x0, 1, 0x00000000, 0x00000000, 0x00000000, 0x00000000, 0x00000000, 0x00000000, 0x00000001⟩,
   ⟨0x4004001C, 0x0, 1, 0x0, 1, 0x00000000, 0xFFFFFFFF, 0x00000000, 0x00000000, 0x00000000, 0x00000000, 0x00000000⟩,
   ⟨0x40040020, 0x0, 1, 0x0, 1, 0x00000000, 0x00000000, 0x00000000, 0x00000000, 0x00000000, 0x00000000, 0xFFFFFFFF⟩,
   ⟨0x40040024, 0x0, 1, 0x0, 1, 0x00000000, 0x00000000, 0x00000000, 0x00000000, 0x00000000, 0x00000000, 0xFFFFFFFF⟩,
   ⟨0x40040028, 0x0, 1, 0x0, 1, 0x00000000, 0x00000000, 0x00000000, 0x00000000, 0x00000000, 0x00000000, 0xFFFFFFFF⟩,
   ⟨0x4004002C, 0x0, 1, 0x0, 1, 0x00000000, 0x00000000, 0x00000000, 0x00000000, 0x00000000, 0x00000000, 0xFFFFFFFF⟩,
   ⟨0x40040030, 0x0, 1, 0x0, 1, 0x00000000, 0x00000000, 0x00000000, 0x00000000, 0x00000000, 0x00000000, 0xFFFFFFFF⟩,
   ⟨0x40040034, 0x0, 1, 0x0, 1, 0x00000000, 0x00000000, 0x00000000, 0x00000000, 0x00000000, 0x00000000, 0xFFFFFFFF⟩,
   ⟨0x40040038, 0x0, 1, 0x0, 1, 0x00000000, 0x00000000, 0x00000000, 0x00000000, 0x00000000, 0x00000000, 0xFFFFFFFF⟩,
   ⟨0x4004003C, 0x0, 1, 0x0, 1, 0x000000C8, 0x00000FFF, 0x00000000, 0x00000000, 0x00000000, 0x00000000, 0x00000000⟩,
   ⟨0x40040040, 0x0, 1, 0x0, 1, 0x00000000, 0x00000000, 0x00000000, 0x00000000, 0x00000000, 0x00000000, 0xFFFFFFFF⟩,
   ⟨0x40040044, 0x0, 1, 0x0, 1, 0x00000000, 0x00000000, 0x00000000, 0x00000000, 0x00000000, 0x00000000, 0xFFFFFFFF⟩,
   ⟨0x40040080, 0x0, 1, 0x0, 1, 0x00000000, 0x000000FF, 0x00000000, 0x00000000, 0x00000000, 0x00000000, 0x00000000⟩,
   ⟨0x40040084, 0x0, 1, 0x0, 1, 0x00000000, 0xFFFFFFFF, 0x00000000, 0x00000000, 0x00000000, 0x00000000, 0x00000000⟩,
   ⟨0x40040088, 0x0, 1, 0x0, 1, 0x00000000, 0xFFFFFFFF, 0x00000000, 0x00000000, 0x00000000, 0x00000000, 0x00000000⟩,
   ⟨0x4004008C, 0x0, 1, 0x0, 1, 0x00000000, 0xFFFFFFFF, 0x00000000, 0x00000000, 0x00000000, 0x00000000, 0x00000000⟩,
   ⟨0x40040090, 0x0, 1, 0x0, 1, 0x00000000, 0x00000000, 0x00000000, 0x00000000, 0x00000000, 0x00000000, 0xFFF801FF⟩,
   ⟨0x40040094, 0x0, 1, 0x0, 1, 0x00000000, 0x00000000, 0x00000000, 0x00000000, 0x00000000, 0x00000000, 0xFFFFFFFF⟩,
   ⟨0x40040098, 0x0, 1, 0x0, 1, 0x00000000, 0x00000000, 0x00000000, 0xFFFF0003, 0x00000000, 0x00000000, 0x00000000⟩,
   ⟨0x4004009C, 0x0, 1, 0x0, 1, 0x00000000, 0x00000000, 0x00000000, 0x00000000, 0x00000000, 0x00000000, 0xFFFFFFFF⟩,
   ⟨0x400400A0, 0x0, 1, 0x0, 1, 0x00000000, 0x00000000, 0x00000000, 0x00000000, 0x00000000, 0x00000000, 0x000003FF⟩]

/-- The STN rows: base, stride, count, second stride and count, reset, then the RW, W1C, WO, RWL, RWS and RO masks. -/
def regRowsSTN : List RegRow :=
  [⟨0x40050000, 0x4000, 4, 0x0, 1, 0x00280000, 0x000001FF, 0x00000000, 0x00000000, 0x00000000, 0x00FF0000, 0x00000000⟩,
   ⟨0x40050004, 0x4000, 4, 0x0, 1, 0x00000000, 0x00000000, 0x000001FD, 0x00000000, 0x00000000, 0x00000000, 0x00000002⟩,
   ⟨0x40050008, 0x4000, 4, 0x0, 1, 0x00000000, 0x00000000, 0x00000000, 0x00000000, 0x00000000, 0x00000000, 0x00000F3F⟩,
   ⟨0x4005000C, 0x4000, 4, 0x0, 1, 0x0A000000, 0x00000000, 0x00000000, 0x00000000, 0x00000000, 0x00000000, 0xFF003FFF⟩,
   ⟨0x40050010, 0x4000, 4, 0x0, 1, 0x00100000, 0x00000000, 0x00000000, 0x00000000, 0x00000000, 0x00000000, 0xEFFFFFFF⟩,
   ⟨0x40050014, 0x4000, 4, 0x0, 1, 0x00000000, 0x00000000, 0x00000000, 0x00000000, 0x00000000, 0x00000000, 0xFFFFFFFF⟩,
   ⟨0x40050018, 0x4000, 4, 0x0, 1, 0x00000000, 0x00000000, 0x00000000, 0x00000000, 0x00000000, 0x00000000, 0xFFFFFFFF⟩,
   ⟨0x4005001C, 0x4000, 4, 0x0, 1, 0x00000000, 0x00000000, 0x00000000, 0x00000000, 0x00000000, 0x00000000, 0xFFFFFFFF⟩,
   ⟨0x40050020, 0x4000, 4, 0x0, 1, 0x00000000, 0x00000000, 0xFFFFFFFF, 0x00000000, 0x00000000, 0x00000000, 0x00000000⟩,
   ⟨0x40050024, 0x4000, 4, 0x0, 1, 0x00000000, 0x00000000, 0xFFFFFFFF, 0x00000000, 0x00000000, 0x00000000, 0x00000000⟩,
   ⟨0x40050028, 0x4000, 4, 0x0, 1, 0x00000000, 0x00000000, 0x00000000, 0x0000007F, 0x00000000, 0x00000000, 0x00000000⟩,
   ⟨0x4005002C, 0x4000, 4, 0x0, 1, 0x00000000, 0x00000000, 0xFFFFFFFF, 0x00000000, 0x00000000, 0x00000000, 0x00000000⟩,
   ⟨0x40050030, 0x4000, 4, 0x0, 1, 0x00000000, 0x00000000, 0xFFFFFFFF, 0x00000000, 0x00000000, 0x00000000, 0x00000000⟩,
   ⟨0x40050034, 0x4000, 4, 0x0, 1, 0x00000000, 0x00000000, 0x00000000, 0x00000000, 0x00000000, 0x00000000, 0xFFFFFFFF⟩,
   ⟨0x40050100, 0x4000, 4, 0x10, 32, 0x00000000, 0x00000000, 0x00000000, 0x00000000, 0x00000000, 0x00000000, 0xFFFFFFF8⟩,
   ⟨0x40050104, 0x4000, 4, 0x10, 32, 0x00000000, 0x00000000, 0x00000000, 0x00000000, 0x00000000, 0x00000000, 0xFFFFFFFF⟩,
   ⟨0x40050108, 0x4000, 4, 0x10, 32, 0x00000000, 0x00000000, 0x00000000, 0x00000000, 0x00000000, 0x00000000, 0xFFFFF007⟩,
   ⟨0x40050400, 0x4000, 4, 0x4, 64, 0x00000000, 0x00000000, 0x00000000, 0x00000000, 0x00000000, 0x00000000, 0xDFFFFFFF⟩]

/-- The HSB rows: base, stride, count, second stride and count, reset, then the RW, W1C, WO, RWL, RWS and RO masks. -/
def regRowsHSB : List RegRow :=
  [⟨0x40060000, 0x0, 1, 0x0, 1, 0x00000000, 0x00001FFF, 0x00000000, 0x00000000, 0x00000000, 0x00000000, 0x00000000⟩,
   ⟨0x40060004, 0x0, 1, 0x0, 1, 0x00000000, 0x00000000, 0x00001FFF, 0x00000000, 0x00000000, 0x00000000, 0x00000000⟩,
   ⟨0x40060008, 0x0, 1, 0x0, 1, 0x00000000, 0x00000000, 0x00000000, 0xFFFF000F, 0x00000000, 0x00000000, 0x00000000⟩,
   ⟨0x4006000C, 0x0, 1, 0x0, 1, 0x00000000, 0x00000000, 0x00000000, 0x00000000, 0x00000000, 0x00000000, 0xFFF00FE7⟩,
   ⟨0x40060010, 0x0, 1, 0x0, 1, 0x00000000, 0x00000000, 0x00000000, 0x00000000, 0x00000000, 0x00000000, 0xFFFF0FFF⟩,
   ⟨0x40060014, 0x0, 1, 0x0, 1, 0x00000000, 0x00000000, 0x00000000, 0x00000000, 0x00000000, 0x00000000, 0x00FF00FF⟩,
   ⟨0x40060018, 0x0, 1, 0x0, 1, 0x03000000, 0x00000000, 0x00000000, 0x00000000, 0xBF30FFFF, 0x00000000, 0x00000000⟩,
   ⟨0x4006001C, 0x0, 1, 0x0, 1, 0x00000000, 0x00000000, 0x00000000, 0x00000000, 0x00000000, 0x00000000, 0xFFFFFF07⟩,
   ⟨0x40060020, 0x0, 1, 0x0, 1, 0x00000000, 0x00000000, 0x00000000, 0x00000000, 0x00000000, 0x00000000, 0xFFF0FFFF⟩,
   ⟨0x40060024, 0x0, 1, 0x0, 1, 0x00000000, 0x00000000, 0x00000000, 0x00000000, 0x00000000, 0x00000000, 0xFFFFFFFF⟩,
   ⟨0x40060028, 0x0, 1, 0x0, 1, 0x07D00040, 0x0FFF007F, 0x00000000, 0x00000000, 0x00000000, 0x00000000, 0x00000000⟩,
   ⟨0x4006002C, 0x0, 1, 0x0, 1, 0x00000000, 0x00000000, 0x00000000, 0x00000000, 0x00000000, 0x00000000, 0xFFFF0FFF⟩,
   ⟨0x40060030, 0x0, 1, 0x0, 1, 0x00000000, 0x00000000, 0x00000000, 0x00000000, 0x00000000, 0x00000000, 0xFFFFFFFF⟩]

/-- The FLT rows: base, stride, count, second stride and count, reset, then the RW, W1C, WO, RWL, RWS and RO masks. -/
def regRowsFLT : List RegRow :=
  [⟨0x40070000, 0x0, 1, 0x0, 1, 0x00030000, 0x00003FFF, 0x00000000, 0x00000000, 0x80030000, 0x00000000, 0x00000000⟩,
   ⟨0x40070004, 0x0, 1, 0x0, 1, 0x00000000, 0x00000000, 0x00003FFF, 0x00000000, 0x00000000, 0x00000000, 0x00000000⟩,
   ⟨0x40070008, 0x0, 1, 0x0, 1, 0x00000000, 0x00000000, 0x00000000, 0x00000000, 0x00000000, 0x00000000, 0x0000003F⟩,
   ⟨0x4007000C, 0x0, 1, 0x0, 1, 0x00000000, 0x00000000, 0x00000000, 0x00000000, 0x00000000, 0x00000000, 0xFFFFFFFF⟩,
   ⟨0x40070010, 0x0, 1, 0x0, 1, 0x00000000, 0x00000000, 0x00000000, 0x00000000, 0x00000000, 0x00000000, 0xFFFFFFFF⟩,
   ⟨0x40070014, 0x0, 1, 0x0, 1, 0x00000000, 0x00000000, 0x00000000, 0x00000000, 0x00000000, 0x00000000, 0xFFFFFFFF⟩,
   ⟨0x40070018, 0x0, 1, 0x0, 1, 0x05400000, 0x00000000, 0x00000000, 0x00000000, 0x00000000, 0x00000000, 0x07FF07FF⟩,
   ⟨0x4007001C, 0x0, 1, 0x0, 1, 0x00000000, 0x00000000, 0x00000000, 0x00000000, 0x00000000, 0x00000000, 0xFFFFFFFF⟩,
   ⟨0x40070020, 0x0, 1, 0x0, 1, 0x00000000, 0x00000000, 0x00000000, 0x00000000, 0x00000000, 0x00000000, 0x00000003⟩,
   ⟨0x40070024, 0x0, 1, 0x0, 1, 0x00000000, 0x00000000, 0x00000000, 0x00000000, 0x00000000, 0x00000000, 0xFFFF03FF⟩,
   ⟨0x40070028, 0x0, 1, 0x0, 1, 0x00000000, 0x00000000, 0x00000000, 0x00000000, 0x00000000, 0x00000000, 0x0000FF33⟩,
   ⟨0x4007002C, 0x0, 1, 0x0, 1, 0x00000000, 0x00000000, 0x00000000, 0x00000000, 0x00000000, 0x00000000, 0x00000FFF⟩,
   ⟨0x40070030, 0x0, 1, 0x0, 1, 0x00000000, 0x00000000, 0x00000000, 0x00000000, 0x00000000, 0x00000000, 0xFFFFFFFF⟩,
   ⟨0x40070034, 0x0, 1, 0x0, 1, 0x00000000, 0x0000003F, 0x00000000, 0x00000000, 0x00000000, 0x00000000, 0x00000000⟩,
   ⟨0x40070038, 0x4, 4, 0x0, 1, 0x00000000, 0x00000000, 0x00000000, 0x00000000, 0x00000000, 0x00000000, 0xFFFFFFFF⟩,
   ⟨0x40070048, 0x0, 1, 0x0, 1, 0x00000000, 0x00000000, 0x00000000, 0x00000000, 0x00000000, 0x00000000, 0x007F07FF⟩,
   ⟨0x4007004C, 0x0, 1, 0x0, 1, 0x00000000, 0x00000000, 0x00000000, 0xFFFF3FFF, 0x00000000, 0x00000000, 0x00000000⟩]

/-- The CAN rows: base, stride, count, second stride and count, reset, then the RW, W1C, WO, RWL, RWS and RO masks. -/
def regRowsCAN : List RegRow :=
  [⟨0x40080000, 0x10000, 4, 0x0, 1, 0x00000050, 0x000FFF70, 0x00000000, 0x00000000, 0x00000000, 0x00000007, 0x00000000⟩,
   ⟨0x40080004, 0x10000, 4, 0x0, 1, 0x00000000, 0x00000000, 0x00000FFF, 0x00000000, 0x00000000, 0x00000000, 0x00000000⟩,
   ⟨0x40080008, 0x10000, 4, 0x0, 1, 0x00000000, 0x00000000, 0x00000000, 0x00000000, 0x00000000, 0x00000000, 0x3FFF01FF⟩,
   ⟨0x4008000C, 0x10000, 4, 0x0, 1, 0x00000000, 0x00000000, 0x00000000, 0xFFFF000F, 0x00000000, 0x00000000, 0x00000000⟩,
   ⟨0x40080010, 0x10000, 4, 0x0, 1, 0x00000000, 0x00000000, 0x00000000, 0xFFFF0FFF, 0x00000000, 0x00000000, 0x00000000⟩,
   ⟨0x40080014, 0x10000, 4, 0x0, 1, 0x00000000, 0x00000000, 0x00000000, 0x00000000, 0x00000000, 0x00000000, 0x000FFFFF⟩,
   ⟨0x40080018, 0x10000, 4, 0x0, 1, 0x013E0F0F, 0x1FFF7F7F, 0x00000000, 0x00000000, 0x00000000, 0x00000000, 0x00000000⟩,
   ⟨0x4008001C, 0x10000, 4, 0x0, 1, 0x000E0303, 0x1F1F0F0F, 0x00000000, 0x00000000, 0x00000000, 0x00000000, 0x00000000⟩,
   ⟨0x40080020, 0x10000, 4, 0x0, 1, 0x00000010, 0x0000007F, 0x00000000, 0x00000000, 0x00000000, 0x00000000, 0x007F0000⟩,
   ⟨0x40080024, 0x10000, 4, 0x0, 1, 0x00000000, 0x00000000, 0x00000000, 0x00000000, 0x00000000, 0x00000000, 0xFFFFFFFF⟩,
   ⟨0x40080028, 0x10000, 4, 0x0, 1, 0x00000000, 0x00000000, 0x00000000, 0x00000000, 0x00000000, 0x00000000, 0xFFFFFFFF⟩,
   ⟨0x4008002C, 0x10000, 4, 0x0, 1, 0x00000000, 0x00000000, 0x00000000, 0x00000000, 0x00000000, 0x00000000, 0x000000FF⟩,
   ⟨0x40080040, 0x10000, 4, 0x4, 8, 0x00000000, 0x00000000, 0x00000000, 0x00000000, 0x00000000, 0x00000000, 0xFFFFFFFF⟩,
   ⟨0x40080060, 0x10000, 4, 0x4, 8, 0x00000000, 0x00000000, 0x00000000, 0x00000000, 0x00000000, 0x00000000, 0xFFFFFFFF⟩,
   ⟨0x40080080, 0x10000, 4, 0x4, 8, 0x00000000, 0x00000000, 0x00000000, 0x00000000, 0x00000000, 0x00000000, 0xFFFFFFFF⟩,
   ⟨0x40080100, 0x10000, 4, 0x8, 8, 0x00000000, 0x00013FFF, 0x00000000, 0x00000000, 0x00000000, 0x00000000, 0x00000000⟩,
   ⟨0x40080104, 0x10000, 4, 0x8, 8, 0x00000000, 0x00000000, 0x00000000, 0x00000000, 0x00000000, 0x00000000, 0xFFFFFFFF⟩]

/-- The MBX rows: base, stride, count, second stride and count, reset, then the RW, W1C, WO, RWL, RWS and RO masks. -/
def regRowsMBX : List RegRow :=
  [⟨0x400C0000, 0x0, 1, 0x0, 1, 0x00000000, 0x0000FF0F, 0x00000000, 0x00000000, 0x00000000, 0x00000000, 0x00000000⟩,
   ⟨0x400C0004, 0x0, 1, 0x0, 1, 0x00000000, 0x00000000, 0x0000003E, 0x00000000, 0x00000000, 0x00000000, 0x00000001⟩,
   ⟨0x400C0008, 0x0, 1, 0x0, 1, 0x00000000, 0x00000000, 0x00000000, 0x00000000, 0x00000000, 0x00000000, 0xFFFF00FF⟩,
   ⟨0x400C000C, 0x0, 1, 0x0, 1, 0x40000000, 0xFFFFC000, 0x00000000, 0x00000000, 0x00000000, 0x00000000, 0x00000000⟩,
   ⟨0x400C0010, 0x0, 1, 0x0, 1, 0x00000000, 0x00000000, 0xFFFFFFFF, 0x00000000, 0x00000000, 0x00000000, 0x00000000⟩,
   ⟨0x400C0014, 0x0, 1, 0x0, 1, 0x00000000, 0x00000000, 0x00000000, 0xFFFFFFFF, 0x00000000, 0x00000000, 0x00000000⟩,
   ⟨0x400C0018, 0x0, 1, 0x0, 1, 0xFFFFFFFF, 0xFFFFFFFF, 0x00000000, 0x00000000, 0x00000000, 0x00000000, 0x00000000⟩,
   ⟨0x400C0020, 0x0, 1, 0x0, 1, 0x00000000, 0x00000000, 0xFFFFFFFF, 0x00000000, 0x00000000, 0x00000000, 0x00000000⟩,
   ⟨0x400C0024, 0x0, 1, 0x0, 1, 0x00000000, 0x00000000, 0x00000000, 0xFFFFFFFF, 0x00000000, 0x00000000, 0x00000000⟩,
   ⟨0x400C0028, 0x0, 1, 0x0, 1, 0xFFFFFFFF, 0xFFFFFFFF, 0x00000000, 0x00000000, 0x00000000, 0x00000000, 0x00000000⟩,
   ⟨0x400C0040, 0x4, 4, 0x0, 1, 0x00000000, 0x00000000, 0x00000000, 0x00000000, 0x00000000, 0x00000000, 0xF8009F9F⟩,
   ⟨0x400C0050, 0x4, 4, 0x0, 1, 0x00000000, 0xFFFFFFFF, 0x00000000, 0x00000000, 0x00000000, 0x00000000, 0x00000000⟩,
   ⟨0x400C0060, 0x4, 4, 0x0, 1, 0x00000000, 0x00000000, 0x00000000, 0x00000000, 0x00000000, 0x00000000, 0xFFFFFFFF⟩,
   ⟨0x400C0070, 0x4, 4, 0x0, 1, 0x00000000, 0x00000000, 0x40000000, 0x00000000, 0x00000000, 0x00000000, 0x80FFFFFF⟩,
   ⟨0x400C0100, 0x20, 28, 0x0, 1, 0x00000000, 0xC000003F, 0x00000000, 0x00000000, 0x00000000, 0x00000000, 0x00000000⟩,
   ⟨0x400C0104, 0x20, 28, 0x0, 1, 0x00000000, 0x00000000, 0x00000000, 0xFFFFFFFF, 0x00000000, 0x00000000, 0x00000000⟩,
   ⟨0x400C0108, 0x20, 28, 0x0, 1, 0x00000000, 0x00000000, 0x00000000, 0x00000000, 0x00000000, 0x00000000, 0xFFFFFFFF⟩,
   ⟨0x400C010C, 0x20, 28, 0x0, 1, 0x00000000, 0x00000000, 0x00000000, 0x00000000, 0x00000000, 0x00000000, 0xFFFFFF1F⟩,
   ⟨0x400C0110, 0x20, 28, 0x0, 1, 0x00000000, 0x00000000, 0x00000000, 0x000000FF, 0x00000000, 0x00000000, 0x00000000⟩]

/-- The REC rows: base, stride, count, second stride and count, reset, then the RW, W1C, WO, RWL, RWS and RO masks. -/
def regRowsREC : List RegRow :=
  [⟨0x400D0000, 0x0, 1, 0x0, 1, 0x000A0200, 0x00FF03FF, 0x00000000, 0x00000000, 0x00000000, 0x00000000, 0x00000000⟩,
   ⟨0x400D0004, 0x0, 1, 0x0, 1, 0x00000000, 0x00000000, 0x000001FF, 0x00000000, 0x00000000, 0x00000000, 0x00000000⟩,
   ⟨0x400D0008, 0x0, 1, 0x0, 1, 0x00000000, 0x00000000, 0x00000000, 0x00000000, 0x00000000, 0x00000000, 0x07FF1FFF⟩,
   ⟨0x400D000C, 0x0, 1, 0x0, 1, 0x00000000, 0x00000000, 0x00000000, 0x00000000, 0x00000000, 0x00000000, 0xFFFFFFFF⟩,
   ⟨0x400D0010, 0x0, 1, 0x0, 1, 0x00000000, 0x00000000, 0x00000000, 0x00000000, 0x00000000, 0x00000000, 0xFFFFFFFF⟩,
   ⟨0x400D0014, 0x0, 1, 0x0, 1, 0x00000000, 0x00000000, 0x00000000, 0x00000000, 0x00000000, 0x00000000, 0xFF00FFFF⟩,
   ⟨0x400D0018, 0x0, 1, 0x0, 1, 0x00000000, 0x00000000, 0x00000000, 0xFFFF000F, 0x00000000, 0x00000000, 0x00000000⟩,
   ⟨0x400D001C, 0x0, 1, 0x0, 1, 0x00000000, 0x00000000, 0x00000000, 0x00000000, 0x00000000, 0x00000000, 0x000000FF⟩,
   ⟨0x400D0020, 0x4, 3, 0x0, 1, 0x00000000, 0xFFFFFFFF, 0x00000000, 0x00000000, 0x00000000, 0x00000000, 0x00000000⟩,
   ⟨0x400D0030, 0x4, 3, 0x0, 1, 0x00000000, 0x00000000, 0x00000000, 0x00000FFF, 0x00000000, 0x00000000, 0x00000000⟩,
   ⟨0x400D0040, 0x0, 1, 0x0, 1, 0x00000000, 0x00000003, 0x00000000, 0x00000000, 0x00000000, 0x00000000, 0x00000000⟩,
   ⟨0x400D0044, 0x0, 1, 0x0, 1, 0x00000000, 0xFFFFFFFF, 0x00000000, 0x00000000, 0x00000000, 0x00000000, 0x00000000⟩,
   ⟨0x400D0048, 0x0, 1, 0x0, 1, 0x00000000, 0x00000000, 0x00000000, 0x00000000, 0x00000000, 0x00000000, 0xF0FFFFFF⟩,
   ⟨0x400D0080, 0x4, 16, 0x0, 1, 0x00000000, 0x00000000, 0x00000000, 0x00000000, 0x00000000, 0x00000000, 0xFFFFFFFF⟩]

/-- The NVS rows: base, stride, count, second stride and count, reset, then the RW, W1C, WO, RWL, RWS and RO masks. -/
def regRowsNVS : List RegRow :=
  [⟨0x400E0000, 0x0, 1, 0x0, 1, 0x00000000, 0x000001FF, 0x00000000, 0x00000000, 0x00000000, 0x00000000, 0x00000000⟩,
   ⟨0x400E0004, 0x0, 1, 0x0, 1, 0x00000000, 0x00000000, 0x000001FF, 0x00000000, 0x00000000, 0x00000000, 0x00000600⟩,
   ⟨0x400E0008, 0x0, 1, 0x0, 1, 0x00000000, 0x00000000, 0x00000000, 0xFFFF3F0F, 0x00000000, 0x00000000, 0x00000000⟩,
   ⟨0x400E000C, 0x0, 1, 0x0, 1, 0x00000000, 0x00000000, 0x00000000, 0x00000000, 0x00000000, 0x00000000, 0x000001FF⟩,
   ⟨0x400E0010, 0x0, 1, 0x0, 1, 0x00000000, 0xFFFFFFFF, 0x00000000, 0x00000000, 0x00000000, 0x00000000, 0x00000000⟩,
   ⟨0x400E0014, 0x0, 1, 0x0, 1, 0x00000000, 0x00000000, 0x00000000, 0x00000000, 0x00000000, 0x00000000, 0xFFFF0013⟩,
   ⟨0x400E0018, 0x0, 1, 0x0, 1, 0x00000000, 0x00000000, 0x00000000, 0x00000000, 0x00000000, 0x00000000, 0xFFFFFFFF⟩,
   ⟨0x400E0020, 0x0, 1, 0x0, 1, 0x00000000, 0x00000000, 0x00000000, 0xFFFF007F, 0x00000000, 0x00000000, 0x00000000⟩,
   ⟨0x400E0024, 0x0, 1, 0x0, 1, 0x00000000, 0x0000007F, 0x00000000, 0x00000000, 0x00000000, 0x00000000, 0x00000000⟩,
   ⟨0x400E0028, 0x0, 1, 0x0, 1, 0x00000000, 0x00000000, 0x00000000, 0x00000000, 0x00000000, 0x00000000, 0xFFFFFFFF⟩,
   ⟨0x400E002C, 0x0, 1, 0x0, 1, 0x00000000, 0x00000000, 0x00000000, 0x00000000, 0x00000000, 0x00000000, 0x0003FFFF⟩,
   ⟨0x400E0030, 0x0, 1, 0x0, 1, 0x00000000, 0x00000000, 0x00000000, 0x00000037, 0x00000000, 0x00000000, 0x00000000⟩,
   ⟨0x400E0034, 0x0, 1, 0x0, 1, 0x00000000, 0x00000000, 0x00000000, 0xFFFFFFFF, 0x00000000, 0x00000000, 0x00000000⟩,
   ⟨0x400E0038, 0x0, 1, 0x0, 1, 0x00000000, 0x00000000, 0x00000000, 0xFFFFFFFF, 0x00000000, 0x00000000, 0x00000000⟩,
   ⟨0x400E003C, 0x0, 1, 0x0, 1, 0x00000000, 0x00000000, 0x00000000, 0x00000000, 0x00000000, 0x00000000, 0xFE007FE7⟩,
   ⟨0x400E0040, 0x0, 1, 0x0, 1, 0x00000000, 0x0000003F, 0x00000000, 0x00000000, 0x00000000, 0x00000000, 0x00000000⟩,
   ⟨0x400E0044, 0x0, 1, 0x0, 1, 0x00000000, 0x00000000, 0x00000000, 0x00000000, 0x00000000, 0x00000000, 0x9FFFFFFF⟩]

/-- The RTC rows: base, stride, count, second stride and count, reset, then the RW, W1C, WO, RWL, RWS and RO masks. -/
def regRowsRTC : List RegRow :=
  [⟨0x400F0000, 0x0, 1, 0x0, 1, 0x00000000, 0x0000007F, 0x00000000, 0x00000000, 0x00000000, 0x00000000, 0x00000000⟩,
   ⟨0x400F0004, 0x0, 1, 0x0, 1, 0x00000000, 0x00000000, 0x0000007F, 0x00000000, 0x00000000, 0x00000000, 0x00000000⟩,
   ⟨0x400F0008, 0x0, 1, 0x0, 1, 0x00000001, 0x00000000, 0x00000000, 0x00000000, 0x00000000, 0x00000000, 0xFFFF0007⟩,
   ⟨0x400F000C, 0x0, 1, 0x0, 1, 0x00000000, 0x00000000, 0x00000000, 0x00000001, 0x00000000, 0x00000000, 0x00000000⟩,
   ⟨0x400F0010, 0x0, 1, 0x0, 1, 0x00000000, 0x00000000, 0x00000000, 0x00000000, 0x00000000, 0x00000000, 0x01FF0F1F⟩,
   ⟨0x400F0014, 0x0, 1, 0x0, 1, 0x00000000, 0x00000000, 0x00000000, 0x00000000, 0x00000000, 0x00000000, 0x071F3F3F⟩,
   ⟨0x400F0018, 0x0, 1, 0x0, 1, 0x00000000, 0x00000000, 0x00000000, 0x00000000, 0x00000000, 0x00000000, 0x00007FFF⟩,
   ⟨0x400F0020, 0x0, 1, 0x0, 1, 0x00000101, 0x01FF0F1F, 0x00000000, 0x00000000, 0x00000000, 0x00000000, 0x00000000⟩,
   ⟨0x400F0024, 0x0, 1, 0x0, 1, 0x00000000, 0x071F3F3F, 0x00000000, 0x00000000, 0x00000000, 0x00000000, 0x00000000⟩,
   ⟨0x400F0028, 0x0, 1, 0x0, 1, 0x00000000, 0x00000000, 0x00000000, 0xFFFF001F, 0x00000000, 0x00000000, 0x00000000⟩,
   ⟨0x400F002C, 0x0, 1, 0x0, 1, 0x00000000, 0x00000000, 0x00000000, 0x00000000, 0x00000000, 0x00000000, 0xFFFFFFFF⟩,
   ⟨0x400F0030, 0x0, 1, 0x0, 1, 0x00000000, 0x00000000, 0x00000000, 0x00000000, 0x00000000, 0x00000000, 0xFFFFFFFF⟩,
   ⟨0x400F0034, 0x0, 1, 0x0, 1, 0x00000000, 0x00000000, 0x00000000, 0x00000000, 0x00000000, 0x000003FF, 0x00000000⟩,
   ⟨0x400F0038, 0x0, 1, 0x0, 1, 0x00000000, 0xFF9F3F3F, 0x00000000, 0x00000000, 0x00000000, 0x00000000, 0x00000000⟩,
   ⟨0x400F003C, 0x0, 1, 0x0, 1, 0x00000064, 0xC00000FF, 0x00000000, 0x00000000, 0x00000000, 0x00000000, 0x00000000⟩,
   ⟨0x400F0040, 0x0, 1, 0x0, 1, 0x00000000, 0x00000000, 0x00000000, 0x00000000, 0x00000000, 0x00000000, 0xFFFFFFFF⟩,
   ⟨0x400F0080, 0x4, 16, 0x0, 1, 0x00000000, 0xFFFFFFFF, 0x00000000, 0x00000000, 0x00000000, 0x00000000, 0x00000000⟩]

/-- The WDG rows: base, stride, count, second stride and count, reset, then the RW, W1C, WO, RWL, RWS and RO masks. -/
def regRowsWDG : List RegRow :=
  [⟨0x40100000, 0x0, 1, 0x0, 1, 0x200003E8, 0x08000000, 0x00000000, 0x00000000, 0xF0003FFF, 0x00000000, 0x00000000⟩,
   ⟨0x40100004, 0x0, 1, 0x0, 1, 0x00000000, 0x00000000, 0x00000001, 0x00000000, 0x00000000, 0x00000000, 0x0000001E⟩,
   ⟨0x40100008, 0x0, 1, 0x0, 1, 0x00000000, 0x00000000, 0x00000000, 0x0000FFFF, 0x00000000, 0x00000000, 0x00000000⟩,
   ⟨0x4010000C, 0x0, 1, 0x0, 1, 0x00000000, 0x00000001, 0x00000000, 0x00000000, 0x00000000, 0x00000000, 0x00000000⟩,
   ⟨0x40100010, 0x0, 1, 0x0, 1, 0x00000000, 0x00000000, 0x00000000, 0x00000000, 0x00FFFFFF, 0x00000000, 0x00000000⟩,
   ⟨0x40100014, 0x0, 1, 0x0, 1, 0x00000000, 0x00000000, 0x00000000, 0x00000000, 0x00000000, 0x00000000, 0x00FFFFFF⟩,
   ⟨0x40100018, 0x0, 1, 0x0, 1, 0x00000000, 0x00000000, 0x00000000, 0x00000000, 0x00000000, 0x00000000, 0xFFFFFFFF⟩]

/-- The MIM rows: base, stride, count, second stride and count, reset, then the RW, W1C, WO, RWL, RWS and RO masks. -/
def regRowsMIM : List RegRow :=
  [⟨0x40110000, 0x0, 1, 0x0, 1, 0x00000000, 0xE00003FF, 0x00000000, 0x00000000, 0x00000000, 0x00000000, 0x00000000⟩,
   ⟨0x40110004, 0x0, 1, 0x0, 1, 0x00000000, 0x00000000, 0x000003FF, 0x00000000, 0x00000000, 0x00000000, 0x00000000⟩,
   ⟨0x40110008, 0x0, 1, 0x0, 1, 0x00000000, 0x00000000, 0x00000000, 0x00000000, 0x00000000, 0x00000000, 0x0F070001⟩,
   ⟨0x4011000C, 0x0, 1, 0x0, 1, 0x03200500, 0x03FF07FF, 0x00000000, 0x00000000, 0x00000000, 0x00000000, 0x00000000⟩,
   ⟨0x40110010, 0x0, 1, 0x0, 1, 0x0643411F, 0x1FFFFFFF, 0x00000000, 0x00000000, 0x00000000, 0x00000000, 0x00000000⟩,
   ⟨0x40110014, 0x0, 1, 0x0, 1, 0x00000000, 0x00000000, 0x00000000, 0x00000000, 0x00000000, 0x00000000, 0xFFFFFFFF⟩,
   ⟨0x40110020, 0x0, 1, 0x0, 1, 0x00000000, 0x07FF03FF, 0x00000000, 0x00000000, 0x00000000, 0x00000000, 0x00000000⟩,
   ⟨0x40110024, 0x0, 1, 0x0, 1, 0x00000000, 0x07FF03FF, 0x00000000, 0x00000000, 0x00000000, 0x00000000, 0x00000000⟩,
   ⟨0x40110028, 0x0, 1, 0x0, 1, 0x00000000, 0xFFFFFFFF, 0x00000000, 0x00000000, 0x00000000, 0x00000000, 0x00000000⟩,
   ⟨0x4011002C, 0x0, 1, 0x0, 1, 0x00000000, 0xFFFFFFFF, 0x00000000, 0x00000000, 0x00000000, 0x00000000, 0x00000000⟩,
   ⟨0x40110030, 0x0, 1, 0x0, 1, 0x00000000, 0x00000000, 0x00000000, 0xFFFFFF0F, 0x00000000, 0x00000000, 0x00000000⟩,
   ⟨0x40110034, 0x0, 1, 0x0, 1, 0x00003600, 0x00000000, 0x00000000, 0x00000000, 0x00000000, 0x00000000, 0xFFFFFFFF⟩,
   ⟨0x40110038, 0x0, 1, 0x0, 1, 0x00000000, 0x00000000, 0x00000000, 0x00000000, 0x00000000, 0x00000000, 0xFFFFFFFF⟩,
   ⟨0x40110040, 0x0, 1, 0x0, 1, 0x00000000, 0x00000000, 0x00000000, 0x00000000, 0x00000000, 0x00000000, 0xFFFF0007⟩,
   ⟨0x40110044, 0x0, 1, 0x0, 1, 0x140A00F6, 0xFFFFFFFF, 0x00000000, 0x00000000, 0x00000000, 0x00000000, 0x00000000⟩,
   ⟨0x40110048, 0x0, 1, 0x0, 1, 0x0032281E, 0x00FFFFFF, 0x00000000, 0x00000000, 0x00000000, 0x00000000, 0x00000000⟩,
   ⟨0x4011004C, 0x0, 1, 0x0, 1, 0x00000000, 0xFFFFFFFF, 0x00000000, 0x00000000, 0x00000000, 0x00000000, 0x00000000⟩,
   ⟨0x40110050, 0x0, 1, 0x0, 1, 0x00000000, 0xFFFFFFFF, 0x00000000, 0x00000000, 0x00000000, 0x00000000, 0x00000000⟩,
   ⟨0x40110054, 0x0, 1, 0x0, 1, 0x00000000, 0x7F7FFFFF, 0x00000000, 0x00000000, 0x00000000, 0x00000000, 0x00000000⟩,
   ⟨0x40110058, 0x0, 1, 0x0, 1, 0x0000040A, 0x000007FF, 0x00000000, 0x00000000, 0x00000000, 0x00000000, 0x00000000⟩,
   ⟨0x4011005C, 0x0, 1, 0x0, 1, 0x00000000, 0x00000000, 0x00000000, 0x00000000, 0x00000000, 0x00000000, 0x000000FF⟩,
   ⟨0x40110060, 0x0, 1, 0x0, 1, 0x00000000, 0x00000000, 0x00000000, 0x00000000, 0x00000000, 0x00000000, 0xFFFFFFFF⟩,
   ⟨0x40110064, 0x0, 1, 0x0, 1, 0x00000000, 0x00000000, 0x00000000, 0x00000000, 0x00000000, 0x00000000, 0xFFFFFFFF⟩]

/-- The PWR rows: base, stride, count, second stride and count, reset, then the RW, W1C, WO, RWL, RWS and RO masks. -/
def regRowsPWR : List RegRow :=
  [⟨0x40010000, 0x0, 1, 0x0, 1, 0x00000200, 0x000003FF, 0x00000000, 0x00000000, 0x00000000, 0x00000000, 0x00000000⟩,
   ⟨0x40010004, 0x0, 1, 0x0, 1, 0x00000000, 0x00000000, 0x0000003F, 0x00000000, 0x00000000, 0x00000000, 0x00000000⟩,
   ⟨0x40010008, 0x0, 1, 0x0, 1, 0x00000103, 0x00000000, 0x00000000, 0x00000000, 0x00000000, 0x00000000, 0x00FF011F⟩,
   ⟨0x4001000C, 0x0, 1, 0x0, 1, 0x00000000, 0x00000000, 0x00000000, 0x00000000, 0x00000000, 0x00000000, 0x0000FFFF⟩,
   ⟨0x40010010, 0x0, 1, 0x0, 1, 0x03DE0514, 0x00000000, 0x00000000, 0x00000000, 0x87FF07FF, 0x00000000, 0x00000000⟩,
   ⟨0x40010020, 0x4, 7, 0x0, 1, 0x00000000, 0x00000000, 0x00000000, 0x00000000, 0x00000000, 0x00000000, 0xFFFFFFFF⟩,
   ⟨0x40010040, 0x0, 1, 0x0, 1, 0x0000001F, 0x0000001F, 0x00000000, 0x00000000, 0x00000000, 0x00000000, 0x00000000⟩,
   ⟨0x40010044, 0x0, 1, 0x0, 1, 0x00000000, 0x00000000, 0x0000001F, 0x00000000, 0x00000000, 0x00000000, 0x00000700⟩,
   ⟨0x40010048, 0x0, 1, 0x0, 1, 0x00000000, 0x00000000, 0x00000000, 0x00000000, 0x00000000, 0x00000000, 0xE000FFFF⟩]

/-- The UPD rows: base, stride, count, second stride and count, reset, then the RW, W1C, WO, RWL, RWS and RO masks. -/
def regRowsUPD : List RegRow :=
  [⟨0x40120000, 0x0, 1, 0x0, 1, 0x00000000, 0x000001FF, 0x00000000, 0x00000000, 0x00000000, 0x00000000, 0x00000000⟩,
   ⟨0x40120004, 0x0, 1, 0x0, 1, 0x00000000, 0x00000000, 0x000001FF, 0x00000000, 0x00000000, 0x00000000, 0x00000000⟩,
   ⟨0x40120008, 0x0, 1, 0x0, 1, 0x00000000, 0x00000000, 0x00000000, 0x00000000, 0x00000000, 0x00000000, 0xFF00007F⟩,
   ⟨0x4012000C, 0x0, 1, 0x0, 1, 0x00000000, 0x00000000, 0x00000000, 0xFFFF070F, 0x00000000, 0x00000000, 0x00000000⟩,
   ⟨0x40120010, 0x0, 1, 0x0, 1, 0x00000000, 0xFFFFFFFF, 0x00000000, 0x00000000, 0x00000000, 0x00000000, 0x00000000⟩,
   ⟨0x40120014, 0x0, 1, 0x0, 1, 0x00000000, 0x00000001, 0x00000000, 0x00000000, 0x00000000, 0x00000000, 0x00000000⟩,
   ⟨0x40120018, 0x0, 1, 0x0, 1, 0x00000000, 0x00000000, 0x00000000, 0x00000000, 0x00000000, 0x00000000, 0xFFFFFFFF⟩,
   ⟨0x40120020, 0x0, 1, 0x0, 1, 0x00000000, 0xFFFFFFFF, 0x00000000, 0x00000000, 0x00000000, 0x00000000, 0x00000000⟩,
   ⟨0x40120024, 0x0, 1, 0x0, 1, 0x00000000, 0xFFFFFFFF, 0x00000000, 0x00000000, 0x00000000, 0x00000000, 0x00000000⟩,
   ⟨0x40120028, 0x0, 1, 0x0, 1, 0x00000000, 0xFFFFFFFF, 0x00000000, 0x00000000, 0x00000000, 0x00000000, 0x00000000⟩,
   ⟨0x4012002C, 0x0, 1, 0x0, 1, 0x00000000, 0x8000001F, 0x00000000, 0x00000000, 0x00000000, 0x00000000, 0x00000000⟩,
   ⟨0x40120030, 0x0, 1, 0x0, 1, 0x00000000, 0x00000000, 0x00000000, 0xFFFF0000, 0x00000000, 0x00000000, 0x00000000⟩,
   ⟨0x40120034, 0x0, 1, 0x0, 1, 0x00000258, 0x00000000, 0x00000000, 0x00000000, 0x8000FFFF, 0x00000000, 0x00000000⟩,
   ⟨0x40120038, 0x0, 1, 0x0, 1, 0x00000000, 0x00000000, 0x00000000, 0x00000000, 0x00000000, 0x00000000, 0xFFFFFFFF⟩,
   ⟨0x4012003C, 0x0, 1, 0x0, 1, 0x00000000, 0xB0FFFF1F, 0x00000000, 0x00000000, 0x00000000, 0x00000000, 0x00000000⟩,
   ⟨0x40120040, 0x0, 1, 0x0, 1, 0x00000000, 0xFFFF0000, 0x00000000, 0x00000000, 0x00000000, 0x00000000, 0x0000001F⟩,
   ⟨0x40120044, 0x0, 1, 0x0, 1, 0x00000000, 0x00000000, 0x00000000, 0x00000000, 0x00000000, 0x00000000, 0x1F7DF7DF⟩]

/-- The GRD rows: base, stride, count, second stride and count, reset, then the RW, W1C, WO, RWL, RWS and RO masks. -/
def regRowsGRD : List RegRow :=
  [⟨0x40130000, 0x0, 1, 0x0, 1, 0x00000000, 0x0000003F, 0x00000000, 0x00000000, 0x00000000, 0x00000000, 0x00000000⟩,
   ⟨0x40130004, 0x0, 1, 0x0, 1, 0x00000000, 0x00000000, 0x0000003F, 0x00000000, 0x00000000, 0x00000000, 0x00000000⟩,
   ⟨0x40130008, 0x0, 1, 0x0, 1, 0x00000000, 0x00000000, 0x00000000, 0xFFFF000F, 0x00000000, 0x00000000, 0x00000000⟩,
   ⟨0x4013000C, 0x0, 1, 0x0, 1, 0x00000000, 0x00000000, 0x00000000, 0x00000000, 0x00000000, 0x00000000, 0x0000000F⟩,
   ⟨0x40130010, 0x0, 1, 0x0, 1, 0x00000000, 0xFFFFFFFF, 0x00000000, 0x00000000, 0x00000000, 0x00000000, 0x00000000⟩,
   ⟨0x40130014, 0x0, 1, 0x0, 1, 0x00000000, 0x00000000, 0x00000000, 0x00000000, 0x00000000, 0x00000000, 0xFFFFFFFF⟩,
   ⟨0x40130018, 0x0, 1, 0x0, 1, 0x00000000, 0x00000000, 0x00000000, 0x00000000, 0x00000000, 0x00000000, 0xFFFF0F03⟩,
   ⟨0x4013001C, 0x0, 1, 0x0, 1, 0x00000000, 0x00000000, 0x00000000, 0x00000000, 0x00000000, 0x00000000, 0xFFFF0003⟩,
   ⟨0x40130020, 0x4, 8, 0x0, 1, 0x00000000, 0x00000000, 0x00000000, 0x00000000, 0x00000000, 0x00000000, 0xFFFFFFFF⟩,
   ⟨0x40130040, 0x4, 8, 0x0, 1, 0x00000000, 0x00000000, 0x00000000, 0xFFFFFFFF, 0x00000000, 0x00000000, 0x00000000⟩,
   ⟨0x40130060, 0x0, 1, 0x0, 1, 0x00000000, 0x00000000, 0x00000000, 0x00000000, 0x00000000, 0x00000000, 0x0000FF7F⟩,
   ⟨0x40130064, 0x0, 1, 0x0, 1, 0x00000000, 0x00000000, 0x00000000, 0x00000000, 0x00000000, 0x00000000, 0xFFFFFFFF⟩,
   ⟨0x40130068, 0x0, 1, 0x0, 1, 0x00000000, 0x00000000, 0x00000000, 0x00000000, 0x00000000, 0x00000000, 0xFFFFFFFF⟩,
   ⟨0x40130100, 0x10, 16, 0x0, 1, 0x00000000, 0x00000000, 0x00000000, 0x00000000, 0x00000000, 0x00000000, 0xFFFFF001⟩,
   ⟨0x40130104, 0x10, 16, 0x0, 1, 0x00000000, 0x00000000, 0x00000000, 0x00000000, 0x00000000, 0x00000000, 0xFFFFF000⟩,
   ⟨0x40130108, 0x10, 16, 0x0, 1, 0x00000000, 0x00000000, 0x00000000, 0x00000000, 0x00000000, 0x00000000, 0xFFFFFFFF⟩]

/-- Whether the row names the register at `a`. -/
def RegRow.covers (r : RegRow) (a : Nat) : Bool :=
  r.base ≤ a &&
    (let d := a - r.base
     if r.stride = 0 then d == 0
     else if r.stride2 = 0 then d % r.stride == 0 && d / r.stride < r.count
     else d / r.stride < r.count && (d % r.stride) % r.stride2 == 0 && (d % r.stride) / r.stride2 < r.count2)

/-- The rows of the block whose 64 KiB window (R25) holds the address. -/
def regRowsAt (a : Nat) : List RegRow :=
  match a / 0x10000 with
  | 0x4000 => regRowsSYS
  | 0x4001 => regRowsPWR
  | 0x4002 => regRowsSCN
  | 0x4003 => regRowsSHD
  | 0x4004 => regRowsOLC
  | 0x4005 => regRowsSTN
  | 0x4006 => regRowsHSB
  | 0x4007 => regRowsFLT
  | 0x4008 => regRowsCAN
  | 0x4009 => regRowsCAN
  | 0x400A => regRowsCAN
  | 0x400B => regRowsCAN
  | 0x400C => regRowsMBX
  | 0x400D => regRowsREC
  | 0x400E => regRowsNVS
  | 0x400F => regRowsRTC
  | 0x4010 => regRowsWDG
  | 0x4011 => regRowsMIM
  | 0x4012 => regRowsUPD
  | 0x4013 => regRowsGRD
  | _ => []

/-- The row of the register at `a`, if the spec assigns one (R5). -/
def regRow? (a : Nat) : Option RegRow := (regRowsAt a).find? (·.covers a)

/-- The reset value of the register at `a`; 0 where no register is assigned (R5). -/
def regReset (a : Nat) : Word :=
  match regRow? a with
  | some r => r.reset
  | none => 0

end Sys2Proof.Machine
end

