-- ==== Sys2Proof/Machine/State.lean ====
section
/-! DEFINITION. The state of the block, as plain data. Everything that a control register shows lives in `regs` under the
register's address; the structures below hold what no register shows. Memory and the other large arrays are sparse lists in one
canonical form (keys rising, no entry equal to what an unlisted key reads as). -/

namespace Sys2Proof.Machine

/-- Why the machine stops. -/
inductive Fault where
  /-- Raised by POWER_ON_RESET alone, with pin TESTEN high (R484): manufacturing test mode, whose behaviour the spec does not
  describe. Safe: the hardware goes on where the model stops. -/
  | testMode
deriving DecidableEq, Repr

/-- Why a command has no meaning. -/
inductive Refusal where
  /-- Raised by an arm of `exec` whose command is not modelled yet. Safe: the model stops where the hardware goes on. -/
  | notModelled (mnemonic : String)
deriving DecidableEq, Repr

/-! ### Scan engines and cores -/

/-- The task context of Table 3.1, RSP apart (it is the length of the engine's return stack). A shadow context holds ACC, ACH,
IX, IY, BA, BRC, BRS, BRD and DSP complemented (R166). -/
structure Ctx where
  acc : Word
  ach : Word
  ix : Word
  iy : Word
  ba : Bool
  ibD : Word
  ibB : BitVec 24
  pc : Word
  dsp : Word
  flg : BitVec 5
  brc : Word
  brs : Word
  brd : Word
deriving DecidableEq, Repr

/-- A return-stack entry (R70). -/
structure RetEntry where
  pc : Word
  ibD : Word
  ibB : BitVec 24
  flg : BitVec 5
  ba : Bool
deriving DecidableEq, Repr

/-- The space of a journal unit (R171). -/
inductive JSpace where
  | data
  | bit
  | qword
deriving DecidableEq, Repr

/-- A journal entry (R171): the unit's number in its space, 8 bytes of data and the mask of the bits written; `bad` once the scrubber has
poisoned it (R303). -/
structure JEntry where
  task : Fin 32
  space : JSpace
  unit : Nat
  data : Long
  mask : Long
  bad : Bool
deriving DecidableEq, Repr

/-- A physical scan engine: its return stack (top first), the shadow unit's return stack and its journal (oldest first). -/
structure Phys where
  stack : List RetEntry
  shStack : List RetEntry
  journal : List JEntry
deriving DecidableEq, Repr

/-- How the current or last scan of a task ended (R143, R146, Table 9.4). -/
inductive Abn where
  | none
  | overrun (k : Nat)
  | exception (code : Nat)
  | mismatch
  | resync
deriving DecidableEq, Repr

/-- A request for an error task (R284, R289): the class served, the identity and FLT_LOGSEQ of the fault's record, and the entry
registers of the error task (Tables 3.9, 8.x and 10.5). -/
structure ErrReq where
  cls : Nat
  seq : Nat
  skind : Nat
  inst : Nat
  cause : Nat
  acc : Word
  ach : Word
  ix : Word
  iy : Word
deriving DecidableEq, Repr

/-- What the scheduler, the shadow unit and the image stores hold for a task beside its registers. -/
structure Task where
  /-- an activation exists: ready, running or pre-empted -/
  live : Bool
  /-- the activation has been given the engine at least once, so that its start depth is fixed -/
  begun : Bool
  /-- an abandoned scan whose HOUSEKEEP is still due while the next scan has begun (R130), with its frozen partition -/
  old : Option Abn
  oldB : List (Nat × Word)
  oldW : List (Nat × Word)
  oldRel : Time
  oldPace : Bool
  ctx : Ctx
  sctx : Ctx
  /-- return-stack depths at task start, of the primary and of the shadow copy (R70) -/
  depth : Nat
  sdepth : Nat
  /-- the lengths to which the return stacks are cut when the activation leaves: below its start depths while entries of an activation
  abandoned beneath it lie there (R71) -/
  base : Nat
  sbase : Nat
  /-- steps of the primary copy (R144) -/
  steps : Nat
  /-- the activation runs both copies (R190) -/
  paired : Bool
  /-- the current scan is a warm-up scan, whose stores write both halves (R186) -/
  warm : Bool
  /-- bytes of the protected storage that the warm-up copy has still to do; none outside a warm-up -/
  warmLeft : Option Nat
  /-- TS of the activation (R113) -/
  ts : Time
  /-- ledger entries held, and the index of the next LDG (R155, R157) -/
  ledgUsed : Nat
  ledgPos : Nat
  /-- mismatches of this activation (Table 6.3) -/
  mm : Nat
  /-- a re-execution waits for the mapping of a spare (R178) -/
  reexec : Bool
  ended : Abn
  /-- the frozen partition inputs (R129): words of 32 I bits, and I words, by their number in the I image -/
  frozenB : List (Nat × Word)
  frozenW : List (Nat × Word)
  /-- the release of the current or previous activation -/
  lastRel : Option Time
  /-- an event firing remembered (R132) -/
  fired : Bool
  /-- a firing whose release waits for the separation (R132) -/
  delayed : Bool
  /-- a release that fell in the late phases of the previous scan (R130) -/
  lateDue : Option Time
  /-- FIRST_SCAN, TASK_OVERRUN and PACE_WARN of the task (R143) -/
  first : Bool
  overrun : Bool
  pace : Bool
  paceTS : Bool
  /-- the current issue of a block repeat has paid its setup steps (R117) and, where it needs it, holds its admission (R119) -/
  inBlock : Bool
  admitted : Bool
  /-- the Turnstile wait of a block repeat (R119) -/
  waiting : Bool
  /-- a block repeat was pre-empted between two elements, so that its next setup steps belong to the switch (R126) -/
  resumed : Bool
  /-- firings of the task's source that the scan scheduler has not taken up yet (R132) -/
  hits : Nat
  /-- the fault that an error activation serves (R286) -/
  serves : Option ErrReq
  /-- an OUTPUT of the task has completed since the restart (R47, R147) -/
  outDone : Bool
  /-- own and partner's partition hashes by scan number, latest first (R254) -/
  hashes : List (Word × Long)
  partnerHash : List (Word × Long)
  /-- how activations ended by scan number or release count, with OVK or exception code: ENDMKs received, and own ends that wait for
  theirs (R252) -/
  endmk : List (Word × Nat × Nat)
  ends : List (Word × Nat × Nat)
  /-- the TOKEN and INPART that the standby holds (R249, R253) -/
  token : Option Token
  inpart : Option (List (Nat × Word) × List (Nat × Word))
  /-- no release before this instant, of a task that an all-task package has added (R202) -/
  holdOff : Time
  /-- STN_DROPPED as the task sees it: STN_DROP of rings A to D at its last HOUSEKEEP (R234) -/
  drops : Vector Word 4
deriving DecidableEq, Repr

/-- A logical engine: the task it runs, the self-test after a mismatch, and the windows of the pacemeter and of the rotation. -/
structure Eng where
  run : Option (Fin 32)
  /-- the task whose mismatch stopped issue, until the verdict (R176) -/
  mismatch : Option (Fin 32)
  /-- the mismatch's activation was abandoned during the self-test (R179), with its count of mismatches -/
  mmGone : Option Nat
  /-- the spare engine that is being mapped in (R177) -/
  remap : Option (Fin 18)
  /-- halted by the debug port (R412) -/
  halted : Bool
  /-- the debug port lets the halted engine make one step: by the task, and its steps and TS then (R481) -/
  step : Option (Fin 32 × Nat × Time)
  /-- consecutive windows below THR, at or above THR + HYST, below 800, at or above 800 (R152, R153) -/
  below : Nat
  above : Nat
  low : Nat
  notLow : Nat
  /-- completed segments of the due rotation test; none when no test is due (R294) -/
  segs : Option Nat
  /-- no window has ended since the entry to RUN: MINRATE and MIN load (SCN_LEPACE, SCN_LESLACK) -/
  freshPace : Bool
  freshSlack : Bool
  /-- the ends of the last pacemeter window and the last slack window (R151, R154) -/
  paceEnd : Time
  slackEnd : Time
  /-- the last 100 ms window kept 5 % idle slack (R308) -/
  slackOk : Bool
deriving DecidableEq, Repr

/-- A management core (R87, R88): its context, return stack, special registers, and whether it waits (WFI), is stopped (R91) or
is halted by the debug port. -/
structure Core where
  ctx : Ctx
  stack : List RetEntry
  mst : Word
  vb : Word
  ien : BitVec 64
  inBlock : Bool
  waiting : Bool
  stopped : Bool
  halted : Bool
  /-- the debug port lets the halted core issue one instruction (R481) -/
  step : Bool
  /-- the first test of a failed core has failed, and the second decides (R298) -/
  retest : Bool
deriving DecidableEq, Repr

/-! ### Online change and forcing -/

/-- A staged change of a force entry (R209). -/
inductive FPend where
  | set (v : Long)
  | clear
deriving DecidableEq, Repr

/-- A force entry (R208): its symbol as resolved, its owner, the value in effect and the staged change. -/
structure Force where
  sym : Symbol
  owner : Option (Fin 32)
  cur : Option Long
  pend : Option FPend
deriving DecidableEq, Repr

/-- The online change controller beside its registers: symbol directory, force table, staged package, its header's CHGMASK and
digest, its CRC, the portions of a LOAD that have been admitted and the buffer that its second copy fills (R194), the pivot of an armed
activation, the scan number after which it takes effect (R197), that number while the partner is still to be told with that scan's token (R212),
the hold of releases for an all-task package
(R202) and its beginning, the DISCARD entries executed by ID and COUNT (Table 7.4), the digest of the retentive layout in force, and which of
OLC_FID, OLC_FVALL and OLC_FVALH show the selected entry. -/
structure Olc where
  syms : List Symbol
  forces : List Force
  pkg : Option PkgSections
  pkgTask : Fin 32
  chgMask : Word
  pkgDigest : Long
  pkgCrc : Word
  portions : Nat
  buf : List Byte
  pivot : Fin 32
  actScan : Word
  fwd : Option Word
  hold : Bool
  holdAt : Time
  discs : List (Word × Nat)
  digest : Long
  showId : Bool
  showLo : Bool
  showHi : Bool
deriving DecidableEq, Repr

/-! ### Station rings -/

/-- The cycle of a ring that is under way (R221 to R226): its number, whether it was sent split or closed in repair, whether the
closed frame and the MON frame have returned, the stations whose slot has come back valid on each leg, what their slots said, the
round trip that the closed frame measured, whether the MON frame was due and had not returned, and the inputs of dropped stations. -/
structure Cyc where
  num : Nat
  split : Bool
  repair : Bool
  ret0 : Bool
  mon : Bool
  ok0 : BitVec 32
  ok1 : BitVec 32
  fresh : BitVec 32
  wrap : BitVec 32
  lnkok : BitVec 32
  pchk : BitVec 32
  rtd : Nat
  monMiss : Bool
  newB : List (Nat × Word)
  newW : List (Nat × Word)
deriving DecidableEq, Repr

/-- A ring beside its registers. -/
structure Ring where
  cyc : Option Cyc
  /-- the last cycle number started -/
  lastCyc : Nat
  /-- enumerated, or timed out, since LOAD (R501), and enumerated at all -/
  ready : Bool
  enumerated : Bool
  /-- the instant at which the ring became LOST or was last retrained (R227) -/
  lostAt : Time
  /-- cycles in which both wrapping stations reported LNKOK; the next cycle is sent as a repair at 64 (R226) -/
  lnk : Nat
  /-- the wrapping stations of the last split cycle -/
  wraps : List (Fin 32)
  /-- stations that have taken part in the exchange since LOAD (R503) -/
  joined : BitVec 32
  /-- consecutive valid cycles with a matching PCHK, of each dropped station (R235) -/
  rejoin : Vector Nat 32
  /-- stations whose PREP is set in the slots of the cycle under way, and between cycles those that missed their target (R230) -/
  prep : BitVec 32
  /-- consecutive cycles, the last sent included, in which the leader value was constant, and that value, by group (R233) -/
  constFor : Vector Nat 64
  leader : Vector Bool 64
  /-- tags in submission order, and those whose request is on the ring with the cycle of its sending (R240) -/
  acq : List (Fin 64)
  sent : List (Fin 64 × Nat)
  /-- ERR_IO requests (R237) -/
  ioq : List ErrReq
deriving DecidableEq, Repr

/-! ### Hot standby -/

/-- Why a claim was begun (R262). -/
inductive ClaimKind where
  | takeover | start | arbitrated | legacy
deriving DecidableEq, Repr

/-- A resync that this unit sends: pages still to copy in this pass, those that were dirty at its start by number, the pass before
it, passes without progress, when it began, and the timeout in ms and join threshold taken then (R275, R277). -/
structure Resync where
  pages : List Nat
  prev : Nat
  stalls : Nat
  began : Time
  tmo : Nat
  joinpg : Nat
  joining : Option (Fin 32)
deriving DecidableEq, Repr

/-- A frame of the sync link in the replay buffer (R247): FSEQ, the replays so far, the instant of its last sending, and its content. -/
structure SyncSent where
  fseq : Word
  tries : Nat
  sentAt : Time
  msg : SyncMsg
deriving DecidableEq, Repr

/-- The hot-standby controller beside its registers. -/
structure Hsb where
  /-- the replay buffer: frames sent and not acknowledged, oldest first (R247), and the frames that wait for room in it -/
  replay : List SyncSent
  outq : List SyncMsg
  fseq : Word
  rseq : Word
  /-- SEQ of the last record sent, that record, and the lockstep's beginning -/
  hbSeq : BitVec 16
  hbOut : Option HbRecord
  lockAt : Time
  /-- last valid record of each path: its instant, its SEQ, the consecutive valid records since a loss, and the loss of path 1 (R260) -/
  p1At : Time
  p2At : Time
  p1Seq : Option (BitVec 16)
  p2Seq : Option (BitVec 16)
  p1Run : Nat
  p2Run : Nat
  p1Lost : Option Time
  partner : Option HbRecord
  /-- ILK_IN released since (R262) -/
  relSince : Option Time
  /-- the instant at which ILK_IN last turned bad or good, and the last line fault of ILK_OUT (R261) -/
  lineAt : Time
  outAt : Time
  claim : Option (ClaimKind × Time)
  /-- an arbitration episode: the MODE that it began with and its start, the level of ARB_REQ_N (true: driven low), and whether a further
  request is barred (R266, R267) -/
  arb : Option (Nat × Time)
  arbReq : Bool
  arbBarred : Bool
  granted : Bool
  resync : Option Resync
  /-- this unit is the target of a resync that began then, with its timeout in ms -/
  target : Option (Time × Nat)
  /-- this unit requests resync, and RSTMO when it did -/
  wantResync : Bool
  reqTmo : Nat
  dirty : List Nat
  /-- the HANDOVER notice: sent at, acknowledged (R271); on the standby, the active unit's departure is announced -/
  handover : Option Time
  handoverAck : Bool
  announced : Bool
  quiet : Option Time
  /-- the legacy mode's beginning with its timeout in ms, and the last completed cycle number and the next release instant of its hand-over
  record (R280) -/
  legacy : Option (Time × Nat)
  lgcCycle : Nat
  lgcNext : Option Time
  report : Option (Time × List RingReport)
  /-- the partner's running build, and the engines that it has mapped, once it has told them -/
  pbuild : Long
  pmap : Option (BitVec 16)
  /-- ns by which TB of the standby is still to be advanced or, below 0, held back toward the active unit's (R256) -/
  steer : Int
  /-- the CRC of the package that the partner holds staged (R212) -/
  pstgCrc : Word
  /-- the partner ledger buffer (R250); true: an entry of the activation whose TOKEN still waits -/
  ledger : List (Bool × Ledger)
  /-- forwarded writes that wait for their scan: task, register, value and scan number (R255) -/
  staged : List (Fin 32 × Nat × Word × Word)
deriving DecidableEq, Repr

/-! ### Faults -/

/-- The fault manager beside its registers: the log of 64 records of four words, the queues of requests (R289), the field entries of
the defect map with those whose write is still to begin (R304), scrub findings of the last sweep by word address and bit (R302),
poisoned words by number (R303), rows replaced by array, and the promise's start (FLT_PROMISE). -/
structure Flt where
  log : Vector (Vector Word 4) 64
  execQ : List ErrReq
  commQ : List ErrReq
  sysQ : List ErrReq
  fuses : List Long
  field : List (Nat × Long)
  pendMap : List Long
  dmFullRaised : Bool
  seen : List (Nat × Nat)
  found : List (Nat × Nat)
  poison : List Nat
  rows : List (Nat × Nat × Nat)
  badSpares : List (Nat × Nat)
  rotOn : Bool
  spareOn : Bool
  scrubOn : Bool
  sweeping : Bool
  scrubPos : Nat
  checks : List Nat
  live : Bool
deriving DecidableEq, Repr

/-- A post in the recorder's feed (R355). -/
structure Post where
  code : Nat
  value : Word
  stamp : Time
deriving DecidableEq, Repr

/-! ### Event recorder -/

/-- An open record (R357): the accumulated values of its type, and what its close waits for. -/
structure RecOpen where
  code : Nat
  tbOpen : Nat
  posts : Nat
  count : Nat
  last : Word
  bins : Vector Nat 16
  min : Word
  max : Word
  tbMin : Time
  tbMax : Time
  sat : Bool
  memErr : Bool
  /-- the early close requested: REASON and instant (R359) -/
  early : Option (Nat × Nat)
  /-- the close that waits: REASON, EARLY, and whether a full queue deferred it (R360) or NEXTSEQ is not yet known (R365) -/
  deferred : Option (Nat × Bool × Bool)
deriving DecidableEq, Repr

/-- A queued record: its sixteen words (Table 13.5), and which of its writes are complete (R363, R364): its Carousel sector as a whole or
in part, and the keep area. -/
structure RecQ where
  seq : Nat
  words : List Word
  inCar : Bool
  part : Bool
  inKeep : Bool
deriving DecidableEq, Repr

/-- The recorder beside its registers: feed, open records, last close and last early close by code, open duration spans, edges of
the value histograms, record queue, drain in progress (true: a partial sector too), whether the
sector write has failed once, the next periodic drain, the drain period in force, a fetch and a COMMISSION in progress, whether the keep area
is complete, the records of the Carousel by their slot of the eMMC (R363), the epoch, the tail to restore (R368), and the code-table entries that
were wiped, as they were (R372). -/
structure Rec where
  feed : List Post
  opens : List RecOpen
  closedAt : List (Nat × Nat)
  earlyAt : List (Nat × Nat)
  spans : List (Nat × Time)
  hist : List (Nat × Word × Word)
  queue : List RecQ
  drain : Option Bool
  retried : Bool
  drainAt : Time
  period : Nat
  known : Bool
  stopping : Bool
  stopped : Bool
  fetching : Bool
  comm : Option Time
  keepClosed : Bool
  carousel : List (Nat × List Word)
  epoch : Nat
  tail : Option (List (List Word))
  gone : List (Nat × Nat)
deriving DecidableEq, Repr

/-! ### Turnstile -/

/-- The requesters of Table 18.3. -/
inductive Asker where
  | le (e : Fin 16)
  | shadow
  | olc
  | store
  | xspi
  | recorder
  | update
  | spare (p : Fin 18)
  | core (m : Fin 2)
  | mimic
  | ring (r : Fin 4)
  | link
  | repair
deriving DecidableEq, Repr

/-- A request for admission, with the instant at which it joined the queue, or an admitted operation, with that of its admission (R445). -/
structure Admission where
  cls : Nat
  who : Asker
  admitted : Bool
  since : Time
deriving DecidableEq, Repr

/-! ### Parameter store -/

/-- A record command that waits for its grant or runs (R383): its code, record, data address and agent. -/
structure NvsJob where
  cmd : Nat
  record : Nat
  addr : Nat
  agent : AgentId
deriving DecidableEq, Repr

/-- The parameter store beside its registers and its window: the record table in force (R378), the record command in hand, worn
counters (R385), unlocked accesses as agent, partition and kind (R390), wrong entries by partition (R391), the areas being erased, in order, each
as the window offset of its next unit and the units left (R371, R388), the cells that read with an uncorrectable error and those whose writes
fail (R375), and the cell, old content and instant of the last increment (R386). -/
structure Nvs where
  recTab : List (Nat × Nat × Nat)
  job : Option NvsJob
  worn : List Nat
  unlocked : List (Nat × Nat × Bool)
  fails : Vector Nat 5
  erasing : List (Nat × Nat)
  bad : List Nat
  stuck : List Nat
  inc : Option (Nat × Nat × Time)
deriving DecidableEq, Repr

/-- The power feed supervisor beside its registers: the domains (VCORE, VIO, VSD) that have left the preferred feed (R440), the instant at
which each feed was declared good, since power-good where none, differences above 30 mV in a row (R441), the begin of the power-fail
flush since power-good (R452), PWR_WAKEEN and the ring that stays awake (R241) as taken at the entry to INTERMISSION, and the wake of this
episode (R450). -/
structure Pwr where
  left : Vector Bool 3
  goodAt : Vector Time 2
  diffs : Nat
  flush : Option Time
  wakeEn : Nat
  kept : Option (Fin 4)
  wake : Option (Fin 5)
deriving DecidableEq, Repr

/-! ### Protection guard -/

/-- The guard beside its registers: the TB seconds with refusals whose fault is still to come (R475), the banks per agent of GRD_RADDR, GRD_AGD (by 8
× agent + k)
and GRD_CMDSTAT (R478), the record, digest, instant and classes of the pending proposal or of the grant in force, the agreement
list of the image (R476), the end of the debug unlock, and the agreed key records that wait for their slots (R479). -/
structure Grd where
  refused : List Nat
  raddr : List (Nat × Word)
  agd : List (Nat × Word)
  cmdstat : List (Nat × Word)
  record : List Byte
  since : Time
  agreer : Nat
  agree : List (List Byte)
  dbgUntil : Option Time
  keyJobs : List (List Byte)
deriving DecidableEq, Repr

/-! ### Mailboxes -/

/-- An entry of a pointer channel (R339). -/
structure ChEntry where
  word : Word
  agent : Nat
  seq : BitVec 8
deriving DecidableEq, Repr

/-- What the host writes in the configuration space of the endpoint (R330): Command, the function mask of MSI-X, Cache Line Size, Interrupt Line, the
base address registers, whether the function is in D3hot, Device Control and Link Control of the PCI Express capability, and the registers of
Advanced Error Reporting by number, where they differ from their reset values. -/
structure Pci where
  command : BitVec 16
  fmask : Bool
  cacheLine : Byte
  line : Byte
  bar0 : Word
  bar2 : Word
  bar3 : Word
  d3hot : Bool
  devCtl : BitVec 16
  linkCtl : BitVec 16
  aer : List (Nat × Word)
deriving DecidableEq, Repr

/-- The mailboxes and the endpoint beside their registers: the queues of the pointer channels and their next SEQ, the MSI-X vectors whose table
entry is masked, whether MSI-X is enabled, the pending bits, address and data words of the MSI-X table by their
number (three to an entry), the configuration space, and the messages sent, latest first (R338). -/
structure Mbx where
  queues : Vector (List ChEntry) 28
  next : Vector (BitVec 8) 28
  vecMask : Word
  msixOn : Bool
  pba : Word
  table : List (Nat × Word)
  pci : Pci
  sent : List (Fin 32)
deriving DecidableEq, Repr

/-! ### Real-time clock and watchdog -/

/-- The clock of the backup domain (R394 to R400): seconds since 2000-01-01, weekday, the count of PRE at an instant of TB, the
slots of the trim window that have ended, WDAYEN of the armed commit, the brown-out latch, VBATLOW reported since LOAD (R404), and
the PPS discipline: last accepted edge, the instant of EN where none has been accepted since, and consecutive close edges (R405). -/
structure Rtc where
  secs : Nat
  wday : Nat
  pre : Int
  preAt : Time
  slot : Nat
  wdayEn : Bool
  latch : Bool
  vbatSaid : Bool
  ppsAt : Option Time
  ppsOn : Option Time
  ppsRun : Nat
  /-- ns by which TB is still to be advanced or, below 0, held back toward ERR = 0, and the ticks and the changes of the million ticks in
  progress (R405) -/
  slew : Int
  ticks : Nat
  slews : Nat
deriving DecidableEq, Repr

/-- The watchdog beside its registers: the period in progress by its start and length in ns, what remained of it when a debug halt froze it, the key sequence of
R414 by its step, instant and agent, a reset that waits for an erase unit (R413), and the QBIT in force (R406). -/
structure Wdg where
  period : Option (Time × Nat)
  frozen : Option Nat
  key : Option (Nat × Time × AgentId)
  due : Bool
  qbit : Nat
deriving DecidableEq, Repr

/-! ### CAN -/

/-- A CAN controller beside its registers and message objects: whether it takes part on the bus since it left CONFIG (R312), the object of the
attempt in progress, a TXABORT or a DISABLE that waits for that attempt's end (R317, R324), also for a memory error of its object (R329), and since
the entry to bus-off, whether the
count is complete and whether RECOVER has been accepted (R327). -/
structure Can where
  joined : Bool
  /-- the OPMODE that waits comes from the image, and waits for STOP (R313) -/
  boot : Bool
  attempt : Option Nat
  abort : Bool
  disable : Bool
  memErr : Bool
  counted : Bool
  permit : Bool
deriving DecidableEq, Repr

/-! ### Sideshow -/

/-- An overlay command (R426): its TAG and rectangle, the source of a copy or the colour, how far it is: queued, started, staged, or in the batch of
the last frame boundary (R427, R428); and where its pixels begin in the staging area, in units of 8 bytes, and how many bytes are staged. -/
structure MimCmd where
  tag : Nat
  copy : Bool
  x : Nat
  y : Nat
  w : Nat
  h : Nat
  src : Word
  stride : Nat
  step : Nat
  place : Nat
  done : Nat
deriving DecidableEq, Repr

/-- What a frame-fill request of the mimic engine is for (R428, R466). -/
inductive MimAsk where
  | staging
  | batch
  | tables
deriving DecidableEq, Repr

/-- The mimic engine beside its registers and memories: the overlay queue, what its frame-fill request is for, the commands of the last batch, whose
places hold the pixels it replaced, where the next command's pixels go, the portions of asset tables that are staged, the appearance index of each
tile and the blink phase in this frame and in the one before, whether the tables were exchanged at the boundary before this frame, the first
frame since EN was set, the start of the frame, none while no frame runs, and the rows of it already driven, failed sensor readings in a row, the
contrast code in force and the last contrast write as address, register and code (R432), the crack loop's register and its steps in error in a
row. -/
structure Mim where
  queue : List MimCmd
  asked : Option MimAsk
  old : List MimCmd
  head : Nat
  portion : Nat
  shown : List Nat
  prev : List Nat
  dark : Bool
  prevDark : Bool
  swapped : Bool
  first : Bool
  frameAt : Option Nat
  rows : Nat
  fails : Nat
  code : Nat
  contrast : Option (Nat × Nat × Nat)
  lfsr : BitVec 15
  cracked : Nat
deriving DecidableEq, Repr

/-- The levels of ROW_CLK, ROW_START and ROW_OE (R419). -/
structure RowPins where
  clk : Bool
  start : Bool
  oe : Bool
deriving DecidableEq, Repr

/-! ### Update engine -/

/-- A WRITE in progress (R461): its kind, a package that is still to be read from the eMMC as its sectors hold it, with the LAYOUT of its image
where that is known, and once the package has been checked the bank, the image and the bursts done. -/
structure UpdJob where
  kind : Nat
  read : Option (List Byte × Option (List BankPlace))
  bank : Nat
  image : List Byte
  burst : Nat
deriving DecidableEq, Repr

/-- The update engine beside its registers and record 3: the WRITE in progress; the digest of each staged bank as
written; the armed kind and instant, whether it is a live switch, and whether its preload is complete; an activation (4) or a revert (6) that is
being carried out; the wait for CORE_OK since an instant (R467); the
rings that are still to switch (R466); the asset tables on their way (1 to be preloaded, 2 preloaded, 3 due at the next frame boundary,
4 in its batch, 5 to be restaged), the tables in staging, and those of the asset image in use; the identifiers that have agreed (R464), and whether
they were enough since ARM; the kind that turns to its other half; the end of the confirm window; the kinds whose
PENDING bank was taken at LOAD; the firmware area of each core; the images in the halves of the control stores, by 2 × kind + half, and the half that
each ring's sequencers and each ring and, last, the sync link run from (R466); under 8 stands the asset image that an exchange has replaced. -/
structure Upd where
  job : Option UpdJob
  digests : List (Nat × List Byte)
  armed : Option (Nat × Time)
  live : Bool
  ready : Bool
  phase : Nat
  waitOk : Option Time
  rings : BitVec 4
  assets : Nat
  tables : List Byte
  assetsNow : List Byte
  agreers : List (BitVec 29)
  agreed : Bool
  turning : Nat
  window : Option Time
  loaded : List Nat
  areas : Vector (Fin 2) 2
  stores : List (Nat × List Byte)
  seqHalf : BitVec 4
  linkHalf : BitVec 5
deriving DecidableEq, Repr


/-! ### The block -/

/-- The completion of an agent's last access (R24): the value read and whether it ended with an error response. -/
structure Resp where
  data : List Byte
  error : Bool
deriving DecidableEq, Repr

/-- Whether the chip is held: halted after a power-fail flush (R455), in power-on reset until the next power-good (R490), or in it while RST_N is
low (R491). -/
inductive Held where
  | no
  | flushed
  | power
  | pin
deriving DecidableEq, Repr

/-- The converted configuration image on its way into the other bank (R45, R46): that bank, the image with its header, and the bursts
that are done; the first of them erases the bank. -/
structure Conv where
  bank : Nat
  image : List Byte
  bursts : Nat
deriving DecidableEq, Repr

/-- The mode controller beside its registers. -/
structure Sys where
  held : Held
  /-- FENCE_N has been asserted during LOAD (R34) -/
  fenceSeen : Bool
  /-- the converted image, until its header is written (R46) -/
  conv : Option Conv
  /-- entry to STOP, for R501 -/
  stopAt : Time
  /-- SAFE-HOLD was entered, also, through a UNIT fault (R29) -/
  unitHold : Bool
  /-- the boot ROM has run since the reset -/
  booted : Bool
  /-- a UNIT fault ended LOAD, or no image was found: only a reset leaves (R35, R41) -/
  loadHalt : Bool
  /-- START of the image waits for the rings (R501) -/
  start : Option Nat
  /-- the restart in progress waits for its claim (R37): true for WARM, with the REASON of its entry to RUN -/
  runReq : Option (Bool × Nat)
  /-- a COLD initialisation or a WARM restore has taken place since LOAD (R50) -/
  inited : Bool
  /-- RUN was entered by a WARM restart (Table 3.6) -/
  warm : Bool
  /-- the start-up task that holds every other release (R133) -/
  startup : Option (Fin 32)
  /-- STOP is being entered for a HANDOVER (R271) -/
  handing : Bool
  /-- anchor A is fixed (R127) -/
  anchored : Bool
  /-- the mode-change line 41 (R92) -/
  modeLine : Bool
  /-- SCN_PACECFG before its last write, and the instant of that write: the old value governs the window in which it fell (SCN_PACECFG) -/
  paceOld : Word
  paceAt : Time
  /-- the task whose protected storage the shadow unit copies in its warm-up (R186) -/
  copying : Option (Fin 32)
deriving DecidableEq, Repr

/-- The running configuration image: its sections and the header fields that act after LOAD. -/
structure Image where
  sec : Sections
  start : Nat
  rebase : Bool
  paired : Bool
  digest : Long
deriving DecidableEq, Repr

/-- The image stores: working words, the last valid inputs received from each station, the latest complete cycle with substitutes and
forces, transmit image and the values actually sent. Bit images are kept as words of 32 bits, numbered from 0 in the I and the Q area. -/
structure Img where
  wI : List (Nat × Word)
  wQ : List (Nat × Word)
  curB : List (Nat × Word)
  curW : List (Nat × Word)
  rxB : List (Nat × Word)
  rxW : List (Nat × Word)
  txB : List (Nat × Word)
  txW : List (Nat × Word)
  outB : List (Nat × Word)
  outW : List (Nat × Word)
  /-- the I bits at the end of the last I/O cycle, against which the sources of event tasks are detected (R132) -/
  lastB : List (Nat × Word)
  /-- the fixed phases of scans, by task and phase, in order of request; phase 6 stands for the HOUSEKEEP of a scan whose next one has begun
  (R130, R137) -/
  queue : List (Fin 32 × Nat)
deriving DecidableEq, Repr

/-- Input pins as filtered, and straps; the boot ROM's first access to the xSPI device, and whether the eMMC has been used since the reset
(R493). -/
structure Pins where
  fence : Bool
  testen : Bool
  pfailLow : Bool
  refclk : Bool
  pairId : Bool
  partnerClaims : Bool
  xspiAt : Option Time
  emmcUsed : Bool
deriving DecidableEq, Repr

/-- Everything but the queue of waiting commands. `idcode` is the IEEE 1149.1 IDCODE, whose bits [31:28] read 0x1 (R2); its other bits,
which the spec does not give, are DESIGN CHOICE, log entry 91. -/
structure Chip where
  tb : Time
  idcode : Word
  regs : List (Nat × Word)
  staged : List (Nat × Word)
  mem : List Host.Cell
  sys : Sys
  image : Option Image
  img : Img
  tasks : Vector Task 32
  engs : Vector Eng 16
  phys : Vector Phys 18
  cores : Vector Core 2
  rings : Vector Ring 4
  hsb : Hsb
  olc : Olc
  flt : Flt
  pins : Pins
  resp : Resp
  free : Nat
  rcd : Rec
  turn : List Admission
  grd : Grd
  mbx : Mbx
  rtc : Rtc
  wdg : Wdg
  nvs : Nvs
  cans : Vector Can 4
  mim : Mim
  pwr : Pwr
  upd : Upd
deriving DecidableEq, Repr

/-- The state: the chip, and the commands that wait, first in first out. -/
structure State where
  chip : Chip
  pending : List Instr
deriving DecidableEq, Repr

/-! ### Reset -/

/-- A context of zeros (R54; DESIGN CHOICE, log entry 1: the spec gives no value before a task starts). -/
def Ctx.zero : Ctx := ⟨0, 0, 0, 0, false, 0, 0, 0, 0, 0, 0, 0, 0⟩

/-- A task slot without activation. -/
def Task.zero : Task :=
  { live := false, begun := false, old := Option.none, oldB := [], oldW := [], oldRel := 0, oldPace := false, ctx := Ctx.zero, sctx := Ctx.zero,
    depth := 0, sdepth := 0, base := 0, sbase := 0, steps := 0, paired := false, warm := false,
    warmLeft := none, ts := 0, ledgUsed := 0, ledgPos := 0, mm := 0, reexec := false, ended := Abn.none, frozenB := [], frozenW := [],
    lastRel := none, fired := false, delayed := false, lateDue := none, first := false, overrun := false, pace := false, paceTS := false,
    inBlock := false, admitted := false, waiting := false, resumed := false, hits := 0, serves := none, outDone := false, hashes := [],
      partnerHash := [], endmk := [], ends := [],
    token := none, inpart := none, holdOff := 0, drops := Vector.replicate 4 0 }

/-- An idle logical engine. -/
def Eng.zero : Eng :=
  { run := none, mismatch := none, mmGone := none, remap := none, halted := false, step := none, below := 0, above := 0, low := 0, notLow := 0,
    segs := none, freshPace := true, freshSlack := true, paceEnd := 0, slackEnd := 0, slackOk := true }

/-- A core after its reset (R88); its context is DESIGN CHOICE, log entry 1. -/
def Core.zero : Core :=
  { ctx := Ctx.zero, stack := [], mst := 0, vb := 0, ien := 0, inBlock := false, waiting := false,
    stopped := false, halted := false, step := false, retest := false }

/-- A ring in DOWN. -/
def Ring.zero : Ring :=
  { cyc := none, lastCyc := 0, ready := false, enumerated := false, lostAt := 0, lnk := 0, wraps := [], joined := 0,
    rejoin := Vector.replicate 32 0, prep := 0, constFor := Vector.replicate 64 0, leader := Vector.replicate 64 false,
    acq := [], sent := [], ioq := [] }

/-- The hot-standby controller after reset. -/
def Hsb.zero : Hsb :=
  { replay := [], outq := [], fseq := 0, rseq := 0, hbSeq := 0, hbOut := none, lockAt := 0, p1At := 0, p2At := 0, p1Seq := none, p2Seq := none,
    p1Run := 0, p2Run := 0, p1Lost := none, partner := none, relSince := none, lineAt := 0, outAt := 0, claim := none, arb := none,
      arbReq := false, arbBarred := false, granted := false,
    resync := none, target := none, wantResync := false, reqTmo := 0, dirty := [], handover := none, handoverAck := false,
    announced := false, quiet := none, legacy := none, lgcCycle := 0, lgcNext := none, report := none, pbuild := 0, pmap := none, steer := 0,
      pstgCrc := 0, ledger := [], staged := [] }

/-- The online change controller after reset. -/
def Olc.zero : Olc :=
  { syms := [], forces := [], pkg := none, pkgTask := 0, chgMask := 0, pkgDigest := 0, pkgCrc := 0, portions := 0, buf := [], pivot := 0,
    actScan := 0, fwd := none, hold := false,
    holdAt := 0, discs := [],
    digest := 0, showId := false, showLo := false, showHi := false }

/-- The fault manager after reset. -/
def Flt.zero : Flt :=
  { log := Vector.replicate 64 (Vector.replicate 4 0), execQ := [], commQ := [], sysQ := [], fuses := [], field := [],
    pendMap := [], dmFullRaised := false, seen := [], found := [], poison := [], rows := [], badSpares := [], rotOn := true, spareOn := true,
    scrubOn := true, sweeping := false, scrubPos := 0, checks := [], live := false }

/-- The recorder after reset. -/
def Rec.zero : Rec :=
  { feed := [], opens := [], closedAt := [], earlyAt := [], spans := [], hist := [], queue := [], drain := none,
    retried := false, drainAt := 0, period := 10, known := false, stopping := false, stopped := false, fetching := false,
    comm := none, keepClosed := false, carousel := [], epoch := 0, tail := none, gone := [] }

/-- The guard after reset. -/
def Grd.zero : Grd := ⟨[], [], [], [], [], 0, 0, [], none, []⟩
/-- The configuration space after a fundamental or hot reset (R331). -/
def Pci.zero : Pci := ⟨0, false, 0, 0, 0, 0, 0, false, 0x2810, 0, []⟩
/-- The mailboxes after reset: every MSI-X vector masked and MSI-X disabled. -/
def Mbx.zero : Mbx := ⟨Vector.replicate 28 [], Vector.replicate 28 0, 0xFFFFFFFF, false, 0, [], Pci.zero, []⟩
/-- The clock of a part whose backup domain has never been supplied (R403): its latch is set. -/
def Rtc.zero : Rtc := ⟨0, 0, 0, 0, 512, false, true, false, none, none, 0, 0, 0, 0⟩
/-- The watchdog after reset: not counting. -/
def Wdg.zero : Wdg := ⟨none, none, none, false, 0⟩

/-- The parameter store of a part as delivered. -/
def Nvs.zero : Nvs := ⟨[], none, [], [], Vector.replicate 5 0, [], [], [], none⟩
/-- A CAN controller in CONFIG. -/
def Can.zero : Can := ⟨false, false, none, false, false, false, false, false⟩
/-- The mimic engine after reset; the seed of the crack loop is DESIGN CHOICE, log entry 20. -/
def Mim.zero : Mim :=
  { queue := [], asked := none, old := [], head := 0, portion := 0, shown := [], prev := [], dark := false, prevDark := false, swapped := false,
    first := true, frameAt := none, rows := 0, fails := 0, code := 0, contrast := none, lfsr := 0x7FFF, cracked := 0 }
/-- The feed supervisor after reset: every domain draws from feed A, and both feeds are good. -/
def Pwr.zero : Pwr := ⟨Vector.replicate 3 false, Vector.replicate 2 0, 0, none, 0, none, none⟩
/-- The update engine after reset. -/
def Upd.zero : Upd :=
  { job := none, digests := [], armed := none, live := false, ready := false, phase := 0, waitOk := none, rings := 0, assets := 0, tables := [],
    assetsNow := [], agreers := [], agreed := false, turning := 0, window := none, loaded := [], areas := Vector.replicate 2 0, stores := [], seqHalf := 0,
    linkHalf := 0 }

/-- The chip right after power-on reset (R38), before the boot ROM runs: every register at its reset value. -/
def Chip.reset : Chip :=
  { tb := 0,
    idcode := 0x10000000,
    regs := [],
    staged := [],
    mem := [],
    sys := { held := .no, fenceSeen := false, conv := none, stopAt := 0, unitHold := false, booted := false, loadHalt := false, start := none,
             runReq := none, inited := false, warm := false, startup := none, handing := false, anchored := false, modeLine := false,
             paceOld := 0x00100348, paceAt := 0, copying := none },
    image := none,
    img := ⟨[], [], [], [], [], [], [], [], [], [], [], []⟩,
    tasks := Vector.replicate 32 Task.zero,
    engs := Vector.replicate 16 Eng.zero,
    phys := Vector.replicate 18 ⟨[], [], []⟩,
    cores := Vector.replicate 2 Core.zero,
    rings := Vector.replicate 4 Ring.zero,
    hsb := Hsb.zero,
    olc := Olc.zero,
    flt := Flt.zero,
    pins := { fence := false, testen := false, pfailLow := false, refclk := true, pairId := false, partnerClaims := false,
              xspiAt := none, emmcUsed := false },
    resp := ⟨[], false⟩,
    free := 0,
    rcd := Rec.zero,
    turn := [],
    grd := Grd.zero,
    mbx := Mbx.zero,
    rtc := Rtc.zero,
    wdg := Wdg.zero,
    nvs := Nvs.zero,
    cans := Vector.replicate 4 Can.zero,
    mim := Mim.zero,
    pwr := Pwr.zero,
    upd := Upd.zero }

/-- The machine right after reset: nothing waits. -/
def State.reset : State := ⟨Chip.reset, []⟩

end Sys2Proof.Machine
end

