-- ==== Sys2Proof/Machine/Ops.lean ====
section
/-! DEFINITION. The named operations over registers, memory, time and the per-task, per-engine and per-ring structures, on which
every command is built. -/

namespace Sys2Proof.Machine

/-- A command's outcome when its effect is a function of the chip; the queue is left alone. -/
def State.onHeld (s : State) (f : Chip → Chip) : Host.Outcome State Fault Refusal := .next { s with chip := f s.chip }
/-- The outcome of a command that does nothing while the chip is held (R455, R490). -/
def State.on (s : State) (f : Chip → Chip) : Host.Outcome State Fault Refusal :=
  s.onHeld fun c => if c.sys.held = .no then f c else c

/-! ### Control registers -/

/-- The width of a field. -/
def Fld.width (f : Fld) : Nat := f.hi - f.lo + 1
/-- The field's value in a word. -/
def Fld.of (f : Fld) (w : Word) : Nat := w.toNat / 2 ^ f.lo % 2 ^ f.width
/-- The word with the field replaced. -/
def Fld.ins (f : Fld) (w : Word) (v : Nat) : Word :=
  let m : Word := BitVec.ofNat 32 ((2 ^ f.width - 1) * 2 ^ f.lo)
  (w &&& ~~~m) ||| BitVec.ofNat 32 (v % 2 ^ f.width * 2 ^ f.lo)

/-- The current value of the register at an address. -/
def Chip.rd (c : Chip) (a : Nat) : Word := spGet (regReset a) c.regs a
/-- Hardware writes the register at an address. -/
def Chip.wr (c : Chip) (a : Nat) (w : Word) : Chip := { c with regs := spSet (regReset a) a w c.regs }
/-- A field's current value. -/
def Chip.get (c : Chip) (f : Fld) : Nat := f.of (c.rd f.addr)
/-- Hardware writes a field. -/
def Chip.put (c : Chip) (f : Fld) (v : Nat) : Chip := c.wr f.addr (f.ins (c.rd f.addr) v)
/-- A one-bit field. -/
def Chip.flag (c : Chip) (f : Fld) : Bool := c.get f != 0
/-- Hardware writes a one-bit field. -/
def Chip.putB (c : Chip) (f : Fld) (b : Bool) : Chip := c.put f b.toNat
/-- Hardware sets a one-bit field. -/
def Chip.set1 (c : Chip) (f : Fld) : Chip := c.put f 1
/-- Hardware clears a field. -/
def Chip.clr (c : Chip) (f : Fld) : Chip := c.put f 0
/-- Hardware sets bit `i` of a field. -/
def Chip.setBit (c : Chip) (f : Fld) (i : Nat) : Chip := c.put f (c.get f ||| 2 ^ i)
/-- Hardware clears bit `i` of a field. -/
def Chip.clrBit (c : Chip) (f : Fld) (i : Nat) : Chip := c.put f (c.get f - (if (c.get f).testBit i then 2 ^ i else 0))
/-- Bit `i` of a field. -/
def Chip.bitOf (c : Chip) (f : Fld) (i : Nat) : Bool := (c.get f).testBit i
/-- A counter that saturates at the field's top. -/
def Chip.incSat (c : Chip) (f : Fld) (n : Nat := 1) : Chip := c.put f (min (c.get f + n) (2 ^ f.width - 1))
/-- A counter that wraps. -/
def Chip.incWrap (c : Chip) (f : Fld) (n : Nat := 1) : Chip := c.put f (c.get f + n)
/-- Apply a change when a condition holds. -/
def Chip.doIf (c : Chip) (b : Bool) (f : Chip → Chip) : Chip := if b then f c else c

/-! ### Time and free values -/

/-- A timed event takes place at `now`: TB has reached that instant (R19). TB never goes back, and stands while REFCLK does. -/
def Chip.arrive (c : Chip) (now : Time) : Chip := if c.pins.refclk && c.tb.toNat < now.toNat then { c with tb := now } else c
/-- TB in nanoseconds. -/
def Chip.t (c : Chip) : Nat := c.tb.toNat
/-- A fresh unstated word. -/
def Chip.freeW (c : Chip) : Word × Chip := (Config.freeWord c.free, { c with free := c.free + 1 })

/-! ### Tasks, engines, cores, rings -/

/-- Task slot `t`. -/
def Chip.task (c : Chip) (t : Fin 32) : Task := c.tasks[t]
/-- Change task slot `t`. -/
def Chip.modTask (c : Chip) (t : Fin 32) (f : Task → Task) : Chip := { c with tasks := c.tasks.set t (f c.tasks[t]) }
/-- Logical engine `e`. -/
def Chip.eng (c : Chip) (e : Fin 16) : Eng := c.engs[e]
/-- Change logical engine `e`. -/
def Chip.modEng (c : Chip) (e : Fin 16) (f : Eng → Eng) : Chip := { c with engs := c.engs.set e (f c.engs[e]) }
/-- Physical engine `p`. -/
def Chip.ph (c : Chip) (p : Fin 18) : Phys := c.phys[p]
/-- Change physical engine `p`. -/
def Chip.modPh (c : Chip) (p : Fin 18) (f : Phys → Phys) : Chip := { c with phys := c.phys.set p (f c.phys[p]) }
/-- Core `m`. -/
def Chip.core (c : Chip) (m : Fin 2) : Core := c.cores[m]
/-- Change core `m`. -/
def Chip.modCore (c : Chip) (m : Fin 2) (f : Core → Core) : Chip := { c with cores := c.cores.set m (f c.cores[m]) }
/-- Ring `r`. -/
def Chip.ring (c : Chip) (r : Fin 4) : Ring := c.rings[r]
/-- Change ring `r`. -/
def Chip.modRing (c : Chip) (r : Fin 4) (f : Ring → Ring) : Chip := { c with rings := c.rings.set r (f c.rings[r]) }
/-- Change the hot-standby controller. -/
def Chip.modHsb (c : Chip) (f : Hsb → Hsb) : Chip := { c with hsb := f c.hsb }
/-- Change the online change controller. -/
def Chip.modOlc (c : Chip) (f : Olc → Olc) : Chip := { c with olc := f c.olc }
/-- Change the fault manager. -/
def Chip.modFlt (c : Chip) (f : Flt → Flt) : Chip := { c with flt := f c.flt }
/-- Change the mode controller. -/
def Chip.modSys (c : Chip) (f : Sys → Sys) : Chip := { c with sys := f c.sys }
/-- Change the image stores. -/
def Chip.modImg (c : Chip) (f : Img → Img) : Chip := { c with img := f c.img }

/-- Apply a change for every index in turn. -/
def Chip.forFin (c : Chip) (n : Nat) (f : Fin n → Chip → Chip) : Chip := (List.finRange n).foldl (fun c i => f i c) c
/-- Apply a change for every element of a list in turn. -/
def Chip.forIn {α : Type} (c : Chip) (l : List α) (f : α → Chip → Chip) : Chip := l.foldl (fun c a => f a c) c

/-! ### Modes and task descriptors -/

/-- The codes of Table 2.1. -/
def mLOAD : Nat := 1
def mSTOP : Nat := 2
def mRUN : Nat := 3
def mFOLLOW : Nat := 4
def mSAFE : Nat := 5
def mINTER : Nat := 6

/-- The mode in force. -/
def Chip.mode (c : Chip) : Nat := c.get SYS_MODE.MODE
/-- The power-fail flush has begun (R453). -/
def Chip.flushing (c : Chip) : Bool := c.pwr.flush.isSome
/-- The scan engines run: RUN or FOLLOW is in force, and no power-fail flush has stopped them. -/
def Chip.scanning (c : Chip) : Bool := (c.mode == mRUN || c.mode == mFOLLOW) && !c.flushing

/-- Task kinds (SCN_TCFG). -/
def kCYC : Nat := 1
def kEVT : Nat := 2
def kERR : Nat := 3
def kSTART : Nat := 4

/-- The kind of task `t`. -/
def Chip.kind (c : Chip) (t : Fin 32) : Nat := c.get (SCN_TCFG.KIND t)
/-- The logical engine of task `t`. -/
def Chip.leOf (c : Chip) (t : Fin 32) : Fin 16 := Fin.ofNat 16 (c.get (SCN_TCFG.LE t))
/-- The physical engine that carries `e`, if it is mapped (R26). -/
def Chip.physOf (c : Chip) (e : Fin 16) : Option (Fin 18) :=
  if c.flag (SYS_LEMAP.VALID e) then some (Fin.ofNat 18 (c.get (SYS_LEMAP.PHYS e))) else none
/-- Release phase of a task (SCN_TSTAT.PHASE). -/
def Chip.phase (c : Chip) (t : Fin 32) : Nat := c.get (SCN_TSTAT.PHASE t)
/-- Station `s` of ring `r` is in the partition of task `t` (R135). -/
def Chip.inPart (c : Chip) (t : Fin 32) (r : Fin 4) (s : Nat) : Bool :=
  c.kind t == kCYC && (match r.val with
    | 0 => c.bitOf (SCN_TPART0.STN t) s
    | 1 => c.bitOf (SCN_TPART1.STN t) s
    | 2 => c.bitOf (SCN_TPART2.STN t) s
    | _ => c.bitOf (SCN_TPART3.STN t) s)
/-- The station index `k = 32 r + s` (R134) is in the partition of task `t`. -/
def Chip.inPartK (c : Chip) (t : Fin 32) (k : Nat) : Bool := k < 128 && c.inPart t (Fin.ofNat 4 (k / 32)) (k % 32)
/-- The station indices of the partition of `t`, ascending. -/
def Chip.part (c : Chip) (t : Fin 32) : List Nat := (List.range 128).filter (c.inPartK t)
/-- The cyclic task whose partition holds station index `k` (R135). -/
def Chip.ownerOf (c : Chip) (k : Nat) : Option (Fin 32) := (List.finRange 32).find? fun t => c.inPartK t k
/-- The configured tasks. -/
def Chip.configured (c : Chip) : List (Fin 32) := (List.finRange 32).filter fun t => c.kind t != 0
/-- The error task of a SUB code, if configured: 0 ERR_IO, 1 ERR_EXEC, 2 ERR_COMM, 3 ERR_SYS. -/
def Chip.errTask (c : Chip) (sub : Nat) : Option (Fin 32) :=
  (List.finRange 32).find? fun t => c.kind t == kERR && c.get (SCN_TCFG.SUB t) == sub

/-- A fixed phase of a scan is entered: it queues at the image stores in order of request, and what the scan has queued before is done or
withdrawn (R137). -/
def Chip.toPhase (c : Chip) (t : Fin 32) (n : Nat) : Chip :=
  (c.put (SCN_TSTAT.PHASE t) n).modImg fun m => { m with
    queue := m.queue.filter (fun q => !(q.1 == t && q.2 != 6)) ++ (if n = 1 || n = 3 || n = 4 || n = 5 then [(t, n)] else []) }

/-- A source of event tasks fires (Table 5.2): the tasks in RUN that name it are to take it up (R132, R133). -/
def Chip.srcFires (c : Chip) (src sel : Nat) : Chip :=
  if c.mode != mRUN || c.flushing || c.flag SYS_MODE.TRANS then c
  else c.forIn ((List.finRange 32).filter fun t => c.kind t == kEVT && c.get (SCN_TEVT.SRC t) == src && c.get (SCN_TEVT.SEL t) == sel) fun t c =>
    c.modTask t fun k => { k with hits := k.hits + 1 }

/-! ### Memory -/

/-- What an unlisted byte reads as: 0xFF in the xSPI window, where the device is erased, and 0 elsewhere (log entry 3). -/
def memDefault (a : Nat) : Byte := if 0x70000000 ≤ a && a < 0x90000000 then 0xFF else 0

/-- The canonical form of memory. -/
def Memory.wf (m : List Host.Cell) : Bool := spWf memDefault m

/-- Read a byte of the system address map. -/
def Chip.ldB (c : Chip) (a : Nat) : Byte := spGet (memDefault a) c.mem a
/-- Read `n` bytes, little-endian. -/
def Chip.ld (c : Chip) (a : Nat) : Nat → Nat
  | 0 => 0
  | n + 1 => (c.ldB a).toNat + 256 * c.ld (a + 1) n
/-- Read `n` bytes as a list. -/
def Chip.ldBytes (c : Chip) (a n : Nat) : List Byte := (List.range n).map fun i => c.ldB (a + i)

/-- Whether an address lies in the resync domain (Table 9.8). -/
def inDomain (a : Nat) : Bool :=
  (0x10000000 ≤ a && a < 0x10300000) || (0x20000000 ≤ a && a < 0x20600000) || (0x28000000 ≤ a && a < 0x28200000) ||
  (0x2C000000 ≤ a && a < 0x2C050000)

/-- A write sets its page's dirty bit in the same handshake (R275). -/
def Chip.mark (c : Chip) (a : Nat) : Chip :=
  if inDomain a && !c.hsb.dirty.contains (a / 4096) then c.modHsb fun h => { h with dirty := h.dirty ++ [a / 4096] } else c

/-- Where the image stores keep what no map address shows (Table 5.3 gives the range and names its contents in this order; the places are
DESIGN CHOICE, log entry 103): the inactive published copy, the working I and Q words, the receive image and the transmit image, each as its
bits and its words. -/
def imgInactive : Nat := 0x14000
def imgWorkI : Nat := 0x2C028000
def imgWorkQ : Nat := 0x2C030000
def imgRxBits : Nat := 0x2C038000
def imgRxWords : Nat := 0x2C03A000
def imgTxBits : Nat := 0x2C042000
def imgTxWords : Nat := 0x2C044000

/-- Words of an image store are written: `n` words from word `i` (R275). -/
def Chip.markWords (c : Chip) (base i n : Nat) : Chip := (c.mark (base + 4 * i)).mark (base + 4 * (i + n - 1))

/-- A full write ends the poison of the words of 8 bytes that it covers (R303). -/
def Chip.clean (c : Chip) (a n : Nat) : Chip :=
  if c.flt.poison.isEmpty then c else c.modFlt fun f => { f with poison := f.poison.filter fun w => !(a ≤ 8 * w && 8 * w + 8 ≤ a + n) }

/-- The words of a station in an image store, which start at the bases of its bits and its words, are written whole. -/
def Chip.cleanPart (c : Chip) (bits words k : Nat) : Chip := (c.clean (bits + 64 * k) 64).clean (words + 256 * k) 256

/-- Write a byte. -/
def Chip.stB (c : Chip) (a : Nat) (b : Byte) : Chip := { c.mark a with mem := spSet (memDefault a) a b c.mem }
/-- Write `n` bytes of a value, little-endian. -/
def Chip.st (c : Chip) (a : Nat) : Nat → Nat → Chip
  | 0, _ => c
  | n + 1, v => (c.stB a (BitVec.ofNat 8 v)).st (a + 1) n (v / 256)
/-- Write a list of bytes. -/
def Chip.stBytes (c : Chip) (a : Nat) : List Byte → Chip
  | [] => c
  | b :: l => (c.stB a b).stBytes (a + 1) l

/-- Bit `b` of the bit space, in the byte view (R23). -/
def Chip.ldBit (c : Chip) (b : Nat) : Bool := (c.ldB (0x28000000 + b / 8)).getLsbD (b % 8)
/-- Write bit `b` of the bit space. -/
def Chip.stBit (c : Chip) (b : Nat) (v : Bool) : Chip :=
  let a := 0x28000000 + b / 8
  let m := (1 : Byte) <<< (b % 8)
  c.stB a (if v then c.ldB a ||| m else c.ldB a &&& ~~~m)

/-- The code halves exchange (R22): each address of one half holds what the other half held. -/
def Chip.swapHalves (c : Chip) : Chip :=
  let act := c.mem.filter fun e => 0x10000000 ≤ e.1 && e.1 < 0x10300000
  let stg := c.mem.filter fun e => 0x10300000 ≤ e.1 && e.1 < 0x10600000
  let lo := c.mem.filter fun e => e.1 < 0x10000000
  let hi := c.mem.filter fun e => 0x10600000 ≤ e.1
  { c with mem := lo ++ stg.map (fun e => (e.1 - 0x300000, e.2)) ++ act.map (fun e => (e.1 + 0x300000, e.2)) ++ hi }

/-! ### Image words -/

/-- A word of an image bank. -/
def imgGet (l : List (Nat × Word)) (i : Nat) : Word := spGet 0 l i
/-- Write a word of an image bank. -/
def imgSet (i : Nat) (v : Word) (l : List (Nat × Word)) : List (Nat × Word) := spSet 0 i v l

/-- Word `g` of 32 bits from bit address `32 g` of the working bits in the bit store. -/
def Chip.ldBits32 (c : Chip) (bit : Nat) : Word := BitVec.ofNat 32 (c.ld (0x28000000 + bit / 8) 4)
/-- Write 32 working bits from a bit address that is a multiple of 32. -/
def Chip.stBits32 (c : Chip) (bit : Nat) (w : Word) : Chip := c.st (0x28000000 + bit / 8) 4 w.toNat

/-! ### CRC-32C -/

/-- One bit of the reflected CRC-32C (polynomial 0x82F6_3B78; PRESUMED, log entry 4: the manual names the check alone). -/
def crcBit (r : Nat) : Nat := if r % 2 = 1 then (r / 2) ^^^ 0x82F63B78 else r / 2
/-- One byte. -/
def crcByte (r : Nat) (b : Byte) : Nat :=
  crcBit (crcBit (crcBit (crcBit (crcBit (crcBit (crcBit (crcBit (r ^^^ b.toNat))))))))
/-- CRC-32C of a list of bytes. -/
def crc32c (l : List Byte) : Word := BitVec.ofNat 32 ((l.foldl crcByte 0xFFFFFFFF) ^^^ 0xFFFFFFFF)
/-- The bytes of words, little-endian. -/
def bytesOfWords (l : List Word) : List Byte :=
  l.flatMap fun (w : Word) => [w.setWidth 8, (w >>> 8).setWidth 8, (w >>> 16).setWidth 8, (w >>> 24).setWidth 8]

/-- A byte of a word, little-endian, is replaced. -/
def wordByte (w : Word) (i : Nat) (b : Byte) : Word := (w &&& ~~~((0xFF : Word) <<< (8 * i))) ||| ((b.setWidth 32 : Word) <<< (8 * i))

/-- A word from bytes, little-endian. -/
def wordOf (l : List Byte) : Word := BitVec.ofNat 32 (l.foldr (fun b v => b.toNat + 256 * v) 0)

end Sys2Proof.Machine
end

