-- ==== Sys2Proof/Machine/Guard.lean ====
section
/-! DEFINITION. The protection guard's checks and its record of refusals (R24, R471 to R475). -/

namespace Sys2Proof.Machine

/-- Change the guard. -/
def Chip.modGrd (c : Chip) (f : Grd → Grd) : Chip := { c with grd := f c.grd }
/-- Change the mailboxes. -/
def Chip.modMbx (c : Chip) (f : Mbx → Mbx) : Chip := { c with mbx := f c.mbx }
/-- Change the clock. -/
def Chip.modRtc (c : Chip) (f : Rtc → Rtc) : Chip := { c with rtc := f c.rtc }
/-- Change the watchdog. -/
def Chip.modWdg (c : Chip) (f : Wdg → Wdg) : Chip := { c with wdg := f c.wdg }

/-- A field kept at or above a limit. -/
def Fld.atLeast (f : Fld) (n : Nat) (v : Word) : Word := if f.of v < n then f.ins v n else v
/-- A field kept at or below a limit. -/
def Fld.atMost (f : Fld) (n : Nat) (v : Word) : Word := if n < f.of v then f.ins v n else v

/-- The value stored where a register's description replaces some values. -/
def storedAs (a : Nat) (v : Word) : Word :=
  if a = SCN_PACECFG.reg then SCN_PACECFG.THR.atLeast 800 v
  else if a = HSB_ARBCFG.reg then HSB_ARBCFG.ARBTO.atLeast 2 v
  else if a = HSB_RSCFG.reg then HSB_RSCFG.JOINPG.atLeast 1 (HSB_RSCFG.JOINPG.atMost 64 v)
  else if a = REC_CTL.reg then REC_CTL.DRAINPER.atLeast 1 v
  else if a = RTC_PPSCTL.reg then RTC_PPSCTL.MAXSLEW.atLeast 1 (RTC_PPSCTL.MAXSLEW.atMost 100 v)
  else if a = MIM_SENS.reg then MIM_SENS.TSPER.atLeast 1 v
  else if a = UPD_CWIN.reg then UPD_CWIN.WIN.atLeast 10 v
  else v

/-- The bits of a register that the image can set: all that are assigned but the commands and the flags that hardware sets (R5, R6). -/
def RegRow.loads (r : RegRow) : Word := r.rw ||| r.rwl ||| r.rws ||| r.ro

/-- A value that PWR_BUDGET accepts (R446). -/
def budgetOk (v : Word) : Bool :=
  let base := PWR_BUDGET.BASE.of v
  let bud := PWR_BUDGET.BUDGET.of v
  100 ≤ base && base ≤ 1500 && 800 ≤ bud && bud ≤ 1500 && base + 304 ≤ bud

/-- A bit address that WDG_SRCBIT takes. -/
def qBitOk (v : Word) : Bool := 0x10000 ≤ v.toNat % 2 ^ 24 && v.toNat % 2 ^ 24 < 0x20000

/-- The value that a register takes from the word of the image, as a write of that word would leave it; none where the register takes no such
value, or no register is assigned (R5, R411, R446). -/
def loadedAs (a : Nat) (v : Word) : Option Word :=
  match regRow? a with
  | none => none
  | some r =>
    let v := v &&& r.loads
    if a = PWR_BUDGET.reg then (if budgetOk v then some v else none)
    else if a = WDG_SRCBIT.reg then (if qBitOk v then some v else none)
    else if a = WDG_CTL.reg then some (WDG_CTL.PERIOD.atLeast 1 v)
    else match (List.finRange 4).find? fun (k : Fin 4) => STN_CTL.reg k == a with
      | some k => some ((STN_CTL.ACTO k).atLeast 1 v)
      | none => some (storedAs a v)

/-- The boot ROM writes a register from the image. -/
def Chip.load (c : Chip) (a : Nat) (v : Word) : Chip :=
  match loadedAs a v with
  | some v => c.wr a v
  | none => if a = PWR_BUDGET.reg then c.set1 PWR_STAT.BUDERR else c

/-- The agent group of an agent ID (Table 20.1). -/
def guardGroup (a : AgentId) : Option Nat :=
  let n := a.toNat
  if n ≤ 2 then some n
  else if 0x10 ≤ n && n ≤ 0x21 then some 3
  else if 0x30 ≤ n && n ≤ 0x37 then some 4
  else if n = 0x40 then some 5
  else if n = 0x41 then some 6
  else if n = 0x48 then some 7
  else if 0x50 ≤ n && n ≤ 0x53 then some 8
  else if n = 0x58 then some 9
  else if n = 0x5C then some 10
  else if n = 0x5E then some 11
  else none

/-- MC0 or MC1. -/
def isMc (a : AgentId) : Bool := a == 0x01 || a == 0x02
/-- The host. -/
def isHost (a : AgentId) : Bool := a == 0x40
/-- The debug port, unlocked at a scope or above (Table 20.4). -/
def Chip.isDebug (c : Chip) (a : AgentId) (scope : Nat) : Bool := a == 0x41 && scope ≤ c.get GRD_DBG.DBGST

/-- The agents that the RTC block admits. -/
def Chip.rtcAgent (c : Chip) (a : AgentId) : Bool := isMc a || isHost a || c.isDebug a 1

/-- The agents that a block admits to reads: the debug port only as its unlock allows, and the RTC block's four (R481, ch. 15). -/
def Chip.mayRead (c : Chip) (ag : AgentId) (a : Nat) : Bool :=
  if a / 0x10000 = 0x400F then c.rtcAgent ag
  else if ag = 0x41 then a / 0x10000 = 0x4013 || c.isDebug ag 1
  else (guardGroup ag).isSome

/-- The partition that governs a byte: the lowest-numbered enabled one that contains it (R473). -/
def Chip.partitionOf (c : Chip) (a : Nat) : Option (Fin 16) :=
  (List.finRange 16).find? fun p =>
    c.flag (GRD_PBASE.EN p) && c.get (GRD_PBASE.BASE p) ≤ a / 4096 && a / 4096 ≤ c.get (GRD_PLIM.LIMIT p)

/-- The host window. -/
def inHost (a : Nat) : Bool := 0x38000000 ≤ a && a < 0x38080000
/-- The xSPI window. -/
def inXspi (a : Nat) : Bool := 0x70000000 ≤ a && a < 0x90000000

/-- The partition rule for one byte (R473). -/
def Chip.admitsByte (c : Chip) (ag : AgentId) (write : Bool) (a : Nat) : Bool :=
  match guardGroup ag with
  | none => false
  | some g =>
    match c.partitionOf a with
    | some p => c.bitOf (if write then GRD_PPERM.WR p else GRD_PPERM.RD p) g
    | none =>
      g ≤ 2 || (g == 6 && c.get GRD_DBG.DBGST == 2) ||
        (c.mode == mLOAD && c.sys.loadHalt &&
          ((g == 5 && (inHost a || (inXspi a && !write))) || (g == 11 && ((inHost a && !write) || inXspi a))))

/-- The partition rule for an access: every byte must be admitted. -/
def Chip.admits (c : Chip) (ag : AgentId) (write : Bool) (a n : Nat) : Bool :=
  (List.range n).all fun i => c.admitsByte ag write (a + i)

/-- Record a refusal (R24, R475); `part` is the governing partition and `fixed` says that a fixed rule of the owning block refused.
A host's refusal sets HREF (R333). -/
def Chip.recordRefusal (c : Chip) (ag : AgentId) (write : Bool) (a : Nat) (fixed : Bool) (part : Option (Fin 16)) : Chip :=
  let info := 2 ^ 8 * ag.toNat + 2 ^ 6 * fixed.toNat + write.toNat + (match part with
    | some p => 2 ^ 5 + 2 * p.val
    | none => 0)
  let c := (((c.incSat GRD_VCNT.CNT).wr GRD_VINFO.reg (BitVec.ofNat 32 info)).wr GRD_VADDR.reg (BitVec.ofNat 32 a)).setBit GRD_STAT.FLAGS 0
  let c := if isHost ag then c.set1 MBX_STAT.HREF else c
  c.modGrd fun g => { g with refused := g.refused.insert (c.t / 1000000000) }

/-- A fixed rule of the owning block refuses an access. -/
def Chip.refuse (c : Chip) (ag : AgentId) (write : Bool) (a : Nat) : Chip := c.recordRefusal ag write a true none

/-- The partition rule refuses an access of `n` bytes; the first byte refused names the partition. -/
def Chip.refusePart (c : Chip) (ag : AgentId) (write : Bool) (a n : Nat) : Chip :=
  match (List.range n).find? fun i => !c.admitsByte ag write (a + i) with
  | some i => c.recordRefusal ag write a false (c.partitionOf (a + i))
  | none => c

/-- The completion of an access (R24). -/
def Chip.answer (c : Chip) (l : List Byte) : Chip := { c with resp := ⟨l, false⟩ }
/-- A read of a word completes. -/
def Chip.answerW (c : Chip) (w : Word) : Chip := c.answer (bytesOfWords [w])
/-- A refused access completes with an error response and reads 0; to the host it completes with Successful Completion (R333). -/
def Chip.denied (c : Chip) (ag : AgentId) (n : Nat) : Chip := { c with resp := ⟨List.replicate n 0, !isHost ag⟩ }

/-! ### The host -/

/-- The control-register range. -/
def inRegs (a : Nat) : Bool := 0x40000000 ≤ a && a < 0x40140000

/-- In LOAD the host reaches the SYS, UPD and MBX registers, the xSPI window and the host window alone (R332, R334). -/
def hostInLoad (a : Nat) : Bool := inHost a || inXspi a || a / 0x10000 ∈ [0x4000, 0x4012, 0x400C]

/-- The host's access to `a` is refused because the chip is in LOAD. -/
def Chip.loadBars (c : Chip) (ag : AgentId) (a : Nat) : Bool := isHost ag && c.mode == mLOAD && !hostInLoad a

/-- Without REFCLK the host port is down, and no access of the host reaches the chip (R35, R496); nor does one while the endpoint is in D3hot (R330;
PRESUMED, log entry 99). -/
def Chip.cutOff (c : Chip) (ag : AgentId) : Bool := isHost ag && (!c.pins.refclk || c.mbx.pci.d3hot)

/-- Registers of Advanced Error Reporting after reset, by number (PRESUMED, log entry 99): severity of the uncorrectable errors, and the mask of the
correctable ones. -/
def aerDefault (k : Nat) : Word := if k = 3 then 0x00462030 else if k = 5 then 0x00002000 else 0

/-- An access that does not reach the chip has no effect; in D3hot it is an unsupported request (R330; PRESUMED, log entry 99). -/
def Chip.unreached (c : Chip) : Chip :=
  if !c.pins.refclk then c
  else { c with mbx := { c.mbx with pci := { c.mbx.pci with aer := spSet (aerDefault 1) 1 (spGet (aerDefault 1) c.mbx.pci.aer 1 ||| 0x00100000) c.mbx.pci.aer } } }

/-- A transition begins: TRANS and TARGET (R32). -/
def Chip.beginTrans (c : Chip) (m : Nat) : Chip := (c.set1 SYS_MODE.TRANS).put SYS_MODE.TARGET m

/-- Change the power feed supervisor. -/
def Chip.modPwr (c : Chip) (f : Pwr → Pwr) : Chip := { c with pwr := f c.pwr }

/-- The host link, where it is up, is held in L1 through INTERMISSION (R331). -/
def Chip.linkRest (c : Chip) (rest : Bool) : Chip :=
  if !rest then c.clr MBX_LINK.INL1
  else if c.get MBX_LINK.SPEED = 0 then c
  else (c.set1 MBX_LINK.INL1).incWrap MBX_LINK.L1CNT

/-- The entry to INTERMISSION has been accepted and the chip has not yet left it. -/
def Chip.asleep (c : Chip) : Bool := c.mode == mINTER || (c.flag SYS_MODE.TRANS && c.get SYS_MODE.TARGET == mINTER)

/-- A wake source fires (R36, R450): its bit sets in any mode, and an enabled one begins the exit, once the entry is complete. -/
def Chip.wake (c : Chip) (k : Fin 5) : Chip :=
  let c := c.setBit PWR_WAKE.SRC k
  if c.asleep && c.pwr.wake.isNone && c.pwr.wakeEn.testBit k then
    let c := (c.put PWR_WAKE.FIRST k.val).modPwr fun p => { p with wake := some k }
    if c.mode == mINTER then c.beginTrans mSTOP else c
  else c

/-- A memory write of the host wakes the chip (R331, Table 18.4). -/
def Chip.hostWake (c : Chip) (ag : AgentId) : Chip := if isHost ag then c.wake 2 else c

/-- A write that only some agents may make is refused from the others (R24), and from the host in LOAD where R334 does not let it through. -/
def Chip.allow (c : Chip) (ok : Bool) (ag : AgentId) (addr : Nat) (f : Chip → Chip) : Chip :=
  if c.cutOff ag then c.unreached
  else
    let c := c.hostWake ag
    if ok && !c.loadBars ag addr then f (c.answer []) else (c.refuse ag true addr).denied ag 0

/-- A write as its register takes it: of the W1C bits that hardware sets in the same handshake, none is cleared (R7). -/
def Cmd.kept (w : Cmd) (a : Nat) : Cmd :=
  { w with value := w.value &&& ~~~(w.sets &&& ((regRow? a).elim 0 (·.w1c))) }

end Sys2Proof.Machine
end

