-- ==== Sys2Proof/Machine/CanCore.lean ====
section
/-! DEFINITION. What the rest of the block needs of the CAN controllers: staged operating modes (R312, R328) and the policy of bus-off
recovery (R327). -/

namespace Sys2Proof.Machine

/-- CAN controller `n`. -/
def Chip.can (c : Chip) (n : Fin 4) : Can := c.cans[n]
/-- Change CAN controller `n`. -/
def Chip.modCan (c : Chip) (n : Fin 4) (f : Can → Can) : Chip := { c with cans := c.cans.set n (f c.cans[n]) }

/-- The agent ID of controller `n`. -/
def canAgent (n : Fin 4) : Nat := 0x50 + n.val

/-- The recovery policy is automatic (R327). -/
def Chip.canAuto (c : Chip) (n : Fin 4) : Bool :=
  c.mode == mLOAD || c.mode == mSTOP || c.mode == mINTER || c.get (CAN_CTL.OPMODE n) == 4 || c.hsb.resync.isSome || c.hsb.target.isSome

/-- A controller leaves bus-off once its count is complete and it is permitted to (R327). -/
def Chip.canRecover (c : Chip) (n : Fin 4) : Chip :=
  if c.get (CAN_ERR.ESTATE n) = 2 && (c.can n).counted && (c.canAuto n || (c.can n).permit) then
    (((c.put (CAN_ERR.ESTATE n) 0).put (CAN_ERR.TEC n) 0).put (CAN_ERR.REC n) 0).modCan n fun k => { k with counted := false, permit := false }
  else c

/-- The policy is evaluated anew (R327). -/
def Chip.canPolicy (c : Chip) : Chip := c.forFin 4 fun n c => c.canRecover n

/-- OPMODE takes a value. -/
def Chip.canSetMode (c : Chip) (n : Fin 4) (v : Nat) : Chip :=
  ({ c with staged := spDel (CAN_CTL.reg n) c.staged }.put (CAN_CTL.OPMODE n) v).canRecover n

/-- OPMODE is written (R312): a reserved value stores 0; CONFIG takes effect at once in bus-off. -/
def Chip.canMode (c : Chip) (n : Fin 4) (v : Nat) : Chip :=
  let v := if 5 ≤ v then 0 else v
  let c := c.modCan n fun k => { k with boot := false }
  if v = 0 && c.get (CAN_ERR.ESTATE n) = 2 then (c.canSetMode n 0).modCan n fun k => { k with joined := false, attempt := none }
  else { c with staged := spIns (CAN_CTL.reg n) (BitVec.ofNat 32 v) c.staged }

/-- The first rule of R310 that the settings break. -/
def Chip.canCfgErr (c : Chip) (n : Fin 4) : Nat :=
  let nom := (c.get (CAN_NBT.NBRP n) + 1) * (1 + (c.get (CAN_NBT.NTSEG1 n) + 1) + (c.get (CAN_NBT.NTSEG2 n) + 1))
  let dat := (c.get (CAN_DBT.DBRP n) + 1) * (1 + (c.get (CAN_DBT.DTSEG1 n) + 1) + (c.get (CAN_DBT.DTSEG2 n) + 1))
  if nom < 80 then 1
  else if dat < 10 then 2
  else if nom < dat then 3
  else if c.get (CAN_NBT.NTSEG2 n) < c.get (CAN_NBT.NSJW n) || c.get (CAN_DBT.DTSEG2 n) < c.get (CAN_DBT.DSJW n) then 4
  else if dat < 80 && !c.flag (CAN_CTL.TDCEN n) then 5
  else if c.get (CAN_NBT.NTSEG1 n) = 0 then 6
  else 0

/-- The OPMODE that waits takes effect: leaving CONFIG starts bus integration, where the settings permit it (R310, R312). -/
def Chip.canApply (c : Chip) (n : Fin 4) : Chip :=
  match c.staged.find? (·.1 == CAN_CTL.reg n) with
  | none => c
  | some (_, w) =>
    let v := w.toNat % 8
    if c.get (CAN_CTL.OPMODE n) = 0 && v ≠ 0 then
      let e := c.canCfgErr n
      let c := c.put (CAN_CMDSTAT.CFGERR n) e
      if e ≠ 0 then c.canSetMode n 0 else (c.canSetMode n v).modCan n fun k => { k with joined := false }
    else if v = 0 then (c.canSetMode n 0).modCan n fun k => { k with joined := false }
    else c.canSetMode n v

/-- At the entry to STOP the controllers whose image gives an OPMODE other than CONFIG start integration (R313). -/
def Chip.canStart (c : Chip) : Chip := c.forFin 4 fun n c =>
  if (c.can n).boot then (c.canApply n).modCan n fun k => { k with boot := false } else c

/-- A failed block check (R328). -/
def Chip.canCheckFail (c : Chip) (n : Fin 4) : Chip := (c.set1 (CAN_STAT.CHKFAIL n)).canMode n 3

end Sys2Proof.Machine
end

