-- ==== Sys2Proof/Machine/Turnstile.lean ====
section
/-! DEFINITION. Admission by the Turnstile (R445 to R448): requests queue by class in arrival order and hold a slot until they end. -/

namespace Sys2Proof.Machine

/-- The slots of a class (Table 18.3). -/
def turnSlots (cls : Nat) : Nat :=
  match cls with
  | 2 => 20
  | 4 => 18
  | _ => 1

/-- Request admission; a requester holds at most one request or operation in a class (R445). -/
def Chip.turnAsk (c : Chip) (cls : Nat) (who : Asker) : Chip :=
  if c.turn.any fun a => a.cls == cls && a.who == who && !a.admitted then c else { c with turn := c.turn ++ [⟨cls, who, false, c.tb⟩] }

/-- An admitted operation ends and frees its slot, and a further request of the requester joins the queue then; without one, its request
is withdrawn (R445). -/
def Chip.turnEnd (c : Chip) (cls : Nat) (who : Asker) : Chip :=
  let mine (a : Admission) : Bool := a.cls == cls && a.who == who
  { c with turn := c.turn.filter (!mine ·) ++
      (if c.turn.any fun a => mine a && a.admitted then [⟨cls, who, false, c.tb⟩].filter fun _ => c.turn.any fun a => mine a && !a.admitted
       else []) }

/-- An operation of the requester is admitted in the class. -/
def Chip.turnHas (c : Chip) (cls : Nat) (who : Asker) : Bool := c.turn.any fun a => a.cls == cls && a.who == who && a.admitted

/-- The next request of a class that a free slot can serve; none while the power-fail flush runs (R448). -/
def Chip.turnNext (c : Chip) (cls : Nat) : Option Admission :=
  if turnSlots cls ≤ (c.turn.filter fun a => a.cls == cls && a.admitted).length then none
  else c.turn.find? fun a => a.cls == cls && !a.admitted && !c.turn.any fun b => b.cls == cls && b.who == a.who && b.admitted

/-- Grant a request. -/
def Chip.turnAdmit (c : Chip) (a : Admission) : Chip :=
  { c with turn := c.turn.map fun b => if b = a then { b with admitted := true, since := c.tb } else b }

/-- A retraining frees its slot with its maximum hold of 2 ms, also where the links are not aligned by then (Table 18.3; DESIGN CHOICE, log entry 64). -/
def Chip.turnHeld (c : Chip) : Chip :=
  { c with turn := c.turn.filter fun a => !(a.cls == 5 && a.admitted && a.since.toNat + 2000000 ≤ c.t) }

/-- A writer of cells of the parameter store waits for an admission (R376, R445): a record command, a defect-map entry, a key, the recorder's
keep area. -/
def Chip.cellWriter (c : Chip) : Bool :=
  c.nvs.job.isSome || !c.flt.pendMap.isEmpty || !c.grd.keyJobs.isEmpty || c.rcd.queue.any fun q => !q.inKeep

/-- The parameter store has work that waits for an admission: a writer of cells, or an area to erase. -/
def Chip.storeBusy (c : Chip) : Bool := c.cellWriter || !c.nvs.erasing.isEmpty

/-- The parameter store ends an admitted operation, and requests again for the writer that waits next. -/
def Chip.storeEnd (c : Chip) : Chip :=
  let c := c.turnEnd 0 .store
  if c.storeBusy then c.turnAsk 0 .store else c

end Sys2Proof.Machine
end

