-- ==== Sys2Proof/Machine/Feed.lean ====
section
/-! DEFINITION. The recorder's feed and the closing of records: what every other block needs of the event recorder (R352 to R361). -/

namespace Sys2Proof.Machine

/-- The eMMC holds `n` sectors from sector `a` on: the configuration image sets its capacity (R13); without an image none is set (DEDUCED, log
entry 123). -/
def Chip.emmcHas (c : Chip) (a n : Nat) : Bool := match c.image with
  | some i => a + n ≤ i.sec.emmcSectors
  | none => false

/-- The slot of the eMMC, in units of 64 bytes, of the record of a sequence number (R363). -/
def Chip.carSlot (c : Chip) (seq : Nat) : Nat := 16384 * c.get REC_CAR.CAROFS + seq % 262144

/-- Change the recorder. -/
def Chip.modRec (c : Chip) (f : Rec → Rec) : Chip := { c with rcd := f c.rcd }

/-- TYPE of a code-table word (Table 13.3); the reserved types act as NONE. -/
def entryType (e : Nat) : Nat := if 5 ≤ e % 8 then 0 else e % 8

/-- The code-table word of a code (Table 13.3). -/
def Chip.codeWord (c : Chip) (code : Nat) : Nat := c.ld (0x39000000 + 8 * code) 8
/-- The entry that LOAD gave a code: its accumulator keeps its place, and its open record closes by it, where the word is wiped since (R372;
DESIGN CHOICE, log entry 140). -/
def Chip.codeEntry (c : Chip) (code : Nat) : Nat := match c.rcd.gone.find? (·.1 == code) with
  | some e => e.2
  | none => c.codeWord code
/-- TYPE of a code: a wiped one acts as NONE (R372). -/
def Chip.codeType (c : Chip) (code : Nat) : Nat := entryType (c.codeWord code)

/-- A post enters the feed, stamped with TB, or is dropped and counted (R355). -/
def Chip.feedPost (c : Chip) (code : Nat) (v : Word) : Chip :=
  if !c.flag REC_CTL.EN || c.mode == mLOAD || c.rcd.stopped || 256 ≤ c.rcd.feed.length then
    (c.incSat REC_DROP.FEED).set1 REC_STAT.FEEDDROP
  else c.modRec fun r => { r with feed := r.feed ++ [⟨code, v, c.tb⟩] }

/-- A chip block posts a code: an unconfigured code is discarded without count (R352, R353). -/
def Chip.post (c : Chip) (code : Nat) (v : Word) : Chip := if c.codeType code = 0 then c else c.feedPost code v

/-- INTERVAL of a code in nanoseconds. -/
def Chip.interval (c : Chip) (code : Nat) : Nat := c.codeEntry code / 2 ^ 4 % 2 ^ 17 * 1000000000
/-- FLOOD threshold of a code, if it has one. -/
def Chip.flood (c : Chip) (code : Nat) : Option Nat :=
  let f := c.codeEntry code / 2 ^ 21 % 32
  if f = 0 then none else some (2 ^ f)
/-- RLIM of a code in nanoseconds. -/
def Chip.rlim (c : Chip) (code : Nat) : Nat := c.codeEntry code / 2 ^ 32 % 256 * 1000000000

/-- The interval end at which an open record closes (R358). -/
def Chip.closeDue (c : Chip) (o : RecOpen) : Nat :=
  let i := c.interval o.code
  if i = 0 then 2 ^ 64 else (o.tbOpen / i + 1) * i

/-- The instant of the early close that a record has requested, if RLIM allows one (R359). -/
def Chip.earlyDue (c : Chip) (o : RecOpen) : Option Nat :=
  match o.early with
  | none => none
  | some (_, t) => if c.rlim o.code = 0 then none else some (max t (spGet 0 c.rcd.earlyAt o.code +
      (if c.rcd.earlyAt.any (·.1 == o.code) then c.rlim o.code else 0)))

/-- The payload words of a record (Table 13.6), nine words. -/
def recPayload (type : Nat) (o : RecOpen) : List Word :=
  let tot := BitVec.ofNat 32 o.count
  let bin (i : Nat) : Word := BitVec.ofNat 32 (o.bins.toList.getD (2 * i) 0 + 2 ^ 16 * o.bins.toList.getD (2 * i + 1) 0)
  match type with
  | 1 => [tot, o.last, 0, 0, 0, 0, 0, 0, 0]
  | 4 => [o.min, o.max, o.tbMin.setWidth 32, o.tbMin.extractLsb' 32 32, o.tbMax.setWidth 32, o.tbMax.extractLsb' 32 32, tot, 0, 0]
  | _ => (List.range 8).map bin ++ [tot]

/-- A summary record of sixteen words, its CRC in the last (Table 13.5). -/
def recWords (type epoch seq reason : Nat) (early defer : Bool) (close : Nat) (o : RecOpen) : List Word :=
  let w0 : Word := BitVec.ofNat 32 (o.code + 2 ^ 12 * type + 2 ^ 15 * early.toNat + 2 ^ 16 * reason + 2 ^ 19 * defer.toNat +
    2 ^ 20 * o.memErr.toNat + 2 ^ 21 * o.sat.toNat + 2 ^ 24 * epoch)
  let t (n : Nat) : List Word := [BitVec.ofNat 32 n, BitVec.ofNat 32 (n / 2 ^ 32)]
  let l := [w0, BitVec.ofNat 32 seq] ++ t o.tbOpen ++ t close ++ recPayload type o
  l ++ [crc32c (bytesOfWords l)]

/-- A sector is complete when all of its eight records have closed. -/
def Chip.sectorFull (c : Chip) (sec : Nat) : Bool := 8 * sec + 8 ≤ c.get REC_NEXTSEQ.SEQ

/-- The first record that a drain still has to write: one of a complete sector, and where it writes a partial sector too one that no write has
taken yet (R363). -/
def Chip.drainHead (c : Chip) (part : Bool) : Option RecQ :=
  c.rcd.queue.find? fun q => !q.inCar && (c.sectorFull (q.seq / 8) || (part && !q.part))

/-- A drain begins, or becomes one that writes a partial sector too (R363), where it has something to write; in INTERMISSION the queue waits for
the wake (R365). -/
def Chip.drainGo (c : Chip) (part : Bool) : Chip :=
  let p := part || c.rcd.drain == some true
  if c.mode == mINTER || c.rcd.stopped || (c.drainHead p).isNone then c
  else (c.modRec fun r => { r with drain := some p }).turnAsk 1 .recorder

/-- QCNT follows the queue, and reaching 768 records sets QHI and starts a drain (R363). -/
def Chip.qcnt (c : Chip) : Chip :=
  let n := c.rcd.queue.length
  let c := c.put REC_QSTAT.QCNT n
  if 768 ≤ n then (c.set1 REC_STAT.QHI).drainGo true else c

/-- Close an open record at an instant (R358 to R361): it takes the next sequence number and enters the queue. A full queue defers the
close (R360), and so does a NEXTSEQ not yet known or being reset (R365, R371). -/
def Chip.closeRec (c : Chip) (o : RecOpen) (reason : Nat) (early : Bool) (at_ : Nat) : Chip :=
  let full := 1024 ≤ c.rcd.queue.length
  if full || !c.rcd.known || c.rcd.comm.isSome then
    (c.doIf full (·.set1 REC_STAT.DEFER)).modRec fun r =>
      { r with opens := r.opens.map fun p => if p.code = o.code then { p with deferred := some (reason, early, full || o.deferred.any (·.2.2)) } else p }
  else
    let seq := c.get REC_NEXTSEQ.SEQ
    let words := recWords (entryType (c.codeEntry o.code)) c.rcd.epoch seq reason early (o.deferred.any (·.2.2)) at_ o
    let kept := 1024 ≤ seq || c.rcd.keepClosed
    let c := ((c.incWrap REC_NEXTSEQ.SEQ).modRec fun r =>
      { r with
        opens := r.opens.filter (·.code != o.code)
        closedAt := spIns o.code at_ r.closedAt
        earlyAt := if early then spIns o.code at_ r.earlyAt else r.earlyAt
        queue := r.queue ++ [⟨seq, words, false, false, kept⟩] }).qcnt
    if kept then c else c.turnAsk 0 .store

/-! ### Accumulation -/

/-- The instant at which an open record is due to close (R358, R359). -/
def Chip.nextClose (c : Chip) (o : RecOpen) : Nat :=
  match c.earlyDue o with
  | some t => min t (c.closeDue o)
  | none => c.closeDue o

/-- A fresh open record (R358). -/
def Chip.openRec (c : Chip) (p : Post) : RecOpen :=
  let i := c.interval p.code
  let start := if i = 0 then 0 else p.stamp.toNat / i * i
  { code := p.code, tbOpen := max start (spGet 0 c.rcd.closedAt p.code), posts := 0, count := 0, last := 0,
    bins := Vector.replicate 16 0, min := 0, max := 0, tbMin := 0, tbMax := 0, sat := false, memErr := false, early := none,
    deferred := none }

/-- A value as the code reads it: DINT when SIGNED is 1, UDINT otherwise. -/
def recVal (signed : Bool) (v : Word) : Int := if signed then v.toInt else v.toNat

/-- The bin of a value histogram (Table 13.4). -/
def valueBin (signed : Bool) (lo width v : Word) : Nat :=
  let d := recVal signed v - recVal signed lo
  if d < 0 then 0 else min 15 (d.toNat / max 1 width.toNat)

/-- The bin of a duration (Table 13.4), with BASE = 2^BEXP ns. -/
def durationBin (bexp d : Nat) : Nat := if d < 2 ^ bexp then 0 else min 15 (1 + Nat.log2 (d / 2 ^ bexp))

/-- One more in a bin and in TOTAL; a count that reaches its top saturates. -/
def recBin (o : RecOpen) (b : Nat) : RecOpen :=
  let n := min 65535 (o.bins.toList.getD b 0 + 1)
  let t := min 0xFFFFFFFF (o.count + 1)
  { o with bins := o.bins.setIfInBounds b n, count := t, sat := o.sat || n == 65535 || t == 0xFFFFFFFF }

/-- A post is accumulated into the open record of its code (Table 13.4); the span of a duration code comes and goes with it. -/
def Chip.accum (c : Chip) (o : RecOpen) (p : Post) : RecOpen × List (Nat × Time) :=
  let e := c.codeEntry p.code
  let signed := e.testBit 3
  let spans := c.rcd.spans
  let span := (spans.find? (·.1 == p.code)).map (·.2)
  match c.codeType p.code with
  | 1 =>
    let t := min 0xFFFFFFFF (o.count + 1)
    ({ o with count := t, last := p.value, sat := o.sat || t == 0xFFFFFFFF }, spans)
  | 2 =>
    match c.rcd.hist.find? (·.1 == p.code) with
    | some (_, lo, w) => (recBin o (valueBin signed lo w p.value), spans)
    | none => (recBin o (valueBin signed 0 1 p.value), spans)
  | 3 =>
    match span with
    | none => if p.value ≠ 0 then (o, spIns p.code p.stamp spans) else (o, spans)
    | some s =>
      if p.value = 0 then (recBin o (durationBin (e / 2 ^ 26 % 32) (p.stamp - s).toNat), spDel p.code spans) else (o, spans)
  | _ =>
    let t := min 0xFFFFFFFF (o.count + 1)
    let lt := o.count == 0 || recVal signed p.value < recVal signed o.min
    let gt := o.count == 0 || recVal signed o.max < recVal signed p.value
    ({ o with
        count := t, sat := o.sat || t == 0xFFFFFFFF,
        min := if lt then p.value else o.min, tbMin := if lt then p.stamp else o.tbMin,
        max := if gt then p.value else o.max, tbMax := if gt then p.stamp else o.tbMax }, spans)

/-- The head of the feed is accumulated (R357): it waits while its code's open record is due to close before it (R358). Reaching FLOOD, or
a saturation, requests an early close (R359). A post of a code that acts as NONE since it entered is discarded (R372). -/
def Chip.accumHead (c : Chip) : Option Chip :=
  match c.rcd.feed with
  | [] => none
  | p :: l =>
    let old := c.rcd.opens.find? (·.code == p.code)
    let o := old.getD (c.openRec p)
    if c.codeType p.code = 0 then some (c.modRec fun r => { r with feed := l })
    else if old.isSome && o.deferred.isNone && c.nextClose o ≤ p.stamp.toNat then none
    else
      let (o, spans) := c.accum o p
      let n := o.posts + 1
      let flood := (c.flood p.code).any (· ≤ n)
      let early := if o.early.isSome then o.early else if flood then some (1, p.stamp.toNat) else if o.sat then some (2, p.stamp.toNat) else none
      let o := { o with posts := n, early }
      some (c.modRec fun r => { r with feed := l, spans, opens := r.opens.filter (·.code != p.code) ++ [o] })

/-- An open record closes at the instant at which it is due, early or at its interval's end (R358, R359). -/
def Chip.closeDueRec (c : Chip) (o : RecOpen) : Chip :=
  match o.early, c.earlyDue o with
  | some (reason, _), some d => if d < c.closeDue o then c.closeRec o reason true d else c.closeRec o 0 false (c.closeDue o)
  | _, _ => c.closeRec o 0 false (c.closeDue o)

/-- Accumulate the posts in the feed that were stamped before `t`, in at most `n` steps: a record that is due before a post of its code closes
first (R358). -/
def Chip.accumFeed (c : Chip) (t : Nat) : Nat → Chip
  | 0 => c
  | n + 1 => match c.rcd.feed with
    | [] => c
    | p :: _ =>
      if t ≤ p.stamp.toNat then c
      else match c.accumHead with
        | some d => d.accumFeed t n
        | none => match c.rcd.opens.find? (·.code == p.code) with
          | some o => (c.closeDueRec o).accumFeed t n
          | none => c

/-- Close every open record in ascending code order once the posts before this instant are accumulated (R358, R361, R367); one that was due
before closes at that instant, and one whose close waits takes the new REASON. -/
def Chip.closeAll (c : Chip) (reason : Nat) : Chip :=
  let c := c.accumFeed c.t 1024
  let codes := (List.range 4096).filter fun k => c.rcd.opens.any (·.code == k)
  c.forIn codes fun k c =>
    match c.rcd.opens.find? (·.code == k) with
    | some o => if o.deferred.isNone && c.nextClose o < c.t then c.closeDueRec o else c.closeRec o reason false c.t
    | none => c

/-- In SAFE-HOLD the recorder stops once every record has been written (R367). -/
def Chip.recStop (c : Chip) : Chip :=
  if c.rcd.stopping && c.rcd.drain.isNone && c.rcd.opens.all (·.deferred.isNone) && c.rcd.queue.all fun q => (q.inCar || q.part) && q.inKeep then
    c.modRec fun r => { r with stopped := true }
  else c

/-- At the entry to SAFE-HOLD the recorder closes every open record, drains its queue and then stops (R367). -/
def Chip.recSafeHold (c : Chip) : Chip := (((c.closeAll 4).modRec fun r => { r with stopping := true }).drainGo true).recStop

end Sys2Proof.Machine
end

