-- ==== Sys2Proof/Machine/Watch.lean ====
section
/-! DEFINITION. What the rest of the block needs of the watchdog (R406 to R413): its periods and the level on WDO. -/

namespace Sys2Proof.Machine

/-- A new first period begins: PERIOD is taken now (R410). -/
def Chip.wdgFirst (c : Chip) : Chip :=
  (c.clr WDG_STAT.PHASE).modWdg fun w => { w with period := some (c.tb, c.get WDG_CTL.PERIOD * 1000000), frozen := none }

/-- The watchdog holds no period. -/
def Chip.wdgStop (c : Chip) : Chip := (c.clr WDG_STAT.PHASE).modWdg fun w => { w with period := none, frozen := none }

/-- The watchdog counts in the mode in force (R411). -/
def Chip.wdgCounts (c : Chip) : Bool :=
  c.flag WDG_CTL.EN && (if c.flag WDG_CTL.RUNONLY then c.mode == mRUN || c.mode == mFOLLOW else c.mode != mLOAD)

/-- The remaining time of the period in progress in nanoseconds. -/
def Chip.wdgLeft (c : Chip) : Nat :=
  match c.wdg.frozen, c.wdg.period with
  | some n, _ => n
  | none, some (t, l) => t.toNat + l - c.t
  | none, none => 0

/-- The debug port holds an engine or a core halted (R412). -/
def Chip.debugHalts (c : Chip) : Bool := c.engs.toList.any (·.halted) || c.cores.toList.any (·.halted)

/-- A first period begins in a frozen watchdog, too: it keeps its whole length until the halt ends (R412). -/
def Chip.wdgRestart (c : Chip) : Chip :=
  let c := c.wdgFirst
  if c.debugHalts then c.modWdg fun w => { w with frozen := some c.wdgLeft } else c

/-- Entry to a mode (R411): a counting mode starts a first period, any other ends the period (DEDUCED, log entry 12). -/
def Chip.wdgMode (c : Chip) : Chip := if c.wdgCounts then c.wdgRestart else c.wdgStop

/-- Counting freezes while a debug halt lasts and resumes with what remained (R412). -/
def Chip.wdgFreeze (c : Chip) : Chip :=
  if c.debugHalts then
    if c.wdg.period.isSome && c.wdg.frozen.isNone then
      (c.set1 WDG_STAT.FROZEN).modWdg fun w => { w with frozen := some c.wdgLeft }
    else c.set1 WDG_STAT.FROZEN
  else match c.wdg.frozen with
    | some n => (c.clr WDG_STAT.FROZEN).modWdg fun w =>
      { w with period := w.period.map fun p => (c.tb + BitVec.ofNat 64 n - BitVec.ofNat 64 p.2, p.2), frozen := none }
    | none => c.clr WDG_STAT.FROZEN

/-- The debug port locks: every halt that it holds is released (R482). -/
def Chip.releaseHalts (c : Chip) : Chip :=
  let c := c.forFin 16 fun e c => c.modEng e fun g => { g with halted := false }
  (c.forFin 2 fun m c => c.modCore m fun k => { k with halted := false, step := false }).wdgFreeze

/-- The level on WDO (R406): WDOV, or the published value of the selected Q bit. -/
def Chip.wdo (c : Chip) (published : Bool) : Chip :=
  c.putB WDG_STAT.WDOLVL (if c.flag WDG_CTL.SRC then published else c.flag WDG_WDO.WDOV)

/-- The published value of a Q bit, by its bit address. -/
def Chip.pubQBit (c : Chip) (b : Nat) : Bool := (c.ldB (0x2C002000 + (b - 0x10000) / 8)).getLsbD (b % 8)

/-- WDO drives the level that SRC selects (R406). -/
def Chip.wdoNow (c : Chip) : Chip := c.wdo (c.pubQBit c.wdg.qbit)

/-- The QBIT that is set comes into force, at LOAD and with a publication (R406). -/
def Chip.wdoTake (c : Chip) : Chip := (c.modWdg fun w => { w with qbit := c.get WDG_SRCBIT.QBIT }).wdoNow

end Sys2Proof.Machine
end

