-- ==== Sys2Proof/Machine/Modes.lean ====
section
/-! DEFINITION. Mode changes (R28 to R37) with what they do to the ring gates, the claim, the tasks, the force table and the
recorder, and the reporting of faults (R282 to R290, R504), which can itself enter SAFE-HOLD. -/

namespace Sys2Proof.Machine

/-! ### A new TB -/

/-- The counts of the crystal since the instant of the last known PRE (R19, R394): none at that instant. -/
def Chip.crystal (c : Chip) : Nat := if c.rtc.preAt = c.tb then 0 else Config.crystalCounts c.rtc.secs c.rtc.preAt c.tb

/-- TB takes a value in one step (R49, R256). The instants from which the clock, the supervisor, the interlock, the watchdog, the recorder, the
guard, the Turnstile and the field update measure a span are moved with it (DEDUCED, log entry 74: no span passes in that step). -/
def Chip.loadTb (c : Chip) (t : Time) : Chip :=
  let d := t - c.tb
  { c with
    tb := t
    rtc := { c.rtc with
      pre := c.rtc.pre + c.crystal, preAt := t, ppsAt := c.rtc.ppsAt.map (· + d), ppsOn := c.rtc.ppsOn.map (· + d) }
    pwr := { c.pwr with goodAt := c.pwr.goodAt.map (· + d) }
    hsb := { c.hsb with
      relSince := c.hsb.relSince.map (· + d), p1At := c.hsb.p1At + d, p2At := c.hsb.p2At + d, p1Lost := c.hsb.p1Lost.map (· + d)
      lineAt := c.hsb.lineAt + d, outAt := c.hsb.outAt + d, quiet := c.hsb.quiet.map (· + d), target := c.hsb.target.map fun e => (e.1 + d, e.2)
      replay := c.hsb.replay.map fun f => { f with sentAt := f.sentAt + d } }
    wdg := { c.wdg with period := c.wdg.period.map fun p => (p.1 + d, p.2), key := c.wdg.key.map fun k => (k.1, k.2.1 + d, k.2.2) }
    nvs := { c.nvs with inc := c.nvs.inc.map fun i => (i.1, i.2.1, i.2.2 + d) }
    rcd := { c.rcd with drainAt := c.rcd.drainAt + d, comm := c.rcd.comm.map (· + d) }
    grd := { c.grd with refused := (c.grd.refused.map fun _ => t.toNat / 1000000000).dedup, since := c.grd.since + d, dbgUntil := c.grd.dbgUntil.map (· + d) }
    mim := { c.mim with frameAt := c.mim.frameAt.map fun f => (BitVec.ofNat 64 f + d).toNat }
    pins := { c.pins with xspiAt := c.pins.xspiAt.map (· + d) }
    upd := { c.upd with waitOk := c.upd.waitOk.map (· + d), window := c.upd.window.map (· + d) }
    turn := c.turn.map fun a => { a with since := a.since + d }
    sys := { c.sys with stopAt := c.sys.stopAt + d } }

/-! ### Interlock and gates -/

/-- The running image declares the unit a pair member (Table 2.5). -/
def Chip.pairMember (c : Chip) : Bool := match c.image with
  | some i => i.paired
  | none => false

/-- The transmit gate of the rings (R238, R269): open in STOP, RUN, SAFE-HOLD and INTERMISSION, to a unit that is not fenced and
that, as a pair member, asserts its own confirmed claim (DEDUCED, log entry 10: a fenced unit's gate is closed, pair member or not). -/
def Chip.gateOpen (c : Chip) : Bool :=
  (c.mode == mSTOP || c.mode == mRUN || c.mode == mSAFE || c.mode == mINTER) && !c.pins.fence && !c.flushing &&
    (!c.pairMember || c.get HSB_STATE.CLM == 2)

/-- The address of word `i` of the acyclic slot of tag `t` (Table 8.9). -/
def acAddr (r t i : Nat) : Nat := 0x40050000 + 0x4000 * r + 0x2000 + 0x80 * t + 4 * i
/-- STATUS, RLEN and SERR of an acyclic slot. -/
def acStatus (r t : Nat) : Fld := ⟨acAddr r t 2, 3, 0⟩
def acRlen (r t : Nat) : Fld := ⟨acAddr r t 2, 15, 8⟩
def acSerr (r t : Nat) : Fld := ⟨acAddr r t 2, 23, 16⟩
def acOwner (r t : Nat) : Fld := ⟨acAddr r t 2, 31, 24⟩

/-- An acyclic transaction completes with a status: its completion bit and ACMP set (R240). -/
def Chip.acDone (c : Chip) (r : Fin 4) (t : Fin 64) (status : Nat) : Chip :=
  let c := (c.put (acStatus r t) status).set1 (STN_STAT.ACMP r)
  let c := if t.val < 32 then c.setBit (STN_ACMP0.CMP r) t else c.setBit (STN_ACMP1.CMP r) (t - 32)
  c.modRing r fun g => { g with acq := g.acq.filter (· != t), sent := g.sent.filter (·.1 != t) }

/-- The tags of a ring that are pending. -/
def Chip.acPending (c : Chip) (r : Fin 4) : List (Fin 64) := (c.ring r).acq ++ ((c.ring r).sent.map (·.1))

/-- A ring's gate closes (R238): any frame is aborted, pending acyclic transactions complete with status 7, and the ring is GATED. -/
def Chip.gateRing (c : Chip) (r : Fin 4) : Chip :=
  if c.get (STN_LAT.STATE r) == 0 || c.get (STN_LAT.STATE r) == 6 then c
  else
    let c := c.forIn (c.acPending r) fun t c => c.acDone r t 7
    ((c.put (STN_LAT.STATE r) 6).turnEnd 5 (.ring r)).modRing r fun g => { g with cyc := none }

/-- A ring's gate opens: it continues from the state that the partner last reported (R238, R270), a ring that the partner had enumerated as an
enumerated one. Without a report of a ring that carries traffic it trains (DESIGN CHOICE, log entry 11: Table 8.5 names no state after GATED). -/
def Chip.ungateRing (c : Chip) (r : Fin 4) : Chip :=
  if c.get (STN_LAT.STATE r) != 6 then c
  else match c.hsb.report with
    | some (_, l) =>
      match l[r.val]? with
      | some g =>
        if g.state = 0 || g.state = 6 then c.put (STN_LAT.STATE r) 1
        else (((c.put (STN_LAT.STATE r) g.state).put (STN_LAT.RTD r) g.rtd).put (STN_CYCNO.CYCNO r) g.cycno.toNat).modRing r fun q =>
          { q with enumerated := q.enumerated || g.state == 3 || g.state == 4 }
      | none => c.put (STN_LAT.STATE r) 1
    | none => c.put (STN_LAT.STATE r) 1

/-- The gates follow the mode, the claim and the fence. -/
def Chip.updateGates (c : Chip) : Chip :=
  c.forFin 4 fun r c => if c.gateOpen then c.ungateRing r else c.gateRing r

/-- What the lines of ILK_IN say (R261); in legacy mode the true line alone carries the claim (R279). -/
def Chip.readIlk (c : Chip) : Chip :=
  let lgc := c.flag HSB_STATE.LGC
  let t := c.flag HSB_ILK.INT
  let n := c.flag HSB_ILK.INC
  let rel := !t && (n || lgc)
  let ass := t && (!n || lgc)
  let c := ((c.putB HSB_ILK.INASS ass).putB HSB_ILK.INRELD rel).modHsb fun h => { h with relSince := if rel then some (h.relSince.getD c.tb) else none }
  { c with pins := { c.pins with partnerClaims := ass } }

/-- The legacy mode ends without hand-over (R280). -/
def Chip.legacyFail (c : Chip) : Chip :=
  if !c.flag HSB_STATE.LGC then c
  else
    let c := ((c.set1 HSB_STAT.LGCFAIL).clr HSB_STATE.LGC).modHsb fun h => { h with legacy := none, lgcNext := none }
    let c := c.readIlk
    if c.get HSB_STATE.ROLE == 5 then c.put HSB_STATE.ROLE 3 else c

/-- A unit that leaves STOP is no longer the target of a resync (DESIGN CHOICE, log entry 94: R277 names no failure for it). -/
def Chip.dropTarget (c : Chip) : Chip :=
  if c.hsb.target.isNone then c
  else
    let c := (c.put HSB_RSSTAT.PHASE 0).modHsb fun h => { h with target := none }
    if c.get HSB_STATE.ROLE == 4 then c.put HSB_STATE.ROLE 3 else c

/-- The claim is released: ILK_OUT_T low and ILK_OUT_C high (R261, R264). -/
def Chip.releaseClaim (c : Chip) : Chip :=
  ((((c.put HSB_STATE.CLM 0).clr HSB_ILK.OUTT).set1 HSB_ILK.OUTC).modHsb fun h => { h with claim := none }).updateGates

/-! ### Input forces and the force table -/

/-- Write bits `[32 w + 31 : 32 w]` of an image of bits: one bit of it. -/
def imgSetBit (i : Nat) (v : Bool) (l : List (Nat × Word)) : List (Nat × Word) :=
  let w := imgGet l (i / 32)
  let m := (1 : Word) <<< (i % 32)
  imgSet (i / 32) (if v then w ||| m else w &&& ~~~m) l

/-- An input force that takes effect is written into the latest complete cycle at once (Table 7.6); each later cycle, and an immediate
read, applies it too. -/
def Chip.forceInput (c : Chip) (f : Force) : Chip :=
  match f.cur with
  | none => c
  | some v =>
    if f.sym.space = 0 then
      (c.modImg fun m => { m with rxB := imgSetBit f.sym.loc (v.getLsbD 0) m.rxB }).markWords imgRxBits (f.sym.loc / 32) 1
    else if f.sym.space = 2 then
      (c.modImg fun m => { m with rxW := imgSet f.sym.loc (v.setWidth 32) m.rxW }).markWords imgRxWords f.sym.loc 1
    else c

/-- FCNT follows the table. -/
def Chip.fcnt (c : Chip) : Chip := c.put OLC_FINFO.FCNT c.olc.forces.length

/-- The staged changes of the entries that `p` selects take effect (R209). -/
def Chip.forceEffect (c : Chip) (p : Force → Bool) : Chip :=
  let upd (f : Force) : Option Force :=
    if !p f then some f
    else match f.pend with
      | none => some f
      | some .clear => none
      | some (.set v) => some { f with cur := some v, pend := none }
  let c := c.modOlc fun o => { o with forces := o.forces.filterMap upd }
  (c.forIn (c.olc.forces.filter p) fun f c => c.forceInput f).fcnt

/-! ### Mode entries -/

/-- A ring retrains under its admission (R241, R451); a gated one keeps silent (R238). -/
def Chip.retrain (c : Chip) (r : Fin 4) : Chip :=
  if c.get (STN_LAT.STATE r) = 6 then c
  else (((c.put (STN_LAT.STATE r) 1).modRing r fun g => { g with cyc := none, lostAt := c.tb })).turnAsk 5 (.ring r)

/-- Configured rings that are down begin to train, and at a wake the awake ring retrains (R225, R451); so does the sync link of a pair member. Every
training takes admission (R445; DEDUCED, log entry 64). -/
def Chip.ringsUp (c : Chip) (wake : Bool) : Chip :=
  let c := c.forFin 4 fun r c => if c.get (STN_STATE.NSTN r) ≠ 0 && (wake || c.get (STN_LAT.STATE r) = 0) then c.retrain r else c
  if c.pairMember then c.turnAsk 5 .link else c

/-- The mode controller enters a mode (SYS_MODE). The rings come up where they were idle, and the host link leaves L1 with INTERMISSION (R331). -/
def Chip.enterMode (c : Chip) (m reason : Nat) : Chip :=
  let was := c.mode
  let c := if m == mSTOP || m == mFOLLOW then c else c.dropTarget.legacyFail
  let c := ((((c.put SYS_MODE.PREV was).put SYS_MODE.MODE m).put SYS_MODE.REASON reason).clr SYS_MODE.TRANS).clr SYS_MODE.TARGET
  let c := if (was == mLOAD || was == mINTER) && (m == mSTOP || m == mSAFE) then c.ringsUp (was == mINTER) else c
  let c := if was == mINTER then c.linkRest false else c
  let c := if m == mSTOP then c.modFlt fun f => { f with live := true } else c
  (c.modSys fun y => { y with modeLine := true }).wdgMode.canPolicy

/-- The counts of queued requests (FLT_EQ). -/
def Chip.eqCounts (c : Chip) : Chip :=
  ((c.put FLT_EQ.EXECQ c.flt.execQ.length).put FLT_EQ.COMMQ c.flt.commQ.length).put FLT_EQ.SYSQ c.flt.sysQ.length

/-- Every queued error-task request is discarded, those of the ring queues included (R283, R504). -/
def Chip.dropRequests (c : Chip) : Chip :=
  let c := (c.modFlt fun f => { f with execQ := [], commQ := [], sysQ := [] }).eqCounts
  c.forFin 4 fun r c => c.modRing r fun g => { g with ioq := [] }

/-- Every activation ends without OUTPUT, and the journals are discarded (R31); releases stop and outputs are substituted. -/
def Chip.endTasks (c : Chip) : Chip :=
  let c := c.forFin 16 fun e c =>
    let n := match (c.eng e).mismatch with
      | some t => if (c.eng e).mmGone.isNone then some (c.task t).mm else (c.eng e).mmGone
      | none => none
    ((c.modEng e fun g => { g with run := none, mmGone := n }).clr (SHD_LEJRN.USED e)).turnEnd 4 (.le e)
  let c := (c.turnEnd 4 .shadow).modSys fun y => { y with copying := none }
  let c := c.forFin 32 fun t c =>
    let c := c.modTask t fun k =>
      { k with live := false, waiting := false, admitted := false, inBlock := false, resumed := false, hits := 0, serves := none, fired := false,
               delayed := false, lateDue := none, old := none, token := none, inpart := none, reexec := false, warm := false, warmLeft := none, steps := 0, ledgUsed := 0,
               ledgPos := 0, mm := 0, endmk := [], ends := [], hashes := [], partnerHash := [] }
    let c := ((c.put (SCN_TSTAT.PHASE t) 0).clr (SCN_TSTAT.ACT t)).clr (SCN_TSTAT.HELD t)
    let c := c.clr (SHD_TSTAT.WARM t)
    if c.kind t == kCYC then c.set1 (SCN_TSTAT.SUBST t) else c
  let c := (c.forFin 18 fun p c => c.modPh p fun _ => ⟨[], [], []⟩).modImg fun m => { m with queue := [] }
  c.modSys fun y => { y with startup := none, anchored := false }

/-- A resync that this unit sends or receives fails (R277). -/
def Chip.resyncFail (c : Chip) (rsn : Nat) : Chip :=
  if c.hsb.resync.isNone && c.hsb.target.isNone then c
  else
    let c := ((c.put HSB_RSSTAT.PHASE 6).put HSB_RSSTAT.FAILRSN rsn).set1 HSB_STAT.RSFAIL
    let c := (c.clr HSB_STATE.RSSRC).modHsb fun h => { h with resync := none, target := none }
    if c.get HSB_STATE.ROLE == 4 then c.put HSB_STATE.ROLE 3 else c

/-- The payload of a frame in bytes (Table 9.3; where the table gives no size, DESIGN CHOICE, log entry 95). -/
def payload (m : SyncMsg) : Nat :=
  match m with
  | .hb _ => 16
  | .token .. => 32
  | .inpart _ b w => 4 * (b.length + w.length)
  | .ledger .. => 20
  | .retract .. => 8
  | .endmk .. => 8
  | .hash .. => 12
  | .stage .. => 12
  | .status .. => 76
  | .rspage .. => 4104
  | .rsctl (.join _) => 16384
  | .rsctl _ => 4

/-- A frame with its header and CRC (R246). -/
def frameSize (m : SyncMsg) : Nat := 20 + payload m

/-- The frames that find room in the replay buffer are sent with the next FSEQ; the others go on waiting. -/
def sendOut (now : Time) : List SyncMsg → Word → Nat → List SyncSent × List SyncMsg × Word
  | [], f, _ => ([], [], f)
  | m :: l, f, room =>
    if room < frameSize m then ([], m :: l, f)
    else
      let r := sendOut now l (f + 1) (room - frameSize m)
      (⟨f, 0, now, m⟩ :: r.1, r.2.1, r.2.2)

/-- Frames that wait are sent as far as the 64 KiB of the replay buffer allow (R247). -/
def Chip.sendWaiting (c : Chip) : Chip := c.modHsb fun h =>
  let r := sendOut c.tb h.outq h.fseq (65536 - (h.replay.map fun e => frameSize e.msg).sum)
  { h with replay := h.replay ++ r.1, outq := r.2.1, fseq := r.2.2 }

/-- Send a frame to the partner (R247): it stays in the replay buffer until it is acknowledged. -/
def Chip.send (c : Chip) (m : SyncMsg) : Chip :=
  if c.pairMember && (c.flag HSB_LINK.LANE0 || c.flag HSB_LINK.LANE1) then
    (c.modHsb fun h => { h with outq := h.outq ++ [m] }).sendWaiting
  else c

/-- This unit requests resync (R257, R267, R271): RSTMO is taken with the request. -/
def Chip.wantRs (c : Chip) : Chip := c.modHsb fun h => { h with wantResync := true, reqTmo := c.get HSB_RSCFG.RSTMO }

/-- This unit is active and its partner executes in lockstep. -/
def Chip.leading (c : Chip) : Bool := c.mode == mRUN && c.flag HSB_STATE.LOCKED

/-- The end of lockstep as the active unit records it (R257). -/
def Chip.unlock (c : Chip) (llrsn : Nat) : Chip :=
  if c.flag HSB_STATE.LOCKED then
    let c := (((c.clr HSB_STATE.LOCKED).set1 HSB_STAT.LOCKLOST).incSat HSB_SYNCSTAT.LLCNT).put HSB_SYNCSTAT.LLRSN llrsn
    c.post 0x006 (BitVec.ofNat 32 llrsn)
  else c

/-- What leaving RUN does to a resync and to lockstep (R257, R277). A HANDOVER keeps the pair locked (R271); one whose notice still waits for its
acknowledgement ends with RUN (DESIGN CHOICE, log entry 126). -/
def Chip.leaveRun (c : Chip) : Chip :=
  if c.mode == mRUN then
    let c := if c.hsb.resync.isSome then (c.send (.rsctl (.abort 4))).resyncFail 4 else c
    let c := c.modHsb fun h => { h with staged := [] }
    if c.sys.handing then c else (c.modHsb fun h => { h with handover := none, handoverAck := false }).unlock 6
  else c

/-- An armed activation is cancelled, and the package stays staged (R205). -/
def Chip.cancelArmed (c : Chip) : Chip :=
  if c.get OLC_STATE.STATE == 3 then
    ((c.put OLC_STATE.STATE 2).set1 OLC_STAT.ABORT).modOlc fun o => { o with hold := false, fwd := none }
  else c

/-- At once, without the scans' ends, a migration stops too (R206; at an entry to STOP that waits for no scan DEDUCED, log entry 116). -/
def Chip.cancelAct (c : Chip) : Chip :=
  if c.get OLC_STATE.STATE == 4 then (c.put OLC_STATE.STATE 2).set1 OLC_STAT.ABORT else c.cancelArmed

/-- STOP is entered: queued requests are discarded (R504), staged force changes take effect (R209), outputs take substitute values,
the instant counts for R501, CAN controllers of the image start (R313), and MC0 requests to write the image that LOAD has converted (R46). -/
def Chip.enterStop (c : Chip) (reason : Nat) : Chip :=
  let c := c.leaveRun.cancelAct
  let c := ((c.enterMode mSTOP reason).endTasks).dropRequests
  let c := c.forceEffect fun _ => true
  let c := if c.pairMember then c.put HSB_STATE.ROLE 3 else c
  let c := if c.sys.conv.isSome then c.turnAsk 0 .xspi else c
  (c.modSys fun y => { y with stopAt := c.tb }).canStart.updateGates

/-- Lockstep is lost on the standby (R257): it leaves FOLLOW for STOP with REASON 0x0A and then requests resync. -/
def Chip.lockstepLost (c : Chip) (llrsn : Nat) : Chip :=
  if c.mode == mFOLLOW then
    (((c.unlock llrsn).enterStop 0x0A).modHsb fun h => { h with ledger := [], staged := [] }).wantRs
  else c

/-- SAFE-HOLD is entered (R31): tasks are abandoned without OUTPUT, the journals and every queued request discarded, the outputs of
every task substituted from the next cycle. A migration stops (R206), a fenced unit releases its claim (R264, R269), and so does a unit
that was locked and enters through a UNIT fault; a unit that was locked falls silent. The recorder closes its records (R367). The start mode of the
image is dropped (DESIGN CHOICE, log entry 127), and a UNIT fault that comes in a SAFE-HOLD entered by FENCE_N bars LEAVE_SAFEHOLD too (DESIGN
CHOICE, log entry 128). -/
def Chip.enterSafeHold (c : Chip) (reason : Nat) (unit : Bool) : Chip :=
  let locked := c.flag HSB_STATE.LOCKED
  let c := c.modSys fun y => { y with unitHold := y.unitHold || unit, handing := false }
  if c.mode == mSAFE then c
  else
    let c := c.leaveRun
    let c := ((c.enterMode mSAFE reason).endTasks).dropRequests
    let c := c.cancelAct
    let c := c.forceEffect fun _ => true
    let c := if locked then c.set1 HSB_STATE.SIL else c
    let c := if c.pins.fence || (unit && locked) then c.releaseClaim else c
    let c := if c.pairMember then c.put HSB_STATE.ROLE 3 else c
    (c.modSys fun y => { y with runReq := none, start := none }).recSafeHold.updateGates

/-! ### Fault reporting -/

/-- The log record of a fault (Table 10.3), with every count and post that goes with it; LOGSEQ takes the record's value (R282). -/
def Chip.logFault (c : Chip) (cls ocls : Nat) (esc : Bool) (skind inst cause agent : Nat) : Chip :=
  let idx := c.get FLT_LOGSEQ.SEQ % 64
  let w0 : Word := BitVec.ofNat 32 (cause + 2 ^ 8 * cls + 2 ^ 10 * ocls + 2 ^ 12 * esc.toNat + 2 ^ 24 * skind)
  let w1 : Word := BitVec.ofNat 32 (inst % 2 ^ 16 + 2 ^ 16 * agent)
  let r : Vector Word 4 := #v[w0, w1, c.tb.setWidth 32, c.tb.extractLsb' 32 32]
  (c.modFlt fun f => { f with log := f.log.setIfInBounds idx r }).incWrap FLT_LOGSEQ.SEQ

/-- The class counter, the FLT_STAT bits and the recorder post of a fault (Tables 10.1 and 13.1). -/
def Chip.countFault (c : Chip) (cls inst cause agent : Nat) : Chip :=
  let c := match cls with
    | 0 => (c.incSat FLT_CNTA.NOTECNT).set1 FLT_STAT.NOTE
    | 1 => (c.incSat FLT_CNTA.DEGCNT).set1 FLT_STAT.DEG
    | 2 => ((c.incSat FLT_CNTB.TASKCNT).set1 FLT_STAT.TASK).set1 FLT_STAT.DEG
    | _ => (c.set1 FLT_STAT.UNIT).set1 FLT_STAT.DEG
  c.post (0x100 + cause) (BitVec.ofNat 32 (inst % 2 ^ 16 + 2 ^ 16 * agent))

/-- The error task that a fault requests: SUB code and the entry registers; those of ERR_SYS come from the record (Table 10.5). -/
inductive ReqFor where
  | none
  | sys
  | exec (acc ach ix iy : Word)
  | comm (acc : Word)
  | io (r : Fin 4) (acc ach : Word)
deriving DecidableEq, Repr

/-- Insert a request after those of its class or above: descending class, oldest first within a class (R289). -/
def insertReq (r : ErrReq) : List ErrReq → List ErrReq
  | [] => [r]
  | q :: l => if q.cls < r.cls then r :: q :: l else q :: insertReq r l

/-- Whether requests are queued now (R504): in RUN and FOLLOW, outside the transition from RUN to STOP. -/
def Chip.queues (c : Chip) : Bool := c.scanning && !(c.mode == mRUN && c.flag SYS_MODE.TRANS)

/-- A request that finds its queue full is lost (R289). -/
def Chip.lostReq (c : Chip) : Chip :=
  let c := (c.set1 FLT_STAT.FQOVF).incSat FLT_CNTB.LOSTCNT
  (c.logFault 1 1 false 0x0F 0 0x4B 0).countFault 1 0 0x4B 0

/-- Queue a request for an error task that is configured. -/
def Chip.request (c : Chip) (rf : ReqFor) (q : ErrReq) : Chip :=
  if !c.queues then c
  else match rf with
    | .none => c
    | .sys =>
      if (c.errTask 3).isNone then c
      else if 8 ≤ c.flt.sysQ.length then c.lostReq
      else (c.modFlt fun f => { f with sysQ := insertReq q f.sysQ }).eqCounts
    | .exec acc ach ix iy =>
      if (c.errTask 1).isNone then c
      else if 8 ≤ c.flt.execQ.length then c.lostReq
      else (c.modFlt fun f => { f with execQ := insertReq { q with acc, ach, ix, iy } f.execQ }).eqCounts
    | .comm acc =>
      if (c.errTask 2).isNone then c
      else if 8 ≤ c.flt.commQ.length then c.lostReq
      else (c.modFlt fun f => { f with commQ := insertReq { q with acc, ach := c.tb.setWidth 32, ix := 0, iy := 0 } f.commQ }).eqCounts
    | .io r acc ach =>
      if (c.errTask 0).isNone then c
      else if 16 ≤ (c.ring r).ioq.length then (c.set1 (STN_STAT.EVQOVF r)).lostReq
      else c.modRing r fun g => { g with ioq := g.ioq ++ [{ q with acc, ach, ix := 0, iy := 0 }] }

/-- The records of the faults in handling or queued (R286). -/
def Chip.handling (c : Chip) : List ErrReq :=
  (List.finRange 32).filterMap (fun t => (c.task t).serves) ++ c.flt.execQ ++ c.flt.commQ ++ c.flt.sysQ ++
    (List.finRange 4).flatMap fun r => (c.ring r).ioq

/-- A repeat is counted in the earlier record (R288), if the log still holds it, and as a TASK fault it starts a drain (R366). -/
def Chip.repeatFault (c : Chip) (q : ErrReq) (cls inst cause agent : Nat) : Chip :=
  let idx := (q.seq + 63) % 64
  let held := c.get FLT_LOGSEQ.SEQ < q.seq + 64
  let bump (w : Word) : Word := let n := w.toNat / 2 ^ 16 % 256; if n < 255 then w + 0x10000 else w
  let upd (r : Vector Word 4) : Vector Word 4 := r.set 0 (bump r[0])
  let c := c.doIf held fun c => c.modFlt fun f => { f with log := f.log.setIfInBounds idx (upd (f.log.getD idx (Vector.replicate 4 0))) }
  (c.countFault cls inst cause agent).doIf (cls = 2) (·.drainGo true)

/-- The fault in handling or queued that a new one repeats (R286, Table 10.4). -/
def Chip.repeats (c : Chip) (cls skind inst cause : Nat) : Option ErrReq :=
  if 3 ≤ cls then none else c.handling.find? fun q => q.skind == skind && q.inst == inst && q.cause == cause

/-- A fault of an error activation rises by one class, at most to UNIT (R287, Table 10.4). -/
def Chip.escalates (c : Chip) (cls skind inst cause : Nat) (act : Option (Fin 32)) : Bool :=
  (match act with
    | some t => c.kind t == kERR && (c.task t).live
    | none => false) && cls < 3 && (cls = 2 || (c.repeats cls skind inst cause).isNone)

/-- The FLT_LOGSEQ value of the record of a fault that comes now (R282): that of the earlier record where it is a repeat. -/
def Chip.faultWhen (c : Chip) (cls skind inst cause : Nat) : Nat :=
  match c.repeats cls skind inst cause with
  | some q => q.seq
  | none => (c.get FLT_LOGSEQ.SEQ + 1) % 2 ^ 32

/-- The fault manager receives a fault (R286, Table 10.4). `act` is the activation that raised it, `rf` the error task that it
requests. A UNIT fault during LOAD ends the boot (R35). One that the start-up task raises leads to SAFE-HOLD as any other (DESIGN CHOICE, log
entry 121: R51 says STOP for a TASK or higher fault of that task, Table 2.2 SAFE-HOLD for a UNIT fault). -/
def Chip.fault (c : Chip) (cls skind inst cause : Nat) (agent : Nat := 0) (rf : ReqFor := .none) (act : Option (Fin 32) := none) : Chip :=
  let byErr := c.escalates cls skind inst cause act
  let ecls := if byErr then cls + 1 else cls
  match c.repeats ecls skind inst cause with
  | some q => c.repeatFault q ecls inst cause agent
  | none =>
    let c := ((c.logFault ecls cls byErr skind inst cause agent).countFault ecls inst cause agent).doIf byErr (·.incSat FLT_CNTB.ESCCNT)
    let seq := c.get FLT_LOGSEQ.SEQ
    let rec0 := c.flt.log.getD ((seq + 63) % 64) (Vector.replicate 4 0)
    let q : ErrReq := ⟨ecls, seq, skind, inst, cause, rec0[0], c.tb.setWidth 32, rec0[1], BitVec.ofNat 32 seq⟩
    if 3 ≤ ecls then
      if c.mode == mLOAD then (c.put SYS_BOOTSTAT.CFGERR 7).modSys fun y => { y with loadHalt := true, unitHold := true }
      else c.enterSafeHold 3 true
    else
      let c := if byErr then c else c.request rf q
      if ecls = 2 then c.drainGo true else c

/-- A DEGRADE fault that requests ERR_SYS (Table 10.6). -/
def Chip.degradeSys (c : Chip) (skind inst cause : Nat) : Chip := c.fault 1 skind inst cause 0 .sys

/-- A DEGRADE fault of the pair, which requests ERR_COMM with its cause and argument on a unit in RUN (R281, Table 9.9). -/
def Chip.pairFault (c : Chip) (cause arg : Nat) : Chip :=
  c.fault 1 0x04 0 cause 0x48 (if c.mode == mRUN then .comm (BitVec.ofNat 32 (cause + 256 * arg)) else .none)

end Sys2Proof.Machine
end

