-- ==== Sys2Proof/Machine/Can.lean ====
section
/-! DEFINITION. The CAN FD controllers (R309 to R329). -/

namespace Sys2Proof.Machine

/-! ### Message objects -/

/-- The address of a byte of message object `k` (R315). -/
def canObj (n : Fin 4) (k ofs : Nat) : Nat := 0x3A000000 + 0x6000 * n.val + 0x60 * k + ofs

/-- A word of a message object. -/
def Chip.objW (c : Chip) (n : Fin 4) (k ofs : Nat) : Word := BitVec.ofNat 32 (c.ld (canObj n k ofs) 4)
/-- A field of the configuration word. -/
def Chip.objCfg (c : Chip) (n : Fin 4) (k hi lo : Nat) : Nat := (Fld.mk 0 hi lo).of (c.objW n k 0)
/-- A one-bit field of the configuration word. -/
def Chip.objFlag (c : Chip) (n : Fin 4) (k i : Nat) : Bool := c.objCfg n k i i != 0
/-- A field of the status word at 0x18. -/
def Chip.objStat (c : Chip) (n : Fin 4) (k hi lo : Nat) : Nat := (Fld.mk 0 hi lo).of (c.objW n k 0x18)
/-- The controller writes a field of the status word. -/
def Chip.objPut (c : Chip) (n : Fin 4) (k hi lo v : Nat) : Chip :=
  c.st (canObj n k 0x18) 4 ((Fld.mk 0 hi lo).ins (c.objW n k 0x18) v).toNat
/-- A write of the controller is over: SEQ is even again (R318). -/
def Chip.objSeq (c : Chip) (n : Fin 4) (k : Nat) : Chip := let s := c.objStat n k 31 24; c.objPut n k 31 24 (s + 2 - s % 2)

/-- TXST of an object, with its bit of CAN_TXPEND. -/
def Chip.objTxst (c : Chip) (n : Fin 4) (k v : Nat) : Chip :=
  let c := (c.objPut n k 10 8 v).objSeq n k
  if v = 1 then c.setBit (CAN_TXPEND.PEND n (k / 32)) (k % 32) else c.clrBit (CAN_TXPEND.PEND n (k / 32)) (k % 32)

/-- TXST of object `k`. -/
def Chip.txst (c : Chip) (n : Fin 4) (k : Nat) : Nat := c.objStat n k 10 8

/-- The object is enabled, by itself or in a FIFO. -/
def Chip.objEna (c : Chip) (n : Fin 4) (k : Nat) : Bool := c.bitOf (CAN_ENA.ENA n (k / 32)) (k % 32)
/-- The object holds a frame that is not released. -/
def Chip.objNew (c : Chip) (n : Fin 4) (k : Nat) : Bool := c.bitOf (CAN_NEW.NEW n (k / 32)) (k % 32)
/-- ENA of an object. -/
def Chip.putEna (c : Chip) (n : Fin 4) (k : Nat) (v : Bool) : Chip :=
  if v then c.setBit (CAN_ENA.ENA n (k / 32)) (k % 32) else c.clrBit (CAN_ENA.ENA n (k / 32)) (k % 32)
/-- NEW of an object. -/
def Chip.putNew (c : Chip) (n : Fin 4) (k : Nat) (v : Bool) : Chip :=
  if v then c.setBit (CAN_NEW.NEW n (k / 32)) (k % 32) else c.clrBit (CAN_NEW.NEW n (k / 32)) (k % 32)

/-- The length of a FIFO. -/
def Chip.fifoLen (c : Chip) (n : Fin 4) (f : Fin 8) : Nat := c.get (CAN_FIFOCFG.FLENM1 n f) + 1
/-- The enabled FIFO that holds an object (R320). -/
def Chip.fifoOf (c : Chip) (n : Fin 4) (k : Nat) : Option (Fin 8) := (List.finRange 8).find? fun f =>
  c.flag (CAN_FIFOCFG.FEN n f) && c.get (CAN_FIFOCFG.FBASE n f) ≤ k && k < c.get (CAN_FIFOCFG.FBASE n f) + c.fifoLen n f

/-- Payload bytes of a data length code. -/
def dlcBytes (fdf : Bool) (dlc : Nat) : Nat :=
  if dlc ≤ 8 then dlc else if fdf then [12, 16, 20, 24, 32, 48, 64].getD (dlc - 9) 64 else 8

/-! ### Requests -/

/-- TXREQ is accepted (R322). -/
def Chip.txStart (c : Chip) (n : Fin 4) (k : Nat) : Chip := (c.objPut n k 7 0 0).objTxst n k 1

/-- TXABORT of an object (R324): a request with its attempt in progress waits for the attempt's end. -/
def Chip.txAbort (c : Chip) (n : Fin 4) (k : Nat) : Chip :=
  if c.txst n k ≠ 1 then c
  else if (c.can n).attempt = some k then c.modCan n fun q => { q with abort := true }
  else c.objTxst n k 5

/-- DISABLE of an object (R317). -/
def Chip.objDisable (c : Chip) (n : Fin 4) (k : Nat) : Chip :=
  let c := c.txAbort n k
  if (c.can n).attempt = some k && c.txst n k = 1 then c.modCan n fun q => { q with disable := true } else c.putEna n k false

/-- A memory error disables an object as DISABLE does (R317, R329): an attempt in progress runs to its end, and its request then ends with TXST 5 in any
case. CAN_TXPEND tells whether a request is pending, since the word rewritten may be that of TXST. -/
def Chip.canMemErr (c : Chip) (n : Fin 4) (k : Nat) : Chip :=
  let c := (c.set1 (CAN_STAT.MEMERR n)).put (CAN_MEMERR.OBJ n) k
  if (c.can n).attempt = some k then c.modCan n fun q => { q with abort := true, disable := true, memErr := true }
  else (if c.bitOf (CAN_TXPEND.PEND n (k / 32)) (k % 32) then c.objTxst n k 5 else c).putEna n k false

/-- The chip itself sends a payload in an object (R266). -/
def Chip.canSendFrom (c : Chip) (n : Fin 4) (k : Nat) (pay : List Byte) : Chip :=
  if !c.objEna n k || !c.objFlag n k 0 || c.txst n k = 1 then c else (c.stBytes (canObj n k 0x20) pay).txStart n k

/-! ### Commands -/

/-- Who may write the CAN registers. -/
def canWriter (a : AgentId) : Bool := isMc a || isHost a

/-- A command of CAN_CMD (Table of CAN_CMDSTAT): `f` answers CMDERR. -/
def Chip.canCmd (c : Chip) (n : Fin 4) (w : Cmd) (f : Chip → Nat × Chip) : Chip :=
  (c.arrive w.now).allow (canWriter w.agent) w.agent (CAN_CMD.reg n) fun c =>
    if (CAN_CMD.KEY n).of w.value ≠ 0x6CA9 then c.put (CAN_CMDSTAT.CMDERR n) 1
    else
      let (e, c) := f c
      (c.put (CAN_CMDSTAT.LASTCMD n) ((CAN_CMD.CMD n).of w.value)).put (CAN_CMDSTAT.CMDERR n) e

/-- A word written to CAN_OBJCMD: `f` has the object and answers CMDERR. -/
def Chip.canObjRun (c : Chip) (n : Fin 4) (v : Word) (f : Nat → Chip → Nat × Chip) : Chip :=
  if (CAN_OBJCMD.KEY n).of v ≠ 0x6CA9 then c.put (CAN_CMDSTAT.CMDERR n) 1
  else
    let k := (CAN_OBJCMD.OBJ n).of v
    let (e, c) := f k c
    ((c.put (CAN_CMDSTAT.LASTCMD n) ((CAN_OBJCMD.CMD n).of v)).put (CAN_CMDSTAT.LASTOBJ n) k).put (CAN_CMDSTAT.CMDERR n) e

/-- A command of CAN_OBJCMD. -/
def Chip.canObjCmd (c : Chip) (n : Fin 4) (w : Cmd) (f : Nat → Chip → Nat × Chip) : Chip :=
  (c.arrive w.now).allow (canWriter w.agent) w.agent (CAN_OBJCMD.reg n) fun c =>
    c.canObjRun n w.value f

/-- RECOVER (R327). -/
def Chip.cmdRecover (n : Fin 4) (c : Chip) : Nat × Chip :=
  if c.get (CAN_ERR.ESTATE n) ≠ 2 then (2, c) else (0, (c.modCan n fun k => { k with permit := true }).canRecover n)

/-- ABORTALL (R324). -/
def Chip.cmdAbortAll (n : Fin 4) (c : Chip) : Nat × Chip :=
  (0, c.forFin 256 fun k c => if c.bitOf (CAN_TXPEND.PEND n (k.val / 32)) (k.val % 32) then c.txAbort n k.val else c)

/-- ENABLE (R316). -/
def Chip.cmdEnable (n : Fin 4) (k : Nat) (c : Chip) : Nat × Chip :=
  let fdf := c.objFlag n k 2
  if (c.objFlag n k 4 && fdf) || (c.objFlag n k 3 && !fdf) || c.objCfg n k 31 20 ≠ 0 || (c.fifoOf n k).isSome then (3, c)
  else (0, c.putEna n k true)

/-- DISABLE (R317); an object of a FIFO is refused, as ENABLE is (DESIGN CHOICE, log entry 19). -/
def Chip.cmdDisable (n : Fin 4) (k : Nat) (c : Chip) : Nat × Chip := if (c.fifoOf n k).isSome then (3, c) else (0, c.objDisable n k)

/-- TXREQ (R322); an object that is not an enabled send object is refused (DEDUCED, log entry 19). -/
def Chip.cmdTxreq (n : Fin 4) (k : Nat) (c : Chip) : Nat × Chip :=
  if c.txst n k = 1 || !c.objEna n k || !c.objFlag n k 0 then (2, c) else (0, c.txStart n k)

/-- TXABORT (R324). -/
def Chip.cmdTxabort (n : Fin 4) (k : Nat) (c : Chip) : Nat × Chip := (0, c.txAbort n k)

/-- CLRNEW (R320). -/
def Chip.cmdClrnew (n : Fin 4) (k : Nat) (c : Chip) : Nat × Chip :=
  match c.fifoOf n k with
  | none => (0, c.putNew n k false)
  | some f =>
    let g := c.get (CAN_FIFOSTAT.GET n f)
    let m := c.get (CAN_FIFOSTAT.COUNT n f)
    if k ≠ c.get (CAN_FIFOCFG.FBASE n f) + g then (3, c)
    else if m = 0 then (0, c)
    else (0, ((c.putNew n k false).put (CAN_FIFOSTAT.COUNT n f) (m - 1)).put (CAN_FIFOSTAT.GET n f) ((g + 1) % c.fifoLen n f))

/-- CAN_CMD is written: other codes are refused. -/
def Chip.canCmdWrite (c : Chip) (n : Fin 4) (w : Cmd) : Chip := c.canCmd n w fun c =>
  match (CAN_CMD.CMD n).of w.value with
  | 1 => c.cmdRecover n
  | 2 => c.cmdAbortAll n
  | _ => (2, c)

/-- What a word written to CAN_OBJCMD commands: other codes are refused. -/
def Chip.canObjDo (n : Fin 4) (v : Word) (k : Nat) (c : Chip) : Nat × Chip :=
  match (CAN_OBJCMD.CMD n).of v with
  | 1 => c.cmdEnable n k
  | 2 => c.cmdDisable n k
  | 3 => c.cmdTxreq n k
  | 4 => c.cmdTxabort n k
  | 5 => c.cmdClrnew n k
  | _ => (2, c)

/-- A write to CAN_OBJCMD. -/
def Chip.canObjCmdWrite (c : Chip) (n : Fin 4) (w : Cmd) : Chip := c.canObjCmd n w (Chip.canObjDo n w.value)

/-- CAN_RECOVER. -/
def execCanRecover (n : Fin 4) (w : Cmd) (s : State) : Host.Outcome State Fault Refusal := s.on fun c => c.canCmd n w (Chip.cmdRecover n)
/-- CAN_ABORTALL. -/
def execCanAbortall (n : Fin 4) (w : Cmd) (s : State) : Host.Outcome State Fault Refusal := s.on fun c => c.canCmd n w (Chip.cmdAbortAll n)
/-- CAN_ENABLE. -/
def execCanEnable (n : Fin 4) (w : Cmd) (s : State) : Host.Outcome State Fault Refusal := s.on fun c => c.canObjCmd n w (Chip.cmdEnable n)
/-- CAN_DISABLE. -/
def execCanDisable (n : Fin 4) (w : Cmd) (s : State) : Host.Outcome State Fault Refusal := s.on fun c => c.canObjCmd n w (Chip.cmdDisable n)
/-- CAN_TXREQ. -/
def execCanTxreq (n : Fin 4) (w : Cmd) (s : State) : Host.Outcome State Fault Refusal := s.on fun c => c.canObjCmd n w (Chip.cmdTxreq n)
/-- CAN_TXABORT. -/
def execCanTxabort (n : Fin 4) (w : Cmd) (s : State) : Host.Outcome State Fault Refusal := s.on fun c => c.canObjCmd n w (Chip.cmdTxabort n)
/-- CAN_CLRNEW. -/
def execCanClrnew (n : Fin 4) (w : Cmd) (s : State) : Host.Outcome State Fault Refusal := s.on fun c => c.canObjCmd n w (Chip.cmdClrnew n)

/-! ### FIFOs -/

/-- The objects of a range that a FIFO takes in. -/
def fifoRange (v : Word) : List Nat :=
  (List.range ((CAN_FIFOCFG.FLENM1 0 0).of v + 1)).map fun i => (CAN_FIFOCFG.FBASE 0 0).of v + i

/-- The FIFO counts from nothing. -/
def Chip.fifoEmpty (c : Chip) (n : Fin 4) (f : Fin 8) : Chip :=
  ((c.put (CAN_FIFOSTAT.COUNT n f) 0).put (CAN_FIFOSTAT.PUT n f) 0).put (CAN_FIFOSTAT.GET n f) 0

/-- CAN_FIFOCFG takes a word (R320): one that clears FEN empties the FIFO, any other is ignored while FEN is 1; a word that may not set FEN
is refused as a whole. -/
def Chip.fifoSet (c : Chip) (n : Fin 4) (f : Fin 8) (v₀ : Word) : Chip :=
  let v := v₀ &&& 0x00013FFF
  let fen := v.getLsbD 16
  let old := c.rd (CAN_FIFOCFG.reg n f)
  if c.flag (CAN_FIFOCFG.FEN n f) then
    if fen then c
    else ((c.forIn (fifoRange old) fun k c => (c.putEna n k false).putNew n k false).fifoEmpty n f).wr (CAN_FIFOCFG.reg n f) v
  else if !fen then c.wr (CAN_FIFOCFG.reg n f) v
  else if (CAN_FIFOCFG.FLENM1 n f).of v = 0 || (fifoRange v).any fun k => 255 < k || c.objEna n k || (c.fifoOf n k).isSome then
    c.put (CAN_CMDSTAT.CMDERR n) 3
  else ((c.forIn (fifoRange v) fun k c => c.putEna n k true).fifoEmpty n f).wr (CAN_FIFOCFG.reg n f) v

/-- A write to CAN_FIFOCFG. -/
def Chip.fifoCfg (c : Chip) (n : Fin 4) (f : Fin 8) (w : Cmd) : Chip :=
  (c.arrive w.now).allow (canWriter w.agent) w.agent (CAN_FIFOCFG.reg n f) fun c => c.fifoSet n f w.value

/-- The boot ROM writes a register of a controller from the image (R313): OPMODE waits for STOP, and a word for CAN_FIFOCFG or CAN_OBJCMD acts as a
write of it does (DEDUCED, log entry 118). -/
def Chip.canBoot (c : Chip) (a : Nat) (v : Word) : Chip :=
  let n : Fin 4 := Fin.ofNat 4 (a / 0x10000 - 0x4008)
  if a = CAN_CTL.reg n then
    let m := (CAN_CTL.OPMODE n).of v
    let c := c.wr a (v &&& 0x000FFF70)
    if m = 0 || 5 ≤ m then c else (c.canMode n m).modCan n fun k => { k with boot := true }
  else if a = CAN_OBJCMD.reg n then c.canObjRun n v (Chip.canObjDo n v)
  else match (List.finRange 8).find? fun (f : Fin 8) => CAN_FIFOCFG.reg n f == a with
    | some f => c.fifoSet n f v
    | none => c.load a v

/-- CAN_FIFOCFG_WRITE. -/
def execCanFifocfgWrite (n : Fin 4) (f : Fin 8) (w : Cmd) (s : State) : Host.Outcome State Fault Refusal := s.on fun c => c.fifoCfg n f w

/-! ### Operating modes -/

/-- CAN_OPMODE_APPLY (R310, R312, R313): bus idle has come. An OPMODE of the image waits for STOP instead. -/
def execCanOpmodeApply (n : Fin 4) (now : Time) (s : State) : Host.Outcome State Fault Refusal := s.on fun c =>
  let c := c.arrive now
  if c.mode == mLOAD || (c.can n).attempt.isSome || (c.can n).boot then c else c.canApply n

/-- CAN_BUS_INTEGRATED (R312). -/
def execCanBusIntegrated (n : Fin 4) (now : Time) (s : State) : Host.Outcome State Fault Refusal := s.on fun c =>
  let c := c.arrive now
  if c.get (CAN_CTL.OPMODE n) = 0 then c else c.modCan n fun k => { k with joined := true }

/-! ### Errors -/

/-- The error state follows the counters (R326). -/
def Chip.canErrState (c : Chip) (n : Fin 4) (tec rec_ : Nat) : Chip :=
  if 255 < tec then
    let c := ((((c.put (CAN_ERR.ESTATE n) 2).put (CAN_ERR.TEC n) 0).put (CAN_ERR.REC n) 0).set1 (CAN_STAT.BOFF n)).modCan n fun k =>
      { k with counted := false, permit := false, attempt := none, abort := false, disable := false, memErr := false }
    c.fault 1 0x07 (canAgent n) 0x38 (canAgent n) (if c.mode == mRUN then .comm (BitVec.ofNat 32 (0x38 + 256 * n.val)) else .none)
  else
    let passive := 127 < tec || 127 < rec_
    let was := c.get (CAN_ERR.ESTATE n) = 1
    let c := ((c.put (CAN_ERR.TEC n) tec).put (CAN_ERR.REC n) (min 255 rec_)).put (CAN_ERR.ESTATE n) passive.toNat
    if passive && !was then (c.set1 (CAN_STAT.EPASS n)).fault 0 0x07 (canAgent n) 0x39 (canAgent n) else c

/-- An error is detected (R326). -/
def Chip.canError (c : Chip) (n : Fin 4) (e : CanErr) : Chip :=
  (c.put (CAN_ERR.LEC n) e.lec.val).canErrState n (c.get (CAN_ERR.TEC n) + e.tec) (c.get (CAN_ERR.REC n) + e.rec_)

/-- The controller takes part on the bus. -/
def Chip.canOnBus (c : Chip) (n : Fin 4) : Bool :=
  c.get (CAN_CTL.OPMODE n) != 0 && (c.can n).joined && c.get (CAN_ERR.ESTATE n) != 2

/-- CAN_RECOVERY_COUNT_DONE (R327). -/
def execCanRecoveryCountDone (n : Fin 4) (now : Time) (s : State) : Host.Outcome State Fault Refusal := s.on fun c =>
  let c := c.arrive now
  if c.get (CAN_ERR.ESTATE n) ≠ 2 then c
  else
    let c := (c.modCan n fun k => { k with counted := true }).canRecover n
    if c.get (CAN_ERR.ESTATE n) = 2 then c.set1 (CAN_STAT.RCVRDY n) else c

/-! ### Reception -/

/-- A candidate's filter takes a frame (R319). -/
def Chip.canMatches (c : Chip) (n : Fin 4) (k : Nat) (f : CanFrame) : Bool :=
  let id := (c.objW n k 4).setWidth 29
  let mask := (c.objW n k 8).setWidth 29
  ((f.id ^^^ id) &&& mask) == 0 && c.objFlag n k 1 == f.ide && (!c.objFlag n k 7 || c.objFlag n k 2 == f.fdf)

/-- The matching candidates in ascending object number: an object, and its FIFO where it stands for one. -/
def Chip.canCandidates (c : Chip) (n : Fin 4) (f : CanFrame) : List (Nat × Option (Fin 8)) :=
  (List.range 256).filterMap fun k =>
    if !c.objEna n k then none
    else match c.fifoOf n k with
      | some q => if k = c.get (CAN_FIFOCFG.FBASE n q) && c.canMatches n k f then some (k, some q) else none
      | none => if !c.objFlag n k 0 && c.canMatches n k f then some (k, none) else none

/-- The candidate can take the frame. -/
def Chip.canTakes (c : Chip) (n : Fin 4) (d : Nat × Option (Fin 8)) : Bool :=
  match d.2 with
  | none => !c.objNew n d.1 || c.objFlag n d.1 5
  | some q => c.get (CAN_FIFOSTAT.COUNT n q) < c.fifoLen n q

/-- A frame is written into an object (Table 11.1). -/
def Chip.canPutFrame (c : Chip) (n : Fin 4) (k : Nat) (f : CanFrame) : Chip :=
  let len := if f.rtr then 0 else dlcBytes f.fdf f.dlc.val
  let data := (List.range 64).map fun i => if i < len then f.data.getD i 0 else 0
  let rxf := f.ide.toNat + 2 * f.fdf.toNat + 4 * f.brs.toNat + 8 * f.esi.toNat + 16 * f.rtr.toNat
  let c := (c.st (canObj n k 0x10) 8 f.stamp.toNat).st (canObj n k 0x1C) 4 f.id.toNat
  let c := ((c.stBytes (canObj n k 0x20) data).objPut n k 15 12 f.dlc.val).objPut n k 20 16 rxf
  (((c.objSeq n k).putNew n k true).set1 (CAN_STAT.RXNEW n)).incWrap (CAN_RXCNT.CNT n)

/-- A frame has been stored for candidate `k` (R132, R313, R320): its CAN receive event fires, and WAKE = 1 wakes the chip. -/
def Chip.canTaken (c : Chip) (n : Fin 4) (k : Nat) : Chip :=
  (c.srcFires 4 (2 ^ 8 * n.val + k)).doIf (c.objFlag n k 6) (·.wake 0)

/-- An accepted frame is stored, or lost (R319, R320). -/
def Chip.canStore (c : Chip) (n : Fin 4) (f : CanFrame) : Chip :=
  let l := c.canCandidates n f
  match l.find? (c.canTakes n) with
  | some (k, none) =>
    let c := if c.objNew n k then (c.objPut n k 11 11 1).set1 (CAN_STAT.RXOVR n) else c
    (c.canPutFrame n k f).canTaken n k
  | some (k, some q) =>
    let p := c.get (CAN_FIFOSTAT.PUT n q)
    (((c.canPutFrame n (k + p) f).put (CAN_FIFOSTAT.PUT n q) ((p + 1) % c.fifoLen n q)).put (CAN_FIFOSTAT.COUNT n q)
      (c.get (CAN_FIFOSTAT.COUNT n q) + 1)).canTaken n k
  | none =>
    match l with
    | [] => c
    | (k, none) :: _ => ((c.objPut n k 11 11 1).objSeq n k).set1 (CAN_STAT.RXOVR n)
    | (_, some q) :: _ => ((c.set1 (CAN_STAT.RXOVR n)).set1 (CAN_STAT.FIFOOVF n)).incSat (CAN_FIFOSTAT.OVFCNT n q)

/-- A valid frame from the bus counts REC down: by 1, and from above 127 to a value from 119 to 127 that ISO 11898-1 leaves open. -/
def Chip.canRecDown (c : Chip) (n : Fin 4) : Chip :=
  let r := c.get (CAN_ERR.REC n)
  if 127 < r then
    let (w, c) := c.freeW
    c.canErrState n (c.get (CAN_ERR.TEC n)) (119 + w.toNat % 9)
  else c.canErrState n (c.get (CAN_ERR.TEC n)) (r - 1)

/-- CAN_FRAME_RECEIVED (R314, R319): in LOOPBACK the controller hears itself alone. A classical node takes an FDF bit as a protocol
exception or as a form error. -/
def execCanFrameReceived (n : Fin 4) (f : CanFrame) (now : Time) (s : State) : Host.Outcome State Fault Refusal := s.on fun c =>
  let c := c.arrive now
  if !c.canOnBus n || c.get (CAN_CTL.OPMODE n) = 4 then c
  else if f.fdf && !c.flag (CAN_CTL.FDEN n) then
    if c.flag (CAN_CTL.PXE n) then c.set1 (CAN_STAT.PXEV n) else c.canError n ⟨2, 0, 1⟩
  else (c.canRecDown n).canStore n f

/-! ### Transmission -/

/-- The arbitration field of an object's frame as a number: the lower goes first. A remote frame loses to a data frame of its identifier, an
extended frame to a base frame. -/
def Chip.canPrio (c : Chip) (n : Fin 4) (k : Nat) : Nat :=
  let id := ((c.objW n k 4).setWidth 29).toNat
  let rtr := (c.objFlag n k 4 && !c.objFlag n k 2).toNat
  if c.objFlag n k 1 then id / 2 ^ 18 * 2 ^ 21 + 3 * 2 ^ 19 + id % 2 ^ 18 * 2 + rtr else id / 2 ^ 18 * 2 ^ 21 + rtr * 2 ^ 20

/-- The pending objects that can go; an FD frame stays pending on a classical node (DESIGN CHOICE, log entry 19). -/
def Chip.canPending (c : Chip) (n : Fin 4) : List Nat := (List.range 256).filter fun k =>
  c.bitOf (CAN_TXPEND.PEND n (k / 32)) (k % 32) && (!c.objFlag n k 2 || c.flag (CAN_CTL.FDEN n))

/-- The pending object of highest priority (R322). -/
def Chip.canNext (c : Chip) (n : Fin 4) : Option Nat := (c.canPending n).foldl (fun (b : Option Nat) k => match b with
  | none => some k
  | some j => if c.canPrio n k < c.canPrio n j then some k else b) none

/-- CAN_TX_ATTEMPT_START (R312, R322): only NORMAL and LOOPBACK send. -/
def execCanTxAttemptStart (n : Fin 4) (now : Time) (s : State) : Host.Outcome State Fault Refusal := s.on fun c =>
  let c := c.arrive now
  let m := c.get (CAN_CTL.OPMODE n)
  if !c.canOnBus n || (c.can n).attempt.isSome || (m ≠ 1 && m ≠ 4) then c
  else c.modCan n fun q => { q with attempt := c.canNext n, abort := false, disable := false, memErr := false }

/-- The frame that an object sends, as the controller receives it in LOOPBACK; an FD frame tells the error state in which it is sent. -/
def Chip.canOwnFrame (c : Chip) (n : Fin 4) (k : Nat) (stamp : Time) : CanFrame :=
  { ide := c.objFlag n k 1, id := (c.objW n k 4).setWidth 29 &&& (if c.objFlag n k 1 then 0x1FFFFFFF else 0x1FFC0000), fdf := c.objFlag n k 2,
    brs := c.objFlag n k 3,
    esi := c.objFlag n k 2 && c.get (CAN_ERR.ESTATE n) == 1, rtr := c.objFlag n k 4, dlc := Fin.ofNat 16 (c.objCfg n k 11 8),
    data := c.ldBytes (canObj n k 0x20) 64, stamp }

/-- The attempt has failed: the request ends by TXABORT or by a limit, or stays pending (R323, R324). `lim` is where the limit
stands, `cnt` where the count. -/
def Chip.canRetry (c : Chip) (n : Fin 4) (k : Nat) (abort : Bool) (limHi cntHi txst : Nat) : Chip :=
  let cnt := min 15 (c.objStat n k cntHi (cntHi - 3) + 1)
  let c := (c.objPut n k cntHi (cntHi - 3) cnt).objSeq n k
  let lim := c.objCfg n k limHi (limHi - 3)
  if abort then c.objTxst n k 5
  else if lim ≠ 15 && lim < cnt then (c.objTxst n k txst).set1 (CAN_STAT.TXFAIL n)
  else c

/-- The transmitter delay is measured in an FD frame with bit-rate switching (R311). -/
def Chip.canTdc (c : Chip) (n : Fin 4) (k : Nat) : Bool := c.flag (CAN_CTL.TDCEN n) && c.objFlag n k 2 && c.objFlag n k 3
/-- TDCV takes a delay measured in a frame of object `k`. -/
def Chip.canDelay (c : Chip) (n : Fin 4) (k : Nat) (d : Option (Fin 128)) : Chip :=
  match d with
  | some d => if c.canTdc n k then c.put (CAN_TDC.TDCV n) d.val else c
  | none => c

/-- An attempt is over: a DISABLE that has waited for it completes (R317). -/
def Chip.canClosed (c : Chip) (n : Fin 4) (k : Nat) (disable : Bool) : Chip := if disable then c.putEna n k false else c

/-- An error detected while object `k` transmits ends the attempt (R323, R324). -/
def Chip.canFails (c : Chip) (n : Fin 4) (k : Nat) (e : CanErr) : Chip :=
  let q := c.can n
  let c := c.modCan n fun q => { q with attempt := none, abort := false, disable := false, memErr := false }
  ((c.canRetry n k q.abort 19 7 4).canError n e).canClosed n k q.disable

/-- CAN_BUS_ERROR (R323, R326): an error during an attempt is one of that attempt. -/
def execCanBusError (n : Fin 4) (e : CanErr) (now : Time) (s : State) : Host.Outcome State Fault Refusal := s.on fun c =>
  let c := c.arrive now
  match (c.can n).attempt with
  | some k => c.canFails n k e
  | none => if c.canOnBus n then c.canError n e else c

/-- CAN_TX_ATTEMPT_END (R311, R321, R323, R324). A delay above 127 mtq counts as a bit error; which of the two, the operand says (DESIGN CHOICE,
log entry 119: bit 1 where it says neither). -/
def execCanTxAttemptEnd (n : Fin 4) (r : CanEnd) (now : Time) (s : State) : Host.Outcome State Fault Refusal := s.on fun c =>
  let c := c.arrive now
  match (c.can n).attempt with
  | none => c
  | some k =>
    let q := c.can n
    let free (c : Chip) : Chip := c.modCan n fun q => { q with attempt := none, abort := false, disable := false, memErr := false }
    match r with
    | .sent stamp delay =>
      let own := c.canOwnFrame n k stamp
      let c := (free c).st (canObj n k 0x10) 8 stamp.toNat
      let c := if q.memErr then c.objTxst n k 5 else (c.objTxst n k 2).set1 (CAN_STAT.TXDONE n)
      let c := (c.incWrap (CAN_TXCNT.CNT n)).canErrState n (c.get (CAN_ERR.TEC n) - 1) (c.get (CAN_ERR.REC n))
      let c := c.canDelay n k delay
      (if c.get (CAN_CTL.OPMODE n) = 4 then c.canStore n own else c).canClosed n k q.disable
    | .lost => ((free c).canRetry n k q.abort 15 3 3).canClosed n k q.disable
    | .error e delay ovf =>
      if ovf && c.canTdc n k then
        (c.set1 (CAN_STAT.TDCOVF n)).canFails n k (if e.lec = 5 then e else { e with lec := 4 })
      else (c.canDelay n k delay).canFails n k e

end Sys2Proof.Machine
end

