-- ==== Sys2Proof/Machine/Mbx.lean ====
section
/-! DEFINITION. Host port and mailboxes (R331 to R349): doorbells with their MSI-X vectors, pointer channels and word channels. -/

namespace Sys2Proof.Machine

/-! ### Doorbells -/

/-- A vector can be sent now (R338). -/
def Chip.vecOpen (c : Chip) (b : Fin 32) : Bool :=
  c.mbx.msixOn && !c.mbx.pci.d3hot && !c.mbx.pci.fmask && c.mbx.pci.command.getLsbD 2 && !c.mbx.vecMask.getLsbD b

/-- A vector is signalled: its message leaves, or its pending bit sets (R338). -/
def Chip.signal (c : Chip) (b : Fin 32) : Chip :=
  if c.vecOpen b then c.modMbx fun m => { m with sent := b :: m.sent }
  else c.modMbx fun m => { m with pba := m.pba ||| ((1 : Word) <<< b.val) }

/-- The C2H bits, or their masks, take new values: a vector is signalled for each unmasked bit that rises, and the pending bits of
clear doorbells clear (R338). -/
def Chip.c2hNow (c : Chip) (db mask : Word) : Chip :=
  let was := c.rd MBX_C2HDB.reg &&& ~~~(c.rd MBX_C2HMASK.reg)
  let up := (db &&& ~~~mask) &&& ~~~was
  let c := ((c.wr MBX_C2HDB.reg db).wr MBX_C2HMASK.reg mask).modMbx fun m => { m with pba := m.pba &&& db }
  c.forFin 32 fun b c => if up.getLsbD b then c.signal b else c

/-- Each pending vector that is deliverable while its doorbell is set is sent (R338). -/
def Chip.msixDeliver (c : Chip) : Chip := c.forFin 32 fun b c =>
  if c.mbx.pba.getLsbD b && c.vecOpen b && (c.rd MBX_C2HDB.reg).getLsbD b then
    (c.modMbx fun m => { m with pba := m.pba &&& ~~~((1 : Word) <<< b.val) }).signal b
  else c

/-- C2H bits are set (R336). -/
def Chip.c2hSet (c : Chip) (m : Word) : Chip := c.c2hNow (c.rd MBX_C2HDB.reg ||| m) (c.rd MBX_C2HMASK.reg)
/-- C2H bits are cleared. -/
def Chip.c2hClear (c : Chip) (m : Word) : Chip := c.c2hNow (c.rd MBX_C2HDB.reg &&& ~~~m) (c.rd MBX_C2HMASK.reg)
/-- H2C bits are set: each bit that changes from 0 to 1 fires its event source (R336, R337). -/
def Chip.h2cSet (c : Chip) (m : Word) : Chip :=
  let old := c.rd MBX_H2CDB.reg
  (c.wr MBX_H2CDB.reg (old ||| m)).forFin 32 fun b c => c.doIf (m.getLsbD b && !old.getLsbD b) (·.srcFires 3 b)
/-- H2C bits are cleared. -/
def Chip.h2cClear (c : Chip) (m : Word) : Chip := c.wr MBX_H2CDB.reg (c.rd MBX_H2CDB.reg &&& ~~~m)
/-- Ring bit `b` of the set that a side sees. -/
def Chip.ringBell (c : Chip) (host : Bool) (b : Nat) : Chip := if host then c.c2hSet (1 <<< b) else c.h2cSet (1 <<< b)
/-- Clear bit `b` of the set that a side sees. -/
def Chip.clearBell (c : Chip) (host : Bool) (b : Nat) : Chip := if host then c.c2hClear (1 <<< b) else c.h2cClear (1 <<< b)

/-! ### Pointer channels -/

/-- MBX_CHHEAD and MBX_CHINFO show the head of the queue (R341). -/
def Chip.chShow (c : Chip) (k : Fin 28) : Chip :=
  let q := c.mbx.queues[k]
  let (w, a, s) : Word × Nat × Nat := match q with
    | [] => (0, 0, 0)
    | e :: _ => (e.word, e.agent, e.seq.toNat)
  (((c.wr (MBX_CHHEAD.reg k) w).put (MBX_CHINFO.AGENT k) a).put (MBX_CHINFO.SEQ k) s).put (MBX_CHINFO.COUNT k) q.length

/-- Replace the queue of a channel. -/
def Chip.chQueue (c : Chip) (k : Fin 28) (q : List ChEntry) : Chip :=
  (c.modMbx fun m => { m with queues := m.queues.set k q }).chShow k

/-- The agent is on the posting side of a channel (R339). -/
def Chip.chPoster (c : Chip) (k : Fin 28) (a : AgentId) : Bool := if c.flag (MBX_CHCFG.DIR k) then isMc a else isHost a
/-- The agent is on the receiving side of a channel. -/
def Chip.chReceiver (c : Chip) (k : Fin 28) (a : AgentId) : Bool := if c.flag (MBX_CHCFG.DIR k) then isHost a else isMc a

/-- A post (R339, R340). -/
def Chip.chPost (c : Chip) (k : Fin 28) (w : Cmd) : Chip :=
  c.allow (c.chPoster k w.agent && c.flag (MBX_CHCFG.EN k)) w.agent (MBX_CHPOST.reg k) fun c =>
    let q := c.mbx.queues[k]
    if 16 ≤ q.length then (c.incSat (MBX_CHINFO.LOST k)).set1 MBX_STAT.CHOVF
    else
      let s := c.mbx.next[k]
      let c := (c.modMbx fun m => { m with next := m.next.set k (s + 1) }).chQueue k (q ++ [⟨w.value, w.agent.toNat, s⟩])
      if c.flag (MBX_CHCFG.DBEN k) then c.ringBell (c.flag (MBX_CHCFG.DIR k)) (c.get (MBX_CHCFG.DB k)) else c

/-- A POP (R341). -/
def Chip.chPop (c : Chip) (k : Fin 28) (w : Cmd) : Chip :=
  c.allow (c.chReceiver k w.agent) w.agent (MBX_CHPOP.reg k) fun c =>
    match c.mbx.queues[k] with
    | [] => c
    | e :: l => if w.value.setWidth 8 = e.seq then c.chQueue k l else c

/-- A write of MBX_CHCFG (R343). -/
def Chip.chCfg (c : Chip) (k : Fin 28) (w : Cmd) : Chip :=
  c.allow (isMc w.agent) w.agent (MBX_CHCFG.reg k) fun c =>
    let en := w.value.getLsbD 31
    if c.flag (MBX_CHCFG.EN k) then
      if en then c else ((c.clr (MBX_CHCFG.EN k)).chQueue k [])
    else
      let c := c.wr (MBX_CHCFG.reg k) (w.value &&& 0xC000003F)
      if en then c.clr (MBX_CHINFO.LOST k) else c

/-! ### Word channels -/

/-- The agent is of the writer class of a word channel (R344). -/
def Chip.wWriter (c : Chip) (k : Fin 4) (a : AgentId) : Bool :=
  c.flag (MBX_WCFG.WEN k) && (if c.get (MBX_WCFG.WRCLS k) = 0 then isHost a else isMc a)

/-- A write of a word (R344). -/
def Chip.wPost (c : Chip) (k : Fin 4) (w : Cmd) : Chip :=
  c.allow (c.wWriter k w.agent) w.agent (MBX_WDATA.reg k) fun c =>
    if c.flag (MBX_WINFO.FULL k) then (c.set1 (MBX_WINFO.WOVF k)).set1 MBX_STAT.WOVF
    else
      let c := (((c.wr (MBX_WDATA.reg k) w.value).put (MBX_WINFO.AGENT k) w.agent.toNat).set1 (MBX_WINFO.FULL k)).incWrap (MBX_WINFO.WCNT k)
      if c.flag (MBX_WCFG.FDBEN k) then c.ringBell (c.get (MBX_WCFG.RDCLS k) == 2) (c.get (MBX_WCFG.FDB k)) else c

/-- A take (R345, R346): the word, the full flag, and the state after it. -/
def Chip.wTake (c : Chip) (k : Fin 4) : Word × Bool × Chip :=
  let w := c.rd (MBX_WDATA.reg k)
  if c.flag (MBX_WINFO.FULL k) then
    let c := c.clr (MBX_WINFO.FULL k)
    let c := if c.flag (MBX_WCFG.EDBEN k) then c.ringBell (c.get (MBX_WCFG.WRCLS k) == 0) (c.get (MBX_WCFG.EDB k)) else c
    let c := if c.flag (MBX_WCFG.FDBEN k) then c.clearBell (c.get (MBX_WCFG.RDCLS k) == 2) (c.get (MBX_WCFG.FDB k)) else c
    (w, true, c)
  else (w, false, c)

/-- A read of MBX_WTAKE (R345): a take by the reader class when that is the management firmware or the host; other readers are refused. -/
def Chip.wTakeRead (c : Chip) (k : Fin 4) (ag : AgentId) : Chip :=
  if c.cutOff ag then c.unreached else
  let cls := c.get (MBX_WCFG.RDCLS k)
  if c.flag (MBX_WCFG.WEN k) && ((cls == 1 && isMc ag) || (cls == 2 && isHost ag)) then
    let (w, _, c) := c.wTake k
    c.answerW w
  else (c.refuse ag false (MBX_WTAKE.reg k)).denied ag 4

/-! ### Commands -/

/-! ### The endpoint -/

/-- Vendor ID and subsystem IDs: from the image, or before one is chosen from the fuses (Table 12.1). -/
def Chip.pciIds (c : Chip) : BitVec 16 × Word := match c.image with
  | some im => (im.sec.vendor, im.sec.subsystem)
  | none => (Config.fuseVendor, Config.fuseSubsystem)

/-- A word of the PCI Express capability (Table 12.1: 256 bytes of payload, 8.0 GT/s ×2 down to 2.5 GT/s and ×1, ASPM L1); where the table says
nothing it is free. -/
def Chip.pcieWord (c : Chip) (free : Word) (k : Nat) : Word :=
  let keep (m v : Word) : Word := (free &&& ~~~m) ||| v
  match k with
  | 0 => keep 0xFF 0x10
  | 1 => keep 7 1
  | 2 => c.mbx.pci.devCtl.setWidth 32
  | 3 => keep 0xFFF 0x823
  | 4 => c.mbx.pci.linkCtl.setWidth 32 ||| BitVec.ofNat 32 (2 ^ 16 * c.get MBX_LINK.SPEED + 2 ^ 20 * c.get MBX_LINK.WIDTH)
  | 11 => keep 0xFE 0x0E
  | _ => free

/-- A word of Advanced Error Reporting: status, mask and severity of the uncorrectable errors, status and mask of the correctable ones, control, and
the header log. -/
def Chip.aerWord (c : Chip) (free : Word) (k : Nat) : Word :=
  if k = 0 then (free &&& 0xFFFF0000) ||| 1 else spGet (aerDefault k) c.mbx.pci.aer k

/-- What the host writes there: the status bits clear by writing 1. -/
def aerPut (l : List (Nat × Word)) (k : Nat) (v : Word) : List (Nat × Word) :=
  match k with
  | 1 | 4 => spSet (aerDefault k) k (spGet (aerDefault k) l k &&& ~~~v) l
  | 2 | 3 | 5 => spSet (aerDefault k) k v l
  | 6 => spSet (aerDefault k) k (v &&& 0x140) l
  | _ => l

/-- A word of the configuration space (Table 12.1, in the type 0 header of the PCI Express Base Specification: PRESUMED, log entry 99): beside
the header, MSI-X and the power state, PCI Express and Advanced Error Reporting, where their capabilities stand; what else a capability holds is
free. -/
def Chip.pciWord (c : Chip) (o : Nat) : Word :=
  let p := c.mbx.pci
  match o with
  | 0x00 => (0x7100 : BitVec 16) ++ c.pciIds.1
  | 0x04 => (0x0010 : BitVec 16) ++ p.command
  | 0x08 => 0x11800001
  | 0x0C => p.cacheLine.setWidth 32
  | 0x10 => p.bar0
  | 0x18 => p.bar2 ||| 0xC
  | 0x1C => p.bar3
  | 0x2C => c.pciIds.2
  | 0x3C => p.line.setWidth 32
  | 0x14 | 0x20 | 0x24 | 0x28 | 0x30 | 0x38 => 0
  | _ =>
    let free := Config.freeWord c.free
    if o = Config.msixCap then
      (free &&& 0x0000FF00) ||| 0x001F0011 ||| (if c.mbx.msixOn then 0x80000000 else 0) ||| (if p.fmask then 0x40000000 else 0)
    else if o = Config.powerCap + 4 then if p.d3hot then 3 else 0
    else if Config.pcieCap ≤ o && o < Config.pcieCap + 0x3C then c.pcieWord free ((o - Config.pcieCap) / 4)
    else if Config.aerCap ≤ o && o < Config.aerCap + 0x2C then c.aerWord free ((o - Config.aerCap) / 4)
    else free

/-- A configuration request reads bytes of a word (R331). -/
def Chip.cfgRead (c : Chip) (a n : Nat) : Chip :=
  let w := c.pciWord (a / 4 * 4)
  { c with free := c.free + 1 }.answer ((List.range n).map fun i => (w >>> (8 * (a % 4 + i))).setWidth 8)

/-- A word of the configuration space is written: its writable fields take effect, and a vector that becomes deliverable is sent (R338). -/
def Chip.pciPut (c : Chip) (o : Nat) (v : Word) : Chip :=
  let f (m : Mbx) : Mbx :=
    match o with
    | 0x04 => { m with pci := { m.pci with command := v.setWidth 16 &&& 0x0546 } }
    | 0x0C => { m with pci := { m.pci with cacheLine := v.setWidth 8 } }
    | 0x10 => { m with pci := { m.pci with bar0 := v &&& 0xFFFF0000 } }
    | 0x18 => { m with pci := { m.pci with bar2 := v &&& 0xFFF80000 } }
    | 0x1C => { m with pci := { m.pci with bar3 := v } }
    | 0x3C => { m with pci := { m.pci with line := v.setWidth 8 } }
    | _ =>
      if o < 0x40 then m
      else if o = Config.msixCap then { m with msixOn := v.getLsbD 31, pci := { m.pci with fmask := v.getLsbD 30 } }
      else if o = Config.powerCap + 4 then { m with pci := { m.pci with d3hot := v.setWidth 2 == (3 : BitVec 2) } }
      else if o = Config.pcieCap + 8 then { m with pci := { m.pci with devCtl := v.setWidth 16 &&& 0x78FF } }
      else if o = Config.pcieCap + 0x10 then { m with pci := { m.pci with linkCtl := v.setWidth 16 &&& 0x01CB } }
      else if Config.aerCap ≤ o && o < Config.aerCap + 0x2C then { m with pci := { m.pci with aer := aerPut m.pci.aer ((o - Config.aerCap) / 4) v } }
      else m
  (c.modMbx f).msixDeliver

/-- A configuration request writes bytes of a word. -/
def Chip.cfgWrite (c : Chip) (a : Nat) (l : List Byte) : Chip :=
  let o := a / 4 * 4
  c.pciPut o (l.zipIdx.foldl (fun w b => wordByte w (a % 4 + b.2) b.1) (c.pciWord o))

/-- What a BAR0 offset outside registers and aperture shows (Table 12.2): the MSI-X table, the pending-bit array, or 0. -/
def Chip.bar0Word (c : Chip) (a : Nat) : Word :=
  if 0xF000 ≤ a && a < 0xF200 then
    let e := (a - 0xF000) / 16
    let k := (a - 0xF000) % 16 / 4
    if k = 3 then (if c.mbx.vecMask.getLsbD e then 1 else 0) else spGet 0 c.mbx.table (3 * e + k)
  else if a = 0xF800 then c.mbx.pba
  else 0

/-- A write there: the MSI-X table takes it, and a vector that becomes deliverable is sent (R338). -/
def Chip.bar0Put (c : Chip) (a : Nat) (v : Word) : Chip :=
  if 0xF000 ≤ a && a < 0xF200 then
    let e := (a - 0xF000) / 16
    let k := (a - 0xF000) % 16 / 4
    let bit : Word := (1 : Word) <<< e
    (c.modMbx fun m =>
      if k = 3 then { m with vecMask := if v.getLsbD 0 then m.vecMask ||| bit else m.vecMask &&& ~~~bit }
      else { m with table := spSet 0 (3 * e + k) v m.table }).msixDeliver
  else c

/-- HOST_LINK_RESET (R331): configuration space, MSI-X table and link are reinitialised and PERST sets. -/
def execHostLinkReset (now : Time) (s : State) : Host.Outcome State Fault Refusal := s.on fun c =>
  let c := (c.arrive now).modMbx fun m => { m with vecMask := 0xFFFFFFFF, msixOn := false, pba := 0, table := [], pci := Pci.zero }
  ((((c.set1 MBX_STAT.PERST).clr MBX_STAT.DLUP).clr MBX_LINK.SPEED).clr MBX_LINK.WIDTH).clr MBX_LINK.INL1

/-- The link leaves L0 for Detect: LINKDN sets where the data link layer was up. -/
def Chip.hostLinkLost (c : Chip) : Chip :=
  (((((c.doIf (c.flag MBX_STAT.DLUP) (·.set1 MBX_STAT.LINKDN)).clr MBX_STAT.DLUP).clr MBX_LINK.SPEED).clr MBX_LINK.WIDTH).clr MBX_LINK.INL1)

/-- HOST_LINK_DOWN (R331): the link leaves L0 for Detect. -/
def execHostLinkDown (now : Time) (s : State) : Host.Outcome State Fault Refusal := s.on fun c =>
  (((((c.arrive now).set1 MBX_STAT.LINKDN).clr MBX_STAT.DLUP).clr MBX_LINK.SPEED).clr MBX_LINK.WIDTH).clr MBX_LINK.INL1

/-- HOST_LINK_UP (R331): the link trains to a speed and a width, and the data link layer comes up; not while REFCLK is stopped (R35, R496).
INTERMISSION holds it in L1. -/
def execHostLinkUp (speed : Fin 4) (width : Fin 3) (now : Time) (s : State) : Host.Outcome State Fault Refusal := s.on fun c =>
  let c := c.arrive now
  if !c.pins.refclk then c
  else
    let c := ((c.set1 MBX_STAT.DLUP).put MBX_LINK.SPEED speed).put MBX_LINK.WIDTH width
    if c.mode == mINTER then c.linkRest true else c

/-- MBX_H2CSET (R336): the host sets H2C bits. -/
def execMbxH2cset (w : Cmd) (s : State) : Host.Outcome State Fault Refusal := s.on fun c =>
  (c.arrive w.now).allow (isHost w.agent) w.agent MBX_H2CSET.reg fun c => c.h2cSet w.value

/-- MBX_H2CDB_CLEAR (R336): MC0 or MC1 clears H2C bits. -/
def execMbxH2cdbClear (w : Cmd) (s : State) : Host.Outcome State Fault Refusal := s.on fun c =>
  (c.arrive w.now).allow (isMc w.agent) w.agent MBX_H2CDB.reg fun c => c.h2cClear (Cmd.kept w MBX_H2CDB.reg).value

/-- MBX_C2HSET (R336): MC0 or MC1 sets C2H bits. -/
def execMbxC2hset (w : Cmd) (s : State) : Host.Outcome State Fault Refusal := s.on fun c =>
  (c.arrive w.now).allow (isMc w.agent) w.agent MBX_C2HSET.reg fun c => c.c2hSet w.value

/-- MBX_C2HDB_CLEAR (R338): the host clears C2H bits and their pending bits. -/
def execMbxC2hdbClear (w : Cmd) (s : State) : Host.Outcome State Fault Refusal := s.on fun c =>
  (c.arrive w.now).allow (isHost w.agent) w.agent MBX_C2HDB.reg fun c => c.c2hClear (Cmd.kept w MBX_C2HDB.reg).value

/-- MSIX_PENDING_DELIVER (R338): the masks of the MSI-X table take the values given, and so does the enable of MSI-X; with it, the function is
in D0 and unmasked and Bus Master Enable is 1. Each pending vector that is deliverable while its doorbell is set is sent. -/
def execMsixPendingDeliver (masked : Word) (on : Bool) (now : Time) (s : State) : Host.Outcome State Fault Refusal := s.on fun c =>
  ((c.arrive now).modMbx fun m => { m with
    vecMask := masked, msixOn := on,
    pci := if on then { m.pci with d3hot := false, fmask := false, command := m.pci.command ||| 4 } else m.pci }).msixDeliver

/-- MBX_CHPOST (R339). -/
def execMbxChpost (k : Fin 28) (w : Cmd) (s : State) : Host.Outcome State Fault Refusal := s.on fun c => (c.arrive w.now).chPost k w
/-- MBX_CHPOP (R341). -/
def execMbxChpop (k : Fin 28) (w : Cmd) (s : State) : Host.Outcome State Fault Refusal := s.on fun c => (c.arrive w.now).chPop k w
/-- MBX_CHCFG_WRITE (R343). -/
def execMbxChcfgWrite (k : Fin 28) (w : Cmd) (s : State) : Host.Outcome State Fault Refusal := s.on fun c => (c.arrive w.now).chCfg k w
/-- MBX_WDATA_WRITE (R344). -/
def execMbxWdataWrite (k : Fin 4) (w : Cmd) (s : State) : Host.Outcome State Fault Refusal := s.on fun c => (c.arrive w.now).wPost k w
/-- MBX_WTAKE_READ (R345). -/
def execMbxWtakeRead (k : Fin 4) (agent : AgentId) (now : Time) (s : State) : Host.Outcome State Fault Refusal := s.on fun c =>
  (c.arrive now).wTakeRead k agent

end Sys2Proof.Machine
end

