-- ==== Sys2Proof/Machine/Sha.lean ====
section
/-! DEFINITION. SHA-256, which the guard and the update engine compute (R476, R477; the function itself is FIPS 180-4, PRESUMED, log entry 5). -/

namespace Sys2Proof.Machine

/-- The primes below 312, of which there are 64. -/
def shaPrimes : List Nat := (List.range 312).filter fun n => 2 ≤ n && (List.range n).all fun d => d < 2 || n % d != 0

/-- The greatest root whose `d`-th power is at most `n`, found bit by bit from bit `k` down; `r` are the bits found. -/
def rootBits (d n : Nat) : Nat → Nat → Nat
  | 0, r => r
  | k + 1, r => rootBits d n k (if (r + 2 ^ k) ^ d ≤ n then r + 2 ^ k else r)

/-- The first 32 bits of the fractional part of the `d`-th root of `p`. -/
def rootFraction (d p : Nat) : Word := BitVec.ofNat 32 (rootBits d (p * 2 ^ (32 * d)) 37 0)

/-- The round constants: of the cube roots of the primes. -/
def shaK : List Word := shaPrimes.map (rootFraction 3)

/-- The eight working variables. -/
structure ShaH where
  a : Word
  b : Word
  c : Word
  d : Word
  e : Word
  f : Word
  g : Word
  h : Word
deriving DecidableEq, Repr

/-- The initial hash value: of the square roots of the first eight primes. -/
def shaInit : ShaH :=
  let r (i : Nat) : Word := rootFraction 2 (shaPrimes.getD i 0)
  ⟨r 0, r 1, r 2, r 3, r 4, r 5, r 6, r 7⟩

/-- One round with constant `k` and schedule word `w`. -/
def shaRound (s : ShaH) (k w : Word) : ShaH :=
  let s1 := s.e.rotateRight 6 ^^^ s.e.rotateRight 11 ^^^ s.e.rotateRight 25
  let ch := (s.e &&& s.f) ^^^ (~~~s.e &&& s.g)
  let t1 := s.h + s1 + ch + k + w
  let s0 := s.a.rotateRight 2 ^^^ s.a.rotateRight 13 ^^^ s.a.rotateRight 22
  let mj := (s.a &&& s.b) ^^^ (s.a &&& s.c) ^^^ (s.b &&& s.c)
  ⟨t1 + (s0 + mj), s.a, s.b, s.c, s.d + t1, s.e, s.f, s.g⟩

/-- The rounds, with the last sixteen schedule words at hand. -/
def shaRounds : List Word → List Word → ShaH → ShaH
  | [], _, s => s
  | k :: ks, w, s =>
    let w0 := w.headD 0
    let x := w.getD 1 0
    let y := w.getD 14 0
    let g0 := x.rotateRight 7 ^^^ x.rotateRight 18 ^^^ (x >>> 3)
    let g1 := y.rotateRight 17 ^^^ y.rotateRight 19 ^^^ (y >>> 10)
    shaRounds ks (w.tail ++ [w0 + g0 + w.getD 9 0 + g1]) (shaRound s k w0)

/-- One block of sixteen words. -/
def shaBlock (s : ShaH) (w : List Word) : ShaH :=
  let r := shaRounds shaK w s
  ⟨s.a + r.a, s.b + r.b, s.c + r.c, s.d + r.d, s.e + r.e, s.f + r.f, s.g + r.g, s.h + r.h⟩

/-- Big-endian words of a list of bytes. -/
def beWords : Nat → List Byte → List Word
  | 0, _ => []
  | n + 1, l =>
    let b (i : Nat) : Word := (l.getD i 0).setWidth 32
    (b 0 <<< 24 ||| b 1 <<< 16 ||| b 2 <<< 8 ||| b 3) :: beWords n (l.drop 4)

/-- Blocks in turn. -/
def shaBlocks : Nat → List Byte → ShaH → ShaH
  | 0, _, s => s
  | n + 1, l, s => shaBlocks n (l.drop 64) (shaBlock s (beWords 16 l))

/-- SHA-256 of a list of bytes: 32 bytes. -/
def sha256 (l : List Byte) : List Byte :=
  let n := l.length
  let z := (119 - n % 64) % 64
  let len := (List.range 8).map fun i => BitVec.ofNat 8 (8 * n / 2 ^ (8 * (7 - i)))
  let m := l ++ [0x80] ++ List.replicate z 0 ++ len
  let s := shaBlocks (m.length / 64) m shaInit
  [s.a, s.b, s.c, s.d, s.e, s.f, s.g, s.h].flatMap fun (w : Word) =>
    [(w >>> 24).setWidth 8, (w >>> 16).setWidth 8, (w >>> 8).setWidth 8, w.setWidth 8]

end Sys2Proof.Machine
end

