-- ==== Sys2Proof/Machine/Grd.lean ====
section
/-! DEFINITION. Two-party agreement and the debug lock (R476 to R482). -/

namespace Sys2Proof.Machine

/-- The class of an agent (R476): 1 management firmware, 2 host, 4 debug at FULL; 0 for the others. -/
def Chip.grdClass (c : Chip) (a : AgentId) : Nat := if isMc a then 1 else if isHost a then 2 else if c.isDebug a 2 then 4 else 0

/-- The agents whose writes the GRD block takes. -/
def grdAgent (a : AgentId) : Bool := isMc a || isHost a || a == 0x41

/-- CMDERR of an agent's bank. -/
def Chip.grdErr (c : Chip) (a : AgentId) (e : Nat) : Chip :=
  c.modGrd fun g => { g with cmdstat := spSet 0 a.toNat (BitVec.ofNat 32 e) g.cmdstat }

/-- A field of the change record, little-endian (Table 20.2). -/
def recField (r : List Byte) (o n : Nat) : Nat := ((r.drop o).take n).foldr (fun b v => b.toNat + 256 * v) 0

/-- The digest registers. -/
def Chip.grdDig (c : Chip) (d : List Byte) : Chip :=
  c.forFin 8 fun k c => c.wr (GRD_DIG.reg k) (BitVec.ofNat 32 (recField d (4 * k) 4))

/-- The digest that an agent has written to its bank. -/
def Chip.agentDig (c : Chip) (a : AgentId) : List Word := (List.range 8).map fun k => spGet 0 c.grd.agd (8 * a.toNat + k)
/-- The pending digest. -/
def Chip.pendDig (c : Chip) : List Word := (List.range 8).map fun k => c.rd (GRD_DIG.reg k)

/-- GRD_PROP shows a proposal or grant; state 0 shows neither. -/
def Chip.grdProp (c : Chip) (kind arg cls state : Nat) : Chip :=
  (((c.put GRD_PROP.KIND kind).put GRD_PROP.ARG arg).put GRD_PROP.PCLASS cls).put GRD_PROP.STATE state

/-- The proposal or grant ends. -/
def Chip.grdIdle (c : Chip) : Chip := ((c.grdProp 0 0 0 0).grdDig []).modGrd fun g => { g with record := [] }

/-- A guard fault of the NOTE class (SKIND 0x0C, INST 0). -/
def Chip.grdNote (c : Chip) (cause : Nat) : Chip := c.fault 0 0x0C 0 cause

/-- The debug port locks (R482). -/
def Chip.dbgLock (c : Chip) : Chip :=
  if c.get GRD_DBG.DBGST = 0 then c
  else (((c.clr GRD_DBG.DBGST).setBit GRD_STAT.FLAGS 4).modGrd fun g => { g with dbgUntil := none }).releaseHalts

/-- The pending change is agreed (R478): kinds 1, 2 and 6 are carried out, kinds 3 to 5 leave a grant in force (R479). -/
def Chip.grdAgreed (c : Chip) (cls : Nat) : Chip :=
  let r := c.grd.record
  let kind := c.get GRD_PROP.KIND
  let arg := c.get GRD_PROP.ARG
  let c := (c.incWrap GRD_PSEQ.SEQ).setBit GRD_STAT.FLAGS 2
  match kind with
  | 1 =>
    let p := arg % 16
    let base := recField r 8 4
    let en := recField r 20 4 % 2
    let c := ((c.put (GRD_PBASE.BASE p) (base / 4096)).put (GRD_PBASE.EN p) en).put (GRD_PLIM.LIMIT p) (recField r 12 4 / 4096)
    ((c.wr (GRD_PPERM.reg p) (BitVec.ofNat 32 (recField r 16 4))).grdIdle).grdNote 0x5E
  | 2 =>
    let d := recField r 8 4
    let c := ((c.put GRD_DBG.DBGST arg).setBit GRD_STAT.FLAGS 4).modGrd fun g =>
      { g with dbgUntil := if d = 0 then none else some (c.tb + BitVec.ofNat 64 (d * 1000000000)) }
    (if arg = 2 then c else c.releaseHalts).grdIdle.grdNote 0x5E
  | 6 => ((c.grdIdle).modGrd fun g => { g with keyJobs := g.keyJobs ++ [r] }).turnAsk 0 .store
  | _ => (c.put GRD_PROP.STATE 2).modGrd fun g => { g with since := c.tb, agreer := cls }

/-- The proposal is withdrawn or expires. -/
def Chip.grdDrop (c : Chip) : Chip := (c.incWrap GRD_PSEQ.SEQ).grdIdle

/-- The record is one that the guard accepts (R477): its KIND, ARG and PSEQ, and the duration of a debug unlock. -/
def Chip.grdValid (c : Chip) (r : List Byte) (listed : Bool) : Bool :=
  let kind := recField r 0 1
  let arg := recField r 1 1
  let seq := recField r 4 4
  let ok := match kind with
    | 1 => arg < 16
    | 2 => (arg == 1 || arg == 2) && recField r 8 4 < 65536
    | 3 => true
    | 4 => true
    | 5 => arg ≤ 4
    | 6 => arg ≤ 3
    | _ => false
  ok && (seq == c.get GRD_PSEQ.SEQ || (seq == 0 && listed))

/-- PROPOSE (R477). -/
def Chip.grdPropose (c : Chip) (a : AgentId) : Chip :=
  let cls := c.grdClass a
  let state := c.get GRD_PROP.STATE
  if cls = 0 then c.grdErr a 2
  else if state = 2 || (state = 1 && c.get GRD_PROP.PCLASS != cls) then c.grdErr a 3
  else
    let addr := (spGet 0 c.grd.raddr a.toNat).toNat
    let r := c.ldBytes addr 64
    let dig := sha256 r
    let listed := c.grd.agree.contains dig
    let inMem := (0x3C000000 ≤ addr && addr + 64 ≤ 0x3C0A0000) || (0x38000000 ≤ addr && addr + 64 ≤ 0x38080000)
    if addr % 8 != 0 || !inMem || !c.grdValid r listed then c.grdErr a 4
    else if cls = 4 && recField r 0 1 = 2 then c.grdErr a 2
    else
      let c := ((c.grdProp (recField r 0 1) (recField r 1 1) cls 1).grdDig dig).modGrd fun g => { g with record := r, since := c.tb }
      let c := (c.setBit GRD_STAT.FLAGS 1).grdErr a 0
      if listed then c.grdAgreed 3 else c

/-- The pending proposal expires (R478). -/
def Chip.grdExpire (c : Chip) : Chip := ((c.grdDrop).setBit GRD_STAT.FLAGS 3).grdNote 0x5F

/-- AGREE (R478). -/
def Chip.grdAgree (c : Chip) (a : AgentId) : Chip :=
  let cls := c.grdClass a
  if cls = 0 || c.get GRD_PROP.STATE != 1 || (cls = 4 && c.get GRD_PROP.KIND = 2) then c.grdErr a 2
  else if c.get GRD_PROP.PCLASS = cls then c.grdErr a 6
  else if c.grd.since.toNat + 2000000000 < c.t then (c.grdExpire).grdErr a 2
  else if c.agentDig a = c.pendDig then (c.grdErr a 0).grdAgreed cls
  else (c.grdDrop).grdErr a 5

/-- WITHDRAW, by the proposer's class only. -/
def Chip.grdWithdraw (c : Chip) (a : AgentId) : Chip :=
  if c.get GRD_PROP.STATE = 1 && c.grdClass a != 0 && c.get GRD_PROP.PCLASS = c.grdClass a then (c.grdDrop).grdErr a 0 else c.grdErr a 2

/-- LOCKDBG, by any agent of class 1, 2 or 4 (R482). -/
def Chip.grdLockdbg (c : Chip) (a : AgentId) : Chip := if c.grdClass a = 0 then c.grdErr a 2 else (c.dbgLock).grdErr a 0

/-- A write of GRD_CMD: its agent and its key are checked first. -/
def Chip.grdCmd (c : Chip) (w : Cmd) (f : Chip → AgentId → Chip) : Chip :=
  c.allow (grdAgent w.agent) w.agent GRD_CMD.reg fun c =>
    if GRD_CMD.KEY.of w.value = 0xA7D2 then f c w.agent else c.grdErr w.agent 1

/-- A command of the owning block consumes a grant that matches it (R479): KIND, ARG, the first word of BODY and a party's class. -/
def Chip.grantFor (c : Chip) (a : AgentId) (kind arg body : Nat) : Bool :=
  c.get GRD_PROP.STATE = 2 && c.get GRD_PROP.KIND = kind && (kind != 5 || c.get GRD_PROP.ARG = arg) &&
    (kind == 4 || recField c.grd.record 8 4 = body) && c.t ≤ c.grd.since.toNat + 2000000000 &&
    (let k := c.grdClass a
     k != 0 && (k = c.get GRD_PROP.PCLASS || k = c.grd.agreer))

/-- The grant is consumed. -/
def Chip.grantUse (c : Chip) : Chip := (c.grdIdle).grdNote 0x5E

/-! ### Commands -/

/-- GRD_PROPOSE (R477). -/
def execGrdPropose (w : Cmd) (s : State) : Host.Outcome State Fault Refusal := s.on fun c => (c.arrive w.now).grdCmd w Chip.grdPropose
/-- GRD_AGREE (R478). -/
def execGrdAgree (w : Cmd) (s : State) : Host.Outcome State Fault Refusal := s.on fun c => (c.arrive w.now).grdCmd w Chip.grdAgree
/-- GRD_WITHDRAW (R478). -/
def execGrdWithdraw (w : Cmd) (s : State) : Host.Outcome State Fault Refusal := s.on fun c => (c.arrive w.now).grdCmd w Chip.grdWithdraw
/-- GRD_LOCKDBG (R482). -/
def execGrdLockdbg (w : Cmd) (s : State) : Host.Outcome State Fault Refusal := s.on fun c => (c.arrive w.now).grdCmd w Chip.grdLockdbg

/-- PROPOSAL_EXPIRY (R478): 2 s after the proposal. -/
def execProposalExpiry (now : Time) (s : State) : Host.Outcome State Fault Refusal := s.on fun c =>
  let c := c.arrive now
  if c.get GRD_PROP.STATE = 1 && c.grd.since.toNat + 2000000000 ≤ c.t then c.grdExpire else c

/-- GRANT_EXPIRY (R479): 2 s after the agreement. -/
def execGrantExpiry (now : Time) (s : State) : Host.Outcome State Fault Refusal := s.on fun c =>
  let c := c.arrive now
  if c.get GRD_PROP.STATE = 2 && c.grd.since.toNat + 2000000000 ≤ c.t then c.grdIdle else c

/-- DEBUG_UNLOCK_EXPIRY (R482). -/
def execDebugUnlockExpiry (now : Time) (s : State) : Host.Outcome State Fault Refusal := s.on fun c =>
  let c := c.arrive now
  match c.grd.dbgUntil with
  | some t => if t.toNat ≤ c.t then c.dbgLock else c
  | none => c

/-- REFUSAL_SECOND_END (R475): a TB second with refusals has ended. -/
def execRefusalSecondEnd (now : Time) (s : State) : Host.Outcome State Fault Refusal := s.on fun c =>
  let c := c.arrive now
  let n := c.t / 1000000000
  if c.grd.refused.any (· < n) then (c.modGrd fun g => { g with refused := g.refused.filter (n ≤ ·) }).fault 1 0x0C 0 0x5D else c

/-- A context as the debug port reads it, word by word in the order of Table 3.1 (DESIGN CHOICE, log entry 150: the port's format is not stated). -/
def Ctx.words (x : Ctx) : List Word :=
  [x.acc, x.ach, x.ix, x.iy, x.ba.toNat, x.ibD, x.ibB.setWidth 32, x.pc, x.dsp, x.flg.setWidth 32, x.brc, x.brs, x.brd]

/-- A return-stack entry as the debug port reads it. -/
def RetEntry.words (r : RetEntry) : List Word := [r.pc, r.ibD, r.ibB.setWidth 32, r.flg.setWidth 32, r.ba.toNat]

/-- A journal entry as the debug port reads it: space, unit, data and mask. -/
def JEntry.words (j : JEntry) : List Word :=
  [match j.space with | .data => 0 | .bit => 1 | .qword => 2, BitVec.ofNat 32 j.unit, j.data.setWidth 32, j.data.extractLsb' 32 32, j.mask.setWidth 32,
    j.mask.extractLsb' 32 32]

/-- The return stack of an executor; an engine without a physical engine has none. -/
def Chip.stackOf (c : Chip) (x : Exec) : List RetEntry :=
  match x with
  | .le e => match c.physOf e with
    | some p => (c.ph p).stack
    | none => []
  | .mc m => (c.core m).stack

/-- The journal of an engine (R171). -/
def Chip.journalOf (c : Chip) (x : Exec) : List JEntry :=
  match x with
  | .le e => match c.physOf e with
    | some p => (c.ph p).journal
    | none => []
  | .mc _ => []

/-- The registers of an executor: an engine's are those of the task that it runs. -/
def Chip.stateOf (c : Chip) (x : Exec) : List Word :=
  match x with
  | .le e => match (c.eng e).run with
    | some t => BitVec.ofNat 32 (c.stackOf x).length :: (c.task t).ctx.words
    | none => []
  | .mc m =>
    let k := c.core m
    BitVec.ofNat 32 k.stack.length :: k.ctx.words ++ [k.mst, k.vb, k.ien.setWidth 32, k.ien.extractLsb' 32 32]

/-- An act of a debug port that is unlocked far enough (Table 20.4). -/
def Chip.debugDo (c : Chip) (x : Exec) (a : DebugAct) : Chip :=
  match a, x with
  | .halt, .le e => (c.modEng e fun g => { g with halted := true }).wdgFreeze
  | .halt, .mc m => (c.modCore m fun k => { k with halted := true }).wdgFreeze
  | .step, .le e => match (c.eng e).run with
    | some t => c.modEng e fun g => { g with step := some (t, (c.task t).steps, (c.task t).ts) }
    | none => c
  | .step, .mc m => if (c.core m).halted then c.modCore m fun k => { k with step := true } else c
  | .regs, x => c.answer (bytesOfWords (c.stateOf x))
  | .stack k, x => c.answer (bytesOfWords (((c.stackOf x)[k]?.map RetEntry.words).getD []))
  | .stackPut k pc ibD ibB flg ba, .le e => match c.physOf e with
    | some p => c.modPh p fun q => { q with stack := q.stack.set k ⟨pc, ibD, ibB, flg, ba⟩ }
    | none => c
  | .stackPut k pc ibD ibB flg ba, .mc m => c.modCore m fun q => { q with stack := q.stack.set k ⟨pc, ibD, ibB, flg, ba⟩ }
  | .journal k, x => c.answer (bytesOfWords (((c.journalOf x)[k]?.map JEntry.words).getD []))
  | .journalPut k data mask, .le e => match c.physOf e with
    | some p => c.modPh p fun q => { q with journal := q.journal.modify k fun j => { j with data, mask } }
    | none => c
  | .journalPut _ _ _, .mc _ => c

/-- The scope that an act takes: OBSERVE reads engine state without halting, and FULL does the rest (Table 20.4). -/
def debugScope (a : DebugAct) : Nat := if a = .regs then 1 else 2

/-- DEBUG_HALT (R412, R481): a debug port that is unlocked far enough halts an engine or a core, which freezes the watchdog, or steps or inspects
it. -/
def execDebugHalt (x : DebugOp) (now : Time) (s : State) : Host.Outcome State Fault Refusal := s.on fun c =>
  let c := c.arrive now
  if c.get GRD_DBG.DBGST < debugScope x.act then c else c.debugDo x.unit x.act

/-- DEBUG_RESUME (R412): the halt ends. -/
def execDebugResume (x : Exec) (now : Time) (s : State) : Host.Outcome State Fault Refusal := s.on fun c =>
  let c := c.arrive now
  match x with
  | .le e => (c.modEng e fun g => { g with halted := false }).wdgFreeze
  | .mc m => (c.modCore m fun k => { k with halted := false, step := false }).wdgFreeze

end Sys2Proof.Machine
end

