-- ==== Sys2Proof/Machine/Flags.lean ====
section
/-! DEFINITION. The flags of Table 3.2, the condition codes of Table 3.3 and the flag computations of Table 4.5. FLG holds Z in
bit 0, N in 1, C in 2, V in 3 and O in 4 (R56). -/

namespace Sys2Proof.Machine

/-- FLG from its five flags (R56). -/
def mkFlg (z n c v o : Bool) : BitVec 5 :=
  BitVec.ofBool o ++ BitVec.ofBool v ++ BitVec.ofBool c ++ BitVec.ofBool n ++ BitVec.ofBool z

/-- Z of FLG. -/
def fZ (f : BitVec 5) : Bool := f.getLsbD 0
/-- N of FLG. -/
def fN (f : BitVec 5) : Bool := f.getLsbD 1
/-- C of FLG. -/
def fC (f : BitVec 5) : Bool := f.getLsbD 2
/-- V of FLG. -/
def fV (f : BitVec 5) : Bool := f.getLsbD 3
/-- O of FLG. -/
def fO (f : BitVec 5) : Bool := f.getLsbD 4

/-- Write Z and N, leaving C, V and O. -/
def setZN (f : BitVec 5) (z n : Bool) : BitVec 5 := mkFlg z n (fC f) (fV f) (fO f)
/-- Write Z, N and C, leaving V and O. -/
def setZNC (f : BitVec 5) (z n c : Bool) : BitVec 5 := mkFlg z n c (fV f) (fO f)
/-- Write Z, N and V; setting V sets O (Table 3.2). -/
def setZNV (f : BitVec 5) (z n v : Bool) : BitVec 5 := mkFlg z n (fC f) v (fO f || v)
/-- Write Z, N, C and V; setting V sets O (Table 3.2). -/
def setZNCV (f : BitVec 5) (z n c v : Bool) : BitVec 5 := mkFlg z n c v (fO f || v)
/-- Write Z and N, and set O when `o` holds (R82). -/
def setZNO (f : BitVec 5) (z n o : Bool) : BitVec 5 := mkFlg z n (fC f) (fV f) (fO f || o)
/-- Write Z alone (BCMP, R118). -/
def setZ (f : BitVec 5) (z : Bool) : BitVec 5 := mkFlg z (fN f) (fC f) (fV f) (fO f)

/-- Whether the condition holds (R58, Table 3.3). -/
def condHolds (cond : BitVec 4) (f : BitVec 5) (ba : Bool) : Bool :=
  match cond.toNat with
  | 0x0 => true
  | 0x1 => ba
  | 0x2 => !ba
  | 0x3 => fZ f
  | 0x4 => !fZ f
  | 0x5 => fN f
  | 0x6 => !fN f
  | 0x7 => fC f
  | 0x8 => !fC f
  | 0x9 => fV f
  | 0xA => !fV f
  | 0xB => fC f && !fZ f
  | 0xC => !fC f || fZ f
  | 0xD => fN f == fV f
  | 0xE => fN f != fV f
  | _ => !fZ f && (fN f == fV f)

/-- An integer result with the flags that go with it. -/
structure AluRes (w : Nat) where
  val : BitVec w
  flg : BitVec 5
deriving DecidableEq, Repr

/-- Whether the integer fits `w` bits signed. -/
def fitsS (w : Nat) (i : Int) : Bool := -(2 : Int) ^ (w - 1) ≤ i && i < (2 : Int) ^ (w - 1)
/-- Whether the integer fits `w` bits unsigned. -/
def fitsU (w : Nat) (i : Int) : Bool := 0 ≤ i && i < (2 : Int) ^ w

/-- Addition with carry in: C is the carry out, V signed overflow (Table 3.2). -/
def aluAdd {w : Nat} (f : BitVec 5) (a b : BitVec w) (cin : Bool) : AluRes w :=
  let r := a + b + BitVec.ofNat w cin.toNat
  ⟨r, setZNCV f (r == 0) r.msb (2 ^ w ≤ a.toNat + b.toNat + cin.toNat) (!fitsS w (a.toInt + b.toInt + cin.toNat))⟩

/-- Subtraction with borrow in: C is 1 when no borrow occurs, V signed overflow (Table 3.2). -/
def aluSub {w : Nat} (f : BitVec 5) (a b : BitVec w) (bin : Bool) : AluRes w :=
  let r := a - b - BitVec.ofNat w bin.toNat
  ⟨r, setZNCV f (r == 0) r.msb (b.toNat + bin.toNat ≤ a.toNat) (!fitsS w (a.toInt - b.toInt - bin.toNat))⟩

/-- A logical result: Z and N only. -/
def aluLog {w : Nat} (f : BitVec 5) (r : BitVec w) : AluRes w := ⟨r, setZN f (r == 0) r.msb⟩

/-- Absolute value: that of the most negative number is itself and sets V. -/
def aluAbs {w : Nat} (f : BitVec 5) (a : BitVec w) : AluRes w :=
  let r := if a.msb then -a else a
  ⟨r, setZNV f (r == 0) r.msb r.msb⟩

/-- Kinds of shift (R107). -/
inductive Shift where
  | shl | shr | sar | rol | ror
deriving DecidableEq, Repr

/-- The shift of R107 by `n`: a count of 0 leaves the value and C. -/
def aluShift {w : Nat} (k : Shift) (f : BitVec 5) (a : BitVec w) (n : Nat) : AluRes w :=
  let keep : AluRes w := ⟨a, setZN f (a == 0) a.msb⟩
  let out (r : BitVec w) (c : Bool) : AluRes w := ⟨r, setZNC f (r == 0) r.msb c⟩
  match k with
  | .shl => if n = 0 then keep else if n ≤ w then out (a <<< n) (a.getLsbD (w - n)) else out 0 false
  | .shr => if n = 0 then keep else if n ≤ w then out (a >>> n) (a.getLsbD (n - 1)) else out 0 false
  | .sar => if n = 0 then keep else if n < w then out (a.sshiftRight n) (a.getLsbD (n - 1)) else out (a.sshiftRight w) a.msb
  | .rol => if n % w = 0 then keep else out (a.rotateLeft (n % w)) (a.getLsbD (w - n % w))
  | .ror => if n % w = 0 then keep else out (a.rotateRight (n % w)) (a.getLsbD (n % w - 1))

end Sys2Proof.Machine
end

