-- ==== Sys2Proof/Machine/Operands.lean ====
section
/-! DEFINITION. What a Kazhin instruction sees and does, apart from who issues it: its addressing modes (Tables 4.1 to 4.3), the
reserved encodings (R93, R95), and the effect it asks for. -/

namespace Sys2Proof.Machine

/-- What an access does. -/
inductive KDo where
  | fetch | read | write
deriving DecidableEq, Repr

/-- An access of a program by its byte address in the system address map (R23), and its length. -/
structure KAcc where
  what : KDo
  addr : Nat
  n : Nat
deriving DecidableEq, Repr

/-- An exception: its code of Table 3.8, the data or bit address of the faulting access, or 0 (R84, IY), and for the access exception the access
that was refused. -/
structure Exc where
  code : Nat
  addr : Word
  acc : Option KAcc
deriving DecidableEq, Repr

/-- The order of causes (R81); a read that a core's instruction still waits for, coded above them all, goes first. -/
def Exc.rank (e : Exc) : Nat := if 0x100 ≤ e.code then 0 else e.code

/-- The exception of lowest code among those that one instruction raises (R81). -/
def lowest : List (Option Exc) → Option Exc
  | [] => none
  | e :: l =>
    match e, lowest l with
    | some a, some b => if b.rank < a.rank then some b else some a
    | some a, none => some a
    | none, r => r

/-- Raise the exception, if any. -/
def raise (e : Option Exc) : Except Exc Unit :=
  match e with
  | some x => .error x
  | none => .ok ()

/-- The exception that a result is, if it is one. -/
def excOf {α : Type} : Except Exc α → Option Exc
  | .error e => some e
  | .ok _ => none

/-- The exception `code` when the condition holds. -/
def excIf (b : Bool) (code : Nat) (addr : Word := 0) : Option Exc := if b then some ⟨code, addr, none⟩ else none

/-- The access exception of an access to memory at `addr`, when the condition holds. -/
def accIf (b : Bool) (addr : Word) (acc : KAcc) : Option Exc := if b then some ⟨0x04, addr, some acc⟩ else none

/-- What an instruction reads: its fields, the context in true form, the return stack, and the operand spaces as the issuing
copy reaches them. `rd a n` reads `n` bytes, `ck a n` checks a write of `n` bytes; `img` and `bit` likewise. -/
structure KIn where
  core : Bool
  am : BitVec 3
  opd : BitVec 18
  ext : Word
  x : Ctx
  rsp : Nat
  depth : Nat
  top : Option RetEntry
  /-- TS, or TB on a core (R113) -/
  ts : Long
  /-- stack floor and top (R69) -/
  floor : Nat
  ceil : Nat
  /-- the issue of a block repeat has yet to pay its setup (R117) -/
  fresh : Bool
  rd : Word → Nat → Except Exc Long
  ck : Word → Nat → Option Exc
  img : Bool → Nat → Except Exc Word
  ckImg : Bool → Nat → Option Exc
  bit : Nat → Except Exc Bool
  ckBit : Nat → Option Exc

/-- A store (Table 6.2): its space, address (byte address, bit address or Q word index), size in bytes (1 for a bit, 4 for a Q
word) and data. -/
structure KStore where
  space : JSpace
  addr : Nat
  size : Nat
  val : Long
deriving DecidableEq, Repr

/-- Where control goes. -/
inductive KNext where
  /-- the next instruction -/
  | seq
  /-- a branch target -/
  | jump (pc : Word)
  /-- PC stays at a block repeat (R77) -/
  | stay
deriving DecidableEq, Repr

/-- What an instruction changes. -/
structure KOut where
  x : Ctx
  steps : Nat
  next : KNext := .seq
  push : Bool := false
  pop : Bool := false
  stores : List KStore := []
  /-- the decision that the store-compare unit compares (Table 6.2), beside the condition -/
  dec : Option Long := none
deriving DecidableEq, Repr

/-- The meaning of an instruction whose condition holds. -/
abbrev Sem := KIn → Except Exc KOut

/-- OPD sign-extended. -/
def KIn.simm (k : KIn) : Word := k.opd.signExtend 32

/-- The byte address of a memory operand in word modes 2 to 6 (Table 4.1). -/
def KIn.ea (k : KIn) : Word :=
  match k.am.toNat with
  | 2 => k.x.ibD + k.opd.setWidth 32
  | 3 => k.x.dsp + k.opd.setWidth 32
  | 4 => k.x.ix + k.simm
  | 5 => k.x.iy + k.simm
  | _ => k.ext

/-- The surcharge of Table 4.1. -/
def KIn.s (k : KIn) : Nat :=
  match k.am.toNat with
  | 0 => 0
  | 6 => 2
  | _ => 1

/-- The surcharge of an 8-byte operand (R100): one further step when it comes from memory. -/
def KIn.sL (k : KIn) : Nat := if 2 ≤ k.am.toNat then k.s + 1 else k.s

/-- The image index of mode IMG (Table 4.1). -/
def KIn.imgIdx (k : KIn) : Nat := ((k.opd.toNat % 2 ^ 13) + (if k.opd.getLsbD 16 then k.x.ix.toNat else 0)) % 2 ^ 32
/-- Mode IMG names a Q word. -/
def KIn.imgQ (k : KIn) : Bool := k.opd.getLsbD 17

/-- The 32-bit operand of Table 4.1. -/
def KIn.word (k : KIn) : Except Exc Word :=
  match k.am.toNat with
  | 0 => .ok k.simm
  | 1 => .ok k.ext
  | 7 => k.img k.imgQ k.imgIdx
  | _ => (k.rd k.ea 4).map (·.setWidth 32)

/-- The 64-bit operand of Table 4.1. -/
def KIn.long (k : KIn) : Except Exc Long :=
  match k.am.toNat with
  | 0 => .ok (k.opd.signExtend 64)
  | 1 => .ok (k.ext.signExtend 64)
  | _ => k.rd k.ea 8

/-- The bit address of Table 4.2. -/
def KIn.bitEa (k : KIn) : Except Exc Nat :=
  let idx (w : Word) : Except Exc Nat := if w.toNat < 2 ^ 24 then .ok w.toNat else .error ⟨0x04, w, none⟩
  match k.am.toNat with
  | 0 => .ok (k.x.ibB.toNat + k.opd.toNat)
  | 1 => .ok (k.ext.toNat % 2 ^ 24)
  | 2 => idx (k.x.ix + k.simm)
  | 3 => idx (k.x.iy + k.simm)
  | 4 => .ok (k.opd.toNat % 2 ^ 16)
  | 5 => .ok (0x010000 + k.opd.toNat % 2 ^ 16)
  | _ => .ok (0x030000 + k.opd.toNat)

/-- The surcharge of Table 4.2. -/
def KIn.sB (k : KIn) : Nat := if k.am.toNat = 1 then 2 else 1

/-- The branch target of Table 4.3; one that is not a multiple of 4 raises misalignment (R99). -/
def KIn.target (k : KIn) : Except Exc Word :=
  let t := match k.am.toNat with
    | 0 => k.x.pc + 4 * k.simm
    | 1 => k.ext
    | _ => k.x.ix + 4 * k.simm
  if t.toNat % 4 = 0 then .ok t else .error ⟨0x03, 0, none⟩

/-- The decision that a computed target is (Table 6.2): form XT only. -/
def KIn.xtDec (k : KIn) (t : Word) : Option Long := if k.am.toNat = 4 then some (t.setWidth 64) else none

/-! ### Reserved encodings -/

/-- The operand classes of Table 4.4; `chk` and `cali` are the AM lists that Table 4.5 gives for CHK and CALI, `ext` the class of
CALE and IPA, which always have an extension word, and `reserved` that of a reserved OPC. -/
inductive OpClass where
  | w | w6 | m | mq | l | a | b | j | dash | chk | cali | ext | reserved
deriving DecidableEq, Repr

/-- The operand class of an OPC (Table 4.5). -/
def opClass (opc : Nat) : OpClass :=
  if opc ∈ [0x05, 0x11, 0x12, 0x13, 0x14, 0x15, 0x16, 0x17, 0x18, 0x19, 0x1C, 0x20, 0x21, 0x22, 0x24, 0x25, 0x26, 0x27, 0x28,
      0x29, 0x2A, 0x3E] then .w
  else if opc ∈ [0x07, 0x60, 0x61, 0x62, 0x63, 0x64] then .w6
  else if opc ∈ [0x01, 0x02, 0x03, 0x04, 0x08, 0x09, 0x0B, 0x0C, 0x2B, 0x2C, 0x4E, 0x4F] then .m
  else if opc = 0x0A then .mq
  else if opc ∈ [0x06, 0x30, 0x31, 0x32, 0x34, 0x35, 0x36, 0x37, 0x39, 0x3A, 0x3B, 0x67, 0x68, 0x69, 0x6A, 0x6B] then .l
  else if opc ∈ [0x0D, 0x58, 0x59, 0x5A, 0x5B] then .a
  else if opc ∈ [0x40, 0x41, 0x42, 0x43, 0x44, 0x45, 0x46, 0x47, 0x48, 0x49, 0x4A, 0x5C, 0x5D] then .b
  else if opc ∈ [0x50, 0x51] then .j
  else if opc = 0x1D then .chk
  else if opc = 0x53 then .cali
  else if opc ∈ [0x52, 0x55] then .ext
  else if opc ∈ [0x2F, 0x3F, 0x6D, 0x6E, 0x6F] || 0x7B ≤ opc then .reserved
  else .dash

/-- Whether an instruction has an extension word (R93). -/
def hasExt (opc : Nat) (am : BitVec 3) : Bool :=
  match opClass opc with
  | .ext | .cali => true
  | .w | .w6 | .m | .mq | .l | .a | .chk => am = 1 || am = 6
  | .b | .j => am = 1
  | .dash | .reserved => false

/-- A field that the OPD of a class-dash opcode may not hold (R95, R103 to R120, Tables 4.5, 4.6, 4.7, 4.10). -/
def dashReserved (opc : Nat) (opd : BitVec 18) : Bool :=
  let v := opd.toNat
  match opc with
  | 0x0E | 0x0F | 0x2D | 0x2E => 2 ≤ v
  | 0x10 => 0x100 ≤ v || 13 ≤ v % 16 || 10 ≤ v / 16
  | 0x1E | 0x1F | 0x56 => false
  | 0x38 => 0x200 ≤ v || v / 64 % 4 = 3 || (opd.getLsbD 8 && v % 64 ≠ 0)
  | 0x3D => 0x10 ≤ v
  | 0x4B | 0x4D => 3 ≤ v
  | 0x5E =>
    match v / 2 ^ 14 with
    | 0 | 1 => v % 2 ^ 14 ≠ 0
    | 2 => opd.getLsbD 13 && v / 16 % 4 ≠ 0
    | 3 => v / 32 % 2 ^ 9 ≠ 0 || v % 32 < 28
    | 4 => false
    | _ => true
  | 0x66 | 0x70 | 0x71 | 0x72 => 4 ≤ v
  | 0x76 | 0x77 => 32 ≤ v
  | 0x78 => 32 ≤ v || 6 ≤ v % 16 || (16 ≤ v && 4 ≤ v % 16)
  | _ => v ≠ 0

/-- Whether a word is a reserved encoding (R95); `core` marks the Kazhin-M profile, in which image operands are reserved
(Table 3.10). -/
def isReserved (core : Bool) (opc : Nat) (am : BitVec 3) (opd : BitVec 18) (ext : Word) : Bool :=
  let a := am.toNat
  let v := opd.toNat
  let word : Bool := (a = 6 && v ≠ 0) || (a = 7 && (v / 2 ^ 13 % 8 ≠ 0 || core))
  match opClass opc with
  | .w => word
  | .w6 | .l => a = 7 || word
  | .m | .a => a < 2 || a = 7 || word
  | .mq => a < 2 || word
  | .chk => a = 0 || a = 7 || word
  | .b => a = 7 || (a = 1 && (v ≠ 0 || 2 ^ 24 ≤ ext.toNat)) || ((a = 4 || a = 5) && 2 ^ 16 ≤ v)
  | .j => !(a = 0 || a = 1 || a = 4) || (a = 1 && v ≠ 0)
  | .cali => a = 1 || 6 ≤ a || (a = 0 && v ≠ 0) || 2 ^ 22 ≤ ext.toNat
  | .ext => a ≠ 0 || (opc = 0x55 && ext.toNat % 2 ^ 22 ≠ 0)
  | .dash => a ≠ 0 || dashReserved opc opd
  | .reserved => true

end Sys2Proof.Machine
end

