-- ==== Sys2Proof/Machine/Scan.lean ====
section
/-! DEFINITION. Activations on the logical engines: priority and dispatch (R125, R285), the start of an activation with its ledger
entry 0 (R54, R155), its end, and its abandonment (R84, R146, R183). -/

namespace Sys2Proof.Machine

/-! ### Sample ledger -/

/-- The first entry of a task's slice in the ledger of its engine (R155). Where an activation moves the slice of another task, entries that this
task holds stay where they were written (DESIGN CHOICE, log entry 109). -/
def Chip.ledgBase (c : Chip) (t : Fin 32) : Nat :=
  ((List.finRange 32).filter fun u => u < t && c.kind u != 0 && c.leOf u == c.leOf t).foldl
    (fun n u => n + c.get (SCN_TCFG.LEDGMAX u)) 0

/-- The address of entry `i` of a task's activation. -/
def Chip.ledgAddr (c : Chip) (t : Fin 32) (i : Nat) : Nat := 0x2C050000 + 0x2000 * (c.leOf t).val + 16 * (c.ledgBase t + i)

/-- Write an entry in the layout of Table 5.5. -/
def Chip.ledgPut (c : Chip) (l : Ledger) : Chip :=
  let a := c.ledgAddr l.task l.index
  let w2 := l.src + 2 ^ 4 * l.ba.toNat + 2 ^ 8 * l.task.val + 2 ^ 16 * l.index
  (((c.st a 8 l.value.toNat).st (a + 8) 4 w2).st (a + 12) 4 l.sel).clean a 16

/-- Read an entry. -/
def Chip.ledgGet (c : Chip) (t : Fin 32) (i : Nat) : Ledger :=
  let a := c.ledgAddr t i
  let w2 := c.ld (a + 8) 4
  { value := BitVec.ofNat 64 (c.ld a 8), src := w2 % 16, ba := w2 / 16 % 2 == 1, task := t, index := i, sel := c.ld (a + 12) 4 % 2 ^ 14 }

/-! ### Journals -/

/-- The entries that an activation of `t` holds in a journal. -/
def Phys.held (p : Phys) (t : Fin 32) : Nat := (p.journal.filter (·.task == t)).length

/-- The words of a journal that hold an entry are poisoned where that entry is, and no longer where it has been written whole (R303). -/
def Chip.jrnWords (c : Chip) (p : Fin 18) : Chip :=
  let j := (c.ph p).journal
  let base := (0x34000000 + 0x8000 * p.val) / 8
  let bad := (j.zipIdx.filter (·.1.bad)).map fun e => base + e.2
  if c.flt.poison.isEmpty && bad.isEmpty then c
  else c.modFlt fun f => { f with poison := f.poison.filter (fun w => !(base ≤ w && w < base + j.length)) ++ bad }

/-- USED of the engine's journal (SHD_LEJRN). -/
def Chip.jrnCount (c : Chip) (e : Fin 16) : Chip :=
  match c.physOf e with
  | none => c
  | some p =>
    let c := c.jrnWords p
    let n := (c.ph p).journal.length
    let c := c.put (SHD_LEJRN.USED e) n
    if c.get (SHD_LEJRN.HWM e) < n then c.put (SHD_LEJRN.HWM e) n else c

/-- The journal entries of an activation are discarded. -/
def Chip.jrnDrop (c : Chip) (t : Fin 32) : Chip :=
  match c.physOf (c.leOf t) with
  | none => c
  | some p => (c.modPh p fun q => { q with journal := q.journal.filter (·.task != t) }).jrnCount (c.leOf t)

/-! ### Priority and dispatch -/

/-- The class that an error activation serves. -/
def Chip.serving (c : Chip) (t : Fin 32) : Nat := match (c.task t).serves with
  | some q => q.cls
  | none => 0

/-- Task `a` outranks task `b` (R125, R285): among error activations the higher class served, then the priority. -/
def Chip.outranks (c : Chip) (a b : Fin 32) : Bool :=
  let pa := c.get (SCN_TCFG.PRIO a)
  let pb := c.get (SCN_TCFG.PRIO b)
  if c.kind a == kERR && c.kind b == kERR then
    c.serving b < c.serving a || (c.serving a == c.serving b && pa < pb)
  else pa < pb

/-- Task `a` goes before task `b` on a free engine: it outranks `b`, or at equal rank it has begun while `b` has not, or both or
neither has begun and it has the lower number (a task never pre-empts another of equal priority). -/
def Chip.before (c : Chip) (a b : Fin 32) : Bool :=
  if c.outranks a b then true
  else if c.outranks b a then false
  else if (c.task a).begun != (c.task b).begun then (c.task a).begun
  else a < b

/-- The tasks ready on an engine. -/
def Chip.ready (c : Chip) (e : Fin 16) : List (Fin 32) :=
  (List.finRange 32).filter fun t => (c.task t).live && c.leOf t == e && !(c.task t).reexec && c.kind t != 0

/-- The first of a list in an order. -/
def firstBy {α : Type} (before : α → α → Bool) : List α → Option α
  | [] => none
  | a :: l => match firstBy before l with
    | none => some a
    | some b => some (if before b a then b else a)

/-- The engine takes up a task: a first start fixes the return-stack depths (R54, R70). -/
def Chip.giveEngine (c : Chip) (e : Fin 16) (t : Fin 32) : Chip :=
  let c := c.modEng e fun g => { g with run := some t }
  if (c.task t).begun then c
  else match c.physOf e with
    | none => c
    | some p =>
      let n := (c.ph p).stack.length
      let m := (c.ph p).shStack.length
      c.modTask t fun k => { k with begun := true, depth := n, sdepth := m, base := n, sbase := m }

/-- A free engine takes up the first ready task. -/
def Chip.dispatch (c : Chip) (e : Fin 16) : Chip :=
  let g := c.eng e
  if g.run.isSome || g.mismatch.isSome || g.remap.isSome || (c.physOf e).isNone then c
  else match firstBy c.before (c.ready e) with
    | none => c
    | some t => c.giveEngine e t

/-! ### Starting an activation -/

/-- The context at task start (R54). -/
def Chip.startCtx (c : Chip) (t : Fin 32) (acc ach ix iy : Word) : Ctx :=
  { acc, ach, ix, iy, ba := false, ibD := c.rd (SCN_TIBD.reg t), ibB := (c.rd (SCN_TIBB.reg t)).setWidth 24,
    pc := c.rd (SCN_TENTRY.reg t), dsp := c.rd (SCN_TSTKHI.reg t), flg := 0, brc := 0, brs := 0, brd := 0 }

/-- The shadow form of a context: the registers of R166 complemented. It is its own inverse. -/
def Ctx.compl (x : Ctx) : Ctx :=
  { x with acc := ~~~x.acc, ach := ~~~x.ach, ix := ~~~x.ix, iy := ~~~x.iy, ba := !x.ba, dsp := ~~~x.dsp, brc := ~~~x.brc,
           brs := ~~~x.brs, brd := ~~~x.brd }

/-- The activation's registers are set as at task start, its step count restarts and its next LDG is the first (R144, R157). -/
def Chip.loadCtx (c : Chip) (t : Fin 32) (acc ach ix iy : Word) : Chip :=
  let x := c.startCtx t acc ach ix iy
  c.modTask t fun k =>
    { k with live := true, begun := false, ctx := x, sctx := x.compl, steps := 0, ledgPos := 1, inBlock := false, admitted := false,
             waiting := false, resumed := false, reexec := false }

/-- The partner's entries of an activation are forgotten from an index on. -/
def Chip.ledgForget (c : Chip) (t : Fin 32) (i : Nat) : Chip :=
  c.modHsb fun h => { h with ledger := h.ledger.filter fun l => l.1 || l.2.task != t || l.2.index < i }

/-- An activation takes its TS and writes it as entry 0 of its ledger slice (R113, R155), which the partner receives too (R248). Outside FOLLOW
no entry of an earlier activation that the partner has sent serves it (R270). -/
def Chip.takeTS (c : Chip) (t : Fin 32) (ts : Time) : Chip :=
  let l : Ledger := { value := ts, src := 0xF, ba := false, task := t, index := 0, sel := 0 }
  let c := (c.modTask t fun k =>
    { k with ts := ts, ledgUsed := 1, ledgPos := 1, mm := 0, ended := .none,
             endmk := k.endmk.filter (·.1 == c.rd (SCN_TSCAN.reg t)) }).ledgPut l
  let c := c.doIf (c.mode != mFOLLOW) (·.ledgForget t 0)
  if c.leading then c.send (.ledger (c.leOf t) l) else c

/-- An event, error or start-up activation begins at its release (R54): it is counted, takes TS and becomes ready. Its PACE_WARN is WARN at that
instant (DESIGN CHOICE, log entry 104: R143 records the bit at HOUSEKEEP, which such a task has not). -/
def Chip.beginActivation (c : Chip) (t : Fin 32) (ts : Time) (acc ach ix iy : Word) : Chip :=
  let c := (c.incWrap (SCN_TSCAN.SCAN t)).takeTS t ts
  let c := c.modTask t fun k => { k with paired := c.flag (SHD_TSTAT.CUR t), warm := c.flag (SHD_TSTAT.WARM t), lastRel := some ts,
                                         pace := c.flag (SCN_LEPACE.WARN (c.leOf t)) }
  let c := (c.loadCtx t acc ach ix iy).put (SCN_TSTAT.PHASE t) 2
  let c := if c.leading then c.send (.token t ⟨c.rd (SCN_TSCAN.reg t), ts, acc, ach, ix, iy⟩) else c
  c.dispatch (c.leOf t)

/-! ### Ending an activation -/

/-- The activation that has pre-empted `t` most directly (R71). -/
def Chip.above (c : Chip) (t : Fin 32) : Option (Fin 32) :=
  firstBy (fun a b => c.outranks b a) ((List.finRange 32).filter fun u =>
    u != t && (c.task u).live && (c.task u).begun && c.leOf u == c.leOf t && c.outranks u t)

/-- The return-stack entries of an activation above its start depth are discarded (R112). Those of a pre-empted one lie beneath the entries of
the activation above it, whose RSP no discard moves (R57, R71): they go when that one leaves. -/
def Chip.unwind (c : Chip) (t : Fin 32) : Chip :=
  let k := c.task t
  if !k.begun then c
  else
    let c := match c.above t with
      | some u => c.modTask u fun v => { v with base := k.base, sbase := k.sbase }
      | none => match c.physOf (c.leOf t) with
        | none => c
        | some p => c.modPh p fun q =>
          { q with stack := q.stack.drop (q.stack.length - k.base), shStack := q.shStack.drop (q.shStack.length - k.sbase) }
    c.modTask t fun k => { k with begun := false }

/-- The activation leaves its engine, and its return-stack entries go (R112). -/
def Chip.leaveEngine (c : Chip) (t : Fin 32) : Chip :=
  let e := c.leOf t
  let k := c.task t
  let c := c.unwind t
  let c := if k.waiting || k.admitted then c.turnEnd 4 (.le e) else c
  let c := c.modTask t fun k => { k with live := false, begun := false, waiting := false, admitted := false, inBlock := false }
  if (c.eng e).run = some t then c.modEng e fun g => { g with run := none } else c

/-- The rule of R143 for TASK_OVERRUN. -/
def Abn.isOverrun : Abn → Bool
  | .overrun _ => true
  | _ => false

/-- The task whose protected storage the shadow unit copies (R186). -/
def Chip.warming (c : Chip) : Option (Fin 32) := c.sys.copying

/-- The shadow unit takes up the next warm-up copy when it has none: of several that wait, the lowest task number first (DESIGN CHOICE, log entry 105). -/
def Chip.warmPick (c : Chip) : Chip :=
  let next : Option (Fin 32) := (List.finRange 32).find? fun t => c.flag (SHD_TSTAT.WARM t) && (c.task t).warmLeft != some 0
  if c.warming.isSome || next.isNone then c else (c.modSys fun y => { y with copying := next }).turnAsk 4 .shadow

/-- The copy in hand ends or is given up, with its request or admission, and the next one begins. -/
def Chip.warmLeave (c : Chip) : Chip := ((c.turnEnd 4 .shadow).modSys fun y => { y with copying := none }).warmPick

/-- A warm-up of the task ends without its copy (R188). -/
def Chip.warmStop (c : Chip) (t : Fin 32) : Chip :=
  if !c.flag (SHD_TSTAT.WARM t) then c
  else
    let c := (c.clr (SHD_TSTAT.WARM t)).modTask t fun k => { k with warm := false, warmLeft := none }
    if c.warming = some t then c.warmLeave else c

/-- A staged mode of the task takes effect (R185, R186, R188): PAIRED begins with a warm-up, SINGLE at once. A 1 that arrives again while a
warm-up lasts begins it afresh, also where its copy has finished and PAIRED has not begun (DESIGN CHOICE, log entry 105: R188 abandons an
unfinished copy and does not name a finished one). -/
def Chip.modeSwitch (c : Chip) (t : Fin 32) : Chip :=
  if !c.flag (SHD_TSTAT.PEND t) then c
  else
    let m := spGet 0 c.staged (SHD_TMODE.reg t)
    let c := (c.wr (SHD_TMODE.reg t) m).clr (SHD_TSTAT.PEND t)
    let c := { c with staged := spDel (SHD_TMODE.reg t) c.staged }
    let c := c.warmStop t
    if m = 0 then c.clr (SHD_TSTAT.CUR t)
    else if c.flag (SHD_TSTAT.CUR t) then c
    else
      let n := c.get (SHD_TPDLEN.LEN t) + c.get (SHD_TPBLEN.LEN t) / 8 + (c.get (SCN_TSTKHI.TOP t) - c.get (SCN_TSTKLO.FLOOR t))
      ((c.set1 (SHD_TSTAT.WARM t)).modTask t fun k => { k with warmLeft := some n }).warmPick

/-- A completed warm-up copy lets the next scan run PAIRED (R186). -/
def Chip.warmDone (c : Chip) (t : Fin 32) : Chip :=
  if c.flag (SHD_TSTAT.WARM t) && (c.task t).warmLeft == some 0 then
    (((c.clr (SHD_TSTAT.WARM t)).set1 (SHD_TSTAT.CUR t)).set1 SHD_STAT.WUDONE).modTask t fun k => { k with warm := false, warmLeft := none }
  else c

/-- The number of the scan of `t` that is under way: that of its own release, not of one that has come since (R128, R130); the release
count of a task that is not cyclic. -/
def Chip.scanNum (c : Chip) (t : Fin 32) : Word :=
  match (c.task t).lastRel, c.kind t == kCYC with
  | some r, true =>
    let a := (c.rd SCN_ANCHORL.reg).toNat + 2 ^ 32 * (c.rd SCN_ANCHORH.reg).toNat + 1000 * c.get (SCN_TPHASE.PHASE t)
    BitVec.ofNat 32 ((r.toNat - a) / (1000 * c.get (SCN_TPERIOD.PERIOD t)))
  | _, _ => c.rd (SCN_TSCAN.reg t)

/-- The scan number at whose boundary a change staged now takes effect (R255). A task that is not cyclic and has no activation takes it at once
(R185), with the release count that it has. -/
def Chip.boundaryNum (c : Chip) (t : Fin 32) : Word :=
  if c.phase t ≠ 0 || c.kind t != kCYC then c.scanNum t
  else c.rd (SCN_TSCAN.reg t) + (if (c.task t).lastRel.isNone then 0 else 1)

/-- The pivot task's migration is under way (R201). -/
def Chip.migrating (c : Chip) (t : Fin 32) : Bool := c.get OLC_STATE.STATE == 4 && c.olc.pivot == t

/-- The activation point (R197) is this boundary of task `t`, that of the scan or release count that ACTIVATE took: the migration of a task package
begins, an all-task package holds the releases (R202). -/
def Chip.actPoint (c : Chip) (t : Fin 32) : Chip :=
  if c.get OLC_STATE.STATE == 3 && c.olc.pivot == t && !c.olc.hold && c.olc.actScan.toNat ≤ (c.scanNum t).toNat then
    if c.flag OLC_ACT.ARMSCOPE then c.modOlc fun o => { o with hold := true, holdAt := c.tb } else c.put OLC_STATE.STATE 4
  else c

/-- The end of an activation without partition: FIRST_SCAN and TASK_OVERRUN (R143), the ledger (R156), a staged mode (R185) and the
force changes of the task (R209). -/
def Chip.finish (c : Chip) (t : Fin 32) (how : Abn) : Chip :=
  let c := c.modTask t fun k =>
    { k with ended := how, overrun := how.isOverrun, first := false, ledgUsed := 0, ledgPos := 0, serves := none, steps := 0 }
  let c := (c.put (SCN_TSTAT.PHASE t) (if (c.task t).fired || (c.task t).token.isSome then 6 else 0)).modeSwitch t
  ((c.warmDone t).forceEffect fun f => f.owner == some t).actPoint t

/-! ### Abandonment -/

/-- The agent ID of a logical engine's physical engine (Table 0.3). -/
def Chip.agentOf (c : Chip) (e : Fin 16) : Nat := match c.physOf e with
  | some p => 0x10 + p.val
  | none => 0

/-- The ENDMK of an activation that ended (R248, R252): how it ended, and its OVK or exception code. -/
def Abn.how : Abn → Nat × Nat
  | .none => (0, 0)
  | .overrun k => (1, k)
  | .exception n => (2, n)
  | .mismatch => (2, 0x11)
  | .resync => (3, 0)

/-- The TASK fault of an abandonment, with ERR_EXEC's entry registers (Table 3.9). -/
def Chip.taskFault (c : Chip) (t : Fin 32) (code : Nat) (ix iy : Word) : Chip :=
  let e := c.leOf t
  let acc : Word := BitVec.ofNat 32 (code + 2 ^ 8 * t.val + 2 ^ 16 * e.val)
  c.fault 2 0x01 (t.val + 2 ^ 8 * e.val) code (c.agentOf e) (.exec acc (c.tb.setWidth 32) ix iy) (some t)

/-- On the standby, an own end and the ENDMK of the same activation must agree (R252, Table 9.4). -/
def Chip.endCheck (c : Chip) (t : Fin 32) : Chip :=
  if c.mode != mFOLLOW then c
  else
    let k := c.task t
    match k.ends.find? fun e => k.endmk.any (·.1 == e.1) with
    | none => c
    | some e => if k.endmk.contains e then c.modTask t fun k => { k with ends := k.ends.filter (· != e) } else c.lockstepLost 7

/-- The end of an activation: the active unit sends its ENDMK (R248), the standby notes its own end (R252). -/
def Chip.endSend (c : Chip) (t : Fin 32) (how : Abn) : Chip :=
  let n := c.scanNum t
  if c.leading then c.send (.endmk t n how.how.1 how.how.2)
  else if c.mode == mFOLLOW then (c.modTask t fun k => { k with ends := k.ends ++ [(n, how.how.1, how.how.2)] }).endCheck t
  else c

/-- What an abandonment does to the activation itself (R84, R146): its stores in the journal are discarded, its engine is freed, and a
cyclic scan goes on with HOUSEKEEP. `gone` marks a scan abandoned because its next release has come (R130), which releases its ledger
entries at once (R156). -/
def Chip.dropActivation (c : Chip) (t : Fin 32) (how : Abn) (gone : Bool) : Chip :=
  let c := (c.jrnDrop t).leaveEngine t
  if c.kind t == kCYC then
    if gone then
      (c.modTask t fun k => { k with
        old := some how, oldB := k.frozenB, oldW := k.frozenW, oldPace := k.paceTS, ledgUsed := 0, ledgPos := 0 }).modImg fun m =>
          { m with queue := m.queue ++ [(t, 6)] }
    else (c.modTask t fun k => { k with ended := how }).toPhase t 5
  else c.finish t how

/-- The status bits of an abandonment (SCN_TSTAT, SHD_STAT). -/
def Chip.abandonBits (c : Chip) (t : Fin 32) (how : Abn) (code : Nat) : Chip :=
  match how with
  | .overrun k => ((c.put (SCN_TSTAT.OVK t) k).set1 (SCN_TSTAT.OVR t)).set1 SCN_STAT.OV
  | _ => if code = 0x11 then (c.set1 SHD_STAT.UNREC).incSat SHD_CNT.UNRECCNT else c

/-- What follows the fault of an abandonment: a start-up task's failure returns the chip to STOP (R51), any other activation is dropped, and its
engine takes up another. -/
def Chip.abandonEnd (c : Chip) (t : Fin 32) (how : Abn) (gone : Bool) : Chip :=
  if !c.scanning then c
  else if c.kind t == kSTART && c.sys.startup == some t then ((c.jrnDrop t).leaveEngine t).enterStop 8
  else (c.dropActivation t how gone).dispatch (c.leOf t)

/-- A fault of activation `t` that is no abandonment by itself: as a TASK fault, raised so or escalated to it, it abandons the activation
(Table 10.1, R287, R288). -/
def Chip.actFault (c : Chip) (t : Fin 32) (how : Abn) (cls skind inst cause agent : Nat) (rf : ReqFor) : Chip :=
  if (c.task t).live && (cls = 2 || (cls = 1 && c.escalates cls skind inst cause (some t))) then
    (((c.abandonBits t how cause).endSend t how).fault cls skind inst cause agent rf (some t)).abandonEnd t how false
  else c.fault cls skind inst cause agent rf (some t)

/-- An activation is abandoned (R84, R146, R173, R183), with its TASK fault. -/
def Chip.abandon (c : Chip) (t : Fin 32) (how : Abn) (code : Nat) (ix iy : Word) (gone : Bool := false) : Chip :=
  (((c.abandonBits t how code).endSend t how).taskFault t code ix iy).abandonEnd t how gone

/-- An exception of a task (R84): IX is the PC of the faulting instruction, IY the address of the access. -/
def Chip.except (c : Chip) (t : Fin 32) (x : Exc) : Chip := c.abandon t (.exception x.code) x.code (c.task t).ctx.pc x.addr

/-- A budget overrun of a kind (R146): IX is 0. -/
def Chip.overrun (c : Chip) (t : Fin 32) (kind : Nat) (gone : Bool := false) : Chip :=
  c.abandon t (.overrun kind) 0x10 0 0 gone

end Sys2Proof.Machine
end

