-- ==== Sys2Proof/Machine/Forces.lean ====
section
/-! DEFINITION. Changes staged to a scan boundary: the force table (R208 to R211), the mode of a task (R185), and those that the active unit of a
pair forwards (R212, R255). -/

namespace Sys2Proof.Machine

/-- Two ranges overlap. -/
def overlap (a n b m : Nat) : Bool := a < b + m && b < a + n

/-- The owner of a symbol's force (R208). -/
def Chip.forceOwner (c : Chip) (y : Symbol) : Option (Fin 32) :=
  match y.space with
  | 0 => c.ownerOf (y.loc / 512)
  | 1 => c.ownerOf ((y.loc - 0x10000) / 512)
  | 2 | 3 => c.ownerOf (y.loc / 64)
  | _ => if c.kind y.owner != 0 then some y.owner else none

/-- A force command is refused with FERR (R211). -/
def Chip.forceRefuse (c : Chip) (e : Nat) : Chip := (c.put OLC_STATE.FERR e).set1 OLC_STAT.FERRS

/-- A symbol that no force may name (R211). -/
def symForbidden (y : Symbol) : Bool :=
  (y.space == 6 && overlap y.loc (2 ^ y.size) 0x20300000 0x300000) ||
    ((y.space == 1 || y.space == 4 || y.space == 5) && (0xA00000 ≤ y.loc || (0x20000 ≤ y.loc && y.loc < 0x30000))) || 7 ≤ y.space

/-- A staged change takes effect at once: without owner, or in STOP and SAFE-HOLD (R209). -/
def Chip.forceNow (c : Chip) (f : Force) : Bool := f.owner.isNone || !c.scanning

/-- The change staged for an ID is counted, and takes effect where nothing delays it. -/
def Chip.forceStaged (c : Chip) (id : Word) : Chip := (c.forceEffect fun f => f.sym.id == id && c.forceNow f).fcnt

/-- A force change is forwarded as the register writes that make it, with its boundary (R212, R255): that of an owner that is not cyclic and has no
activation is the end of its next one (R209). -/
def Chip.forceSend (c : Chip) (id : Word) (set : Option Long) : Chip :=
  match c.olc.forces.find? (·.sym.id == id) with
  | none => c
  | some f =>
    let t := f.owner.getD 0
    let n := match f.owner with
      | some t => if c.kind t == kCYC || (c.task t).live then c.boundaryNum t else c.boundaryNum t + 1
      | none => 0
    c.doIf c.leading fun c =>
      let c := c.send (.stage t OLC_FID.reg id n)
      match set with
      | some v => ((c.send (.stage t OLC_FVALL.reg (v.setWidth 32) n)).send (.stage t OLC_FVALH.reg (v.extractLsb' 32 32) n)).send
          (.stage t OLC_FCMD.reg 0x5A3C0001 n)
      | none => c.send (.stage t OLC_FCMD.reg 0x5A3C0002 n)

/-- SET of an ID to a value (R208, R211). -/
def Chip.forceSet (c : Chip) (id : Word) (v : Long) : Chip :=
  match c.olc.syms.find? (·.id == id) with
  | none => c.forceRefuse 1
  | some y =>
    if symForbidden y then c.forceRefuse 1
    else if c.olc.forces.any (·.sym.id == id) then
      let c := c.modOlc fun o => { o with forces := o.forces.map fun f => if f.sym.id = id then { f with pend := some (.set v) } else f }
      (c.forceSend id (some v)).forceStaged id
    else if 256 ≤ c.olc.forces.length then c.forceRefuse 2
    else
      let c := c.modOlc fun o => { o with forces := o.forces ++ [⟨y, c.forceOwner y, none, some (.set v)⟩] }
      (c.forceSend id (some v)).forceStaged id

/-- CLEAR of an ID (R211). -/
def Chip.forceClear (c : Chip) (id : Word) : Chip :=
  if c.olc.forces.any (·.sym.id == id) then
    let c := c.modOlc fun o => { o with forces := o.forces.map fun f => if f.sym.id = id then { f with pend := some .clear } else f }
    (c.forceSend id none).forceStaged id
  else c.forceRefuse 4

/-- A mode is staged (R185): it takes effect at the boundary, or at once for a task other than a cyclic one without activation. -/
def Chip.stageMode (c : Chip) (t : Fin 32) (v : Word) : Chip :=
  let c := { c with staged := spSet 2 (SHD_TMODE.reg t) (v &&& 1) c.staged }
  let c := c.set1 (SHD_TSTAT.PEND t)
  let c := c.doIf c.leading fun c => c.send (.stage t (SHD_TMODE.reg t) (v &&& 1) (c.boundaryNum t))
  if c.kind t != kCYC && !(c.task t).live then c.modeSwitch t else c

/-! ### Forwarded changes -/

/-- The force change that a forwarded FCMD makes, with the ID and value forwarded before it (R212, R255). -/
def Chip.stageForce (c : Chip) (l : List (Fin 32 × Nat × Word × Word)) (cmd : Word) : Chip :=
  let last (a : Nat) : Word := ((l.filter (·.2.1 == a)).getLast?.map fun e => e.2.2.1).getD 0
  if cmd = 0x5A3C0001 then c.forceSet (last OLC_FID.reg) (last OLC_FVALH.reg ++ last OLC_FVALL.reg)
  else if cmd = 0x5A3C0002 then c.forceClear (last OLC_FID.reg) else c

/-- The forwarded writes that `p` selects are staged in this unit, in their order. -/
def Chip.stageThose (c : Chip) (p : Fin 32 × Nat × Word × Word → Bool) : Chip :=
  let l := c.hsb.staged.filter p
  let c := c.modHsb fun h => { h with staged := h.staged.filter (!p ·) }
  (l.zipIdx).foldl (fun (c : Chip) e =>
    let a := e.1.2.1
    if a = OLC_FCMD.reg then c.stageForce (l.take e.2) e.1.2.2.1
    else if a = SHD_TMODE.reg e.1.1 then c.stageMode e.1.1 e.1.2.2.1
    else c) c

/-- Forwarded writes of task `t` that are due are staged in this unit, and take effect at the boundary of the same scan (R255). -/
def Chip.stageDue (c : Chip) (t : Fin 32) : Chip := c.stageThose fun e => e.1 == t && e.2.2.2.toNat ≤ (c.scanNum t).toNat

/-- At a takeover the forwarded writes of cyclic tasks go on waiting for the boundaries of their scans; those of the other tasks, whose release counts
begin again, take effect at the next end of an activation, and an armed activation keeps its distance (DESIGN CHOICE, log entry 130). -/
def Chip.stageKept (c : Chip) : Chip :=
  let n := c.scanNum c.olc.pivot
  let c := c.doIf (c.kind c.olc.pivot != kCYC) fun c => c.modOlc fun o => { o with actScan := BitVec.ofNat 32 (o.actScan.toNat - n.toNat) }
  c.stageThose fun e => c.kind e.1 != kCYC

end Sys2Proof.Machine
end

