-- ==== Sys2Proof/Machine/Follow.lean ====
section
/-! DEFINITION. The start of an activation on the standby (R249). -/

namespace Sys2Proof.Machine

/-- The standby's own request for the fault that a TOKEN serves leaves its queue: the oldest with the same ACC, whose fault is then in handling
(R286; DEDUCED, log entry 66). -/
def Chip.ownReq (c : Chip) (acc : Word) : Option ErrReq × Chip :=
  let f := c.flt
  let io := (List.finRange 4).flatMap fun r => (c.ring r).ioq
  match (f.execQ ++ f.commQ ++ f.sysQ ++ io).find? fun q => q.acc == acc with
  | none => (none, c)
  | some q =>
    let c := c.modFlt fun f => { f with execQ := f.execQ.erase q, commQ := f.commQ.erase q, sysQ := f.sysQ.erase q }
    (some q, (c.forFin 4 fun r c => c.modRing r fun g => { g with ioq := g.ioq.erase q }).eqCounts)

/-! ### Abandonments in step -/

/-- An end that the same code and inputs bring about on both units (R252). -/
def deterministic (how code : Nat) : Bool := (how = 2 && 1 ≤ code && code ≤ 0x0A) || (how = 1 && (code = 1 || code = 3))

/-- The end that an ENDMK tells. -/
def abnOf (how code : Nat) : Abn :=
  match how with
  | 0 => .none
  | 1 => .overrun code
  | 2 => if code = 0x11 then .mismatch else .exception code
  | _ => .resync

/-- The ENDMK of the activation under way has told of its abandonment: a PAIRED one is abandoned in step, and a SINGLE one without deterministic cause
ends lockstep (R252, Table 9.4). -/
def Chip.endMirror (c : Chip) (t : Fin 32) : Chip :=
  let k := c.task t
  let mine := c.mode == mFOLLOW && (k.live || (c.kind t == kCYC && c.phase t = 3))
  match k.endmk.find? fun e => e.1 == c.scanNum t && e.2.1 ≠ 0 with
  | none => c
  | some (_, how, code) =>
    if !mine then c
    else if k.paired then ((c.abandonBits t (abnOf how code) 0).dropActivation t (abnOf how code) false).dispatch (c.leOf t)
    else if !deterministic how code then c.lockstepLost 7
    else c

/-- A task of the standby starts from its TOKEN (R249), outside its migration (R201): a cyclic one with its INPART too. While an all-task package
holds the releases, only an
activation that the active unit had released before starts (R202; DESIGN CHOICE, log entry 114). -/
def Chip.followTake (c : Chip) (t : Fin 32) : Chip :=
  let k := c.task t
  match k.token with
  | none => c
  | some tok =>
    if k.live || c.mode != mFOLLOW || c.flushing || c.migrating t || (c.olc.hold && c.olc.holdAt.toNat < tok.ts.toNat) then c
    else
      let next := c.modHsb fun h => { h with ledger := (h.ledger.filter fun l => l.1 || l.2.task != t).map fun l =>
        if l.2.task = t then (false, l.2) else l }
      let next := (next.modTask t fun k => { k with token := none }).wr (SCN_TSCAN.reg t) tok.num
      if c.kind t == kCYC then
        match k.inpart with
        | none => c
        | some (b, w) =>
          if c.phase t ≠ 0 then c
          else
            let a := (c.rd SCN_ANCHORL.reg).toNat + 2 ^ 32 * (c.rd SCN_ANCHORH.reg).toNat + 1000 * c.get (SCN_TPHASE.PHASE t)
            let rel : Time := BitVec.ofNat 64 (a + tok.num.toNat * (1000 * c.get (SCN_TPERIOD.PERIOD t)))
            let c := (next.takeTS t tok.ts).modTask t fun k =>
              { k with paired := c.flag (SHD_TSTAT.CUR t), warm := c.flag (SHD_TSTAT.WARM t), lastRel := some rel,
                       paceTS := c.flag (SCN_LEPACE.WARN (c.leOf t)), frozenB := b, frozenW := w, inpart := none, lateDue := none }
            c.toPhase t 1
      else
        let cls := if c.kind t == kERR then (if c.get (SCN_TCFG.SUB t) == 1 then 2 else 1) else 0
        let (own, c) := if cls = 0 then (none, next) else next.ownReq tok.acc
        let own := own.getD ⟨cls, 0, 0, 0, 0, 0, 0, 0, 0⟩
        let own := { own with acc := tok.acc, ach := tok.ach, ix := tok.ix, iy := tok.iy }
        let c := c.modTask t fun k => { k with serves := if cls = 0 then none else some own }
        let c := c.wr (SCN_TSCAN.reg t) (tok.num - 1)
        c.beginActivation t tok.ts tok.acc tok.ach tok.ix tok.iy

/-- A task of the standby starts where it may: the forwarded writes that are due with it are staged (R255), and an ENDMK that has come before it
abandons it (R252). -/
def Chip.followStart (c : Chip) (t : Fin 32) : Chip := ((c.followTake t).stageDue t).endMirror t

end Sys2Proof.Machine
end

