-- ==== Sys2Proof/Machine/Points.lean ====
section
/-! DEFINITION. Process points at the stations: substitute values (R236), and the inputs as the ring receive image shows them, with
dropouts and forces (R208, R229, R234). -/

namespace Sys2Proof.Machine

/-- The agent of the cyclic sequencer of a ring, and with `odd` of its other sequencer (Table 0.3). -/
def iosAgent (r : Fin 4) (odd : Bool) : Nat := 0x30 + 2 * r.val + odd.toNat

/-- The guard lets the cyclic sequencer of a ring read the substitute record of a station, which it reads whole (R471; DESIGN CHOICE, log entry 151). -/
def Chip.subOk (c : Chip) (r : Fin 4) (s : Nat) : Bool :=
  c.admits (BitVec.ofNat 8 (iosAgent r false)) false (c.get (STN_SUBBASE.BASE r) + 0x400 * s) 0x400

/-- The read of a substitute record that the guard refuses is recorded (R24, R471). -/
def Chip.subNote (c : Chip) (r : Fin 4) (s : Nat) : Chip :=
  let b := c.get (STN_SUBBASE.BASE r)
  if b = 0 then c else c.refusePart (BitVec.ofNat 8 (iosAgent r false)) false (b + 0x400 * s) 0x400

/-- The mode of a point in the substitute record of its station (Table 8.7): `off` is the byte offset of the modes; a ring without
table acts as ZERO, and so does mode 3. A refused read delivers 0 (R24). -/
def Chip.subMode (c : Chip) (r : Fin 4) (s off ch : Nat) : Nat :=
  let b := c.get (STN_SUBBASE.BASE r)
  if b = 0 then 1
  else if !c.subOk r s then 0
  else match c.ld (b + 0x400 * s + off + ch / 4) 1 / 4 ^ (ch % 4) % 4 with
    | 3 => 1
    | m => m

/-- A constant of the substitute record. -/
def Chip.subConst (c : Chip) (r : Fin 4) (s off n : Nat) : Nat := c.ld (c.get (STN_SUBBASE.BASE r) + 0x400 * s + off) n

/-- The substitute value of a digital point; `hold` is what HOLD gives. -/
def Chip.subBit (c : Chip) (r : Fin 4) (s : Nat) (out : Bool) (ch : Nat) (hold : Bool) : Bool :=
  match c.subMode r s (if out then 0x300 else 0x280) ch with
  | 0 => hold
  | 2 => (c.subConst r s ((if out then 0x40 else 0) + ch / 8) 1).testBit (ch % 8)
  | _ => false

/-- The substitute values of the digital points `32 g` to `32 g + 31`. -/
def Chip.subBits32 (c : Chip) (r : Fin 4) (s : Nat) (out : Bool) (g : Nat) (hold : Word) : Word :=
  BitVec.ofNat 32 ((List.range 32).map fun i => (c.subBit r s out (32 * g + i) (hold.getLsbD i)).toNat * 2 ^ i).sum

/-- The substitute value of an analogue word. -/
def Chip.subWord (c : Chip) (r : Fin 4) (s : Nat) (out : Bool) (i : Nat) (hold : Word) : Word :=
  match c.subMode r s (if out then 0x390 else 0x380) i with
  | 0 => hold
  | 2 => BitVec.ofNat 32 (c.subConst r s ((if out then 0x180 else 0x80) + 4 * i) 4)
  | _ => 0

/-- Group `g` of the ring has faulted (STN_PGF0, STN_PGF1). -/
def Chip.pgf (c : Chip) (r : Fin 4) (g : Fin 64) : Bool :=
  if g.val < 32 then c.bitOf (STN_PGF0.PGF r) g else c.bitOf (STN_PGF1.PGF r) (g - 32)

/-- The output bits of a station with its paralleled groups expanded (R232): every member shows the leader's value, or the leader's substitute
while an ACT group is faulted (R233). -/
def Chip.expand (c : Chip) (k : Nat) (bits : List (Nat × Word)) : List (Nat × Word) :=
  let r : Fin 4 := Fin.ofNat 4 (k / 32)
  (List.finRange 64).foldl (fun (l : List (Nat × Word)) (g : Fin 64) =>
    if !c.flag (STN_PGCFG.VALID r g) || c.get (STN_PGCFG.STATION r g) != k % 32 then l
    else
      let lead := c.get (STN_PGCFG.LEADER r g)
      let at_ (l : List (Nat × Word)) : Bool := (imgGet l (16 * k + lead / 32)).getLsbD (lead % 32)
      let v := if c.flag (STN_PGCFG.ACT r g) && c.pgf r g then c.subBit r (k % 32) true lead (at_ c.img.outB) else at_ bits
      (List.range (c.get (STN_PGCFG.NM1 r g) + 1)).foldl (fun l i =>
        let b := 512 * k + lead + i
        let m := (1 : Word) <<< (b % 32)
        imgSet (b / 32) (if v then imgGet l (b / 32) ||| m else imgGet l (b / 32) &&& ~~~m) l) l) bits

/-- Input forces in effect on the bits `32 i` to `32 i + 31` of the I area (Table 7.6). -/
def Chip.forceBits (c : Chip) (i : Nat) (w : Word) : Word :=
  c.olc.forces.foldl (fun w f =>
    match f.cur with
    | some v =>
      if f.sym.space = 0 && f.sym.loc / 32 = i then
        let m := (1 : Word) <<< (f.sym.loc % 32)
        if v.getLsbD 0 then w ||| m else w &&& ~~~m
      else w
    | none => w) w

/-- An input force in effect on I word `i`. -/
def Chip.forceWord (c : Chip) (i : Nat) (w : Word) : Word :=
  c.olc.forces.foldl (fun w f =>
    match f.cur with
    | some v => if f.sym.space = 2 && f.sym.loc = i then v.setWidth 32 else w
    | none => w) w

/-- Station index `k` is dropped out or not admitted. -/
def Chip.dropped (c : Chip) (k : Nat) : Bool := c.bitOf (STN_DROP.DROP (k / 32)) (k % 32)

/-- The digital inputs `32 g` to `32 g + 31` of station index `k` as received most recently: substitutes while it is dropped out, and
forces before both. -/
def Chip.inBits (c : Chip) (k g : Nat) : Word :=
  let w := imgGet c.img.curB (16 * k + g)
  c.forceBits (16 * k + g) (if c.dropped k then c.subBits32 (Fin.ofNat 4 (k / 32)) (k % 32) false g w else w)

/-- The analogue input `i` of station index `k` as received most recently. -/
def Chip.inWord (c : Chip) (k i : Nat) : Word :=
  let w := imgGet c.img.curW (64 * k + i)
  c.forceWord (64 * k + i) (if c.dropped k then c.subWord (Fin.ofNat 4 (k / 32)) (k % 32) false i w else w)

/-- The latest complete cycle takes the inputs of station index `k`. -/
def Chip.rxTake (c : Chip) (k : Nat) : Chip :=
  let c := c.doIf (c.dropped k) (·.subNote (Fin.ofNat 4 (k / 32)) (k % 32))
  let b := (List.range 16).foldl (fun l g => imgSet (16 * k + g) (c.inBits k g) l) c.img.rxB
  let w := (List.range 64).foldl (fun l i => imgSet (64 * k + i) (c.inWord k i) l) c.img.rxW
  (((c.modImg fun m => { m with rxB := b, rxW := w }).markWords imgRxBits (16 * k) 16).markWords imgRxWords (64 * k) 64).cleanPart imgRxBits imgRxWords k

end Sys2Proof.Machine
end

