-- ==== Sys2Proof/Machine/Rtc.lean ====
section
/-! DEFINITION. Real-time clock and backup domain (R394 to R405). -/

namespace Sys2Proof.Machine

/-! ### Calendar -/

/-- The seconds from 2000-01-01 00:00:00 to the end of 2399 (R394). -/
def rtcSpan : Nat := 146097 * 86400

/-- Year − 2000, month and day of a day number counted from 2000-01-01, in the Gregorian calendar. -/
def civil (days : Nat) : Nat × Nat × Nat :=
  let e := (days + 146097 - 60) % 146097
  let y := (e - e / 1460 + e / 36524 - e / 146096) / 365
  let d := e - (365 * y + y / 4 - y / 100)
  let mp := (5 * d + 2) / 153
  let m := if mp < 10 then mp + 3 else mp - 9
  ((if m ≤ 2 then y + 1 else y) % 400, m, d - (153 * mp + 2) / 5 + 1)

/-- The day number of a date. -/
def daysOf (y m d : Nat) : Nat :=
  let y := if m ≤ 2 then (y + 399) % 400 else y
  let n := (153 * (if 2 < m then m - 3 else m + 9) + 2) / 5 + d - 1
  (365 * y + y / 4 - y / 100 + n + 60) % 146097

/-- A leap year (R394): 2100, 2200 and 2300 are common. -/
def isLeap (y : Nat) : Bool := y % 4 == 0 && (y % 100 != 0 || y % 400 == 0)

/-- The days of a month. -/
def monthDays (y m : Nat) : Nat :=
  match m with
  | 2 => if isLeap y then 29 else 28
  | 4 | 6 | 9 | 11 => 30
  | _ => 31

/-- PRE now (R394, R400): the crystal's counts since the last boundary, a free value of its own clock (R19), with the counts gained or
skipped (log entry 13). -/
def Chip.rtcPre (c : Chip) : Nat :=
  min 32767 (c.rtc.pre + c.crystal).toNat

/-- DATE_AND_TIME (R396). -/
def Chip.dateAndTime (c : Chip) : Long :=
  BitVec.ofNat 64 (c.rtc.secs * 1000000000 + c.rtcPre * 1000000000 / 32768)

/-- A snapshot (R397). -/
def Chip.rtcTake (c : Chip) : Chip :=
  let (y, m, d) := civil (c.rtc.secs / 86400)
  let s := c.rtc.secs % 86400
  let c := ((c.put RTC_SDATE.YEAR y).put RTC_SDATE.MONTH m).put RTC_SDATE.DAY d
  let c := (((c.put RTC_STIME.WDAY c.rtc.wday).put RTC_STIME.HOUR (s / 3600)).put RTC_STIME.MIN (s / 60 % 60)).put RTC_STIME.SEC (s % 60)
  (c.put RTC_SSUB.PRE c.rtcPre).incWrap RTC_STATE.SNAPSEQ

/-- The staged date and time are a valid calendar time (R398), and so is the weekday where the commit is to set it (DESIGN CHOICE, log entry 143). -/
def Chip.rtcStagedOk (c : Chip) (wdayEn : Bool) : Bool :=
  let y := c.get RTC_WDATE.YEAR
  let m := c.get RTC_WDATE.MONTH
  let d := c.get RTC_WDATE.DAY
  y < 400 && 1 ≤ m && m ≤ 12 && 1 ≤ d && d ≤ monthDays y m && c.get RTC_WTIME.HOUR < 24 && c.get RTC_WTIME.MIN < 60 &&
    c.get RTC_WTIME.SEC < 60 && (!wdayEn || c.get RTC_WTIME.WDAY < 7)

/-- ARM (R398). -/
def Chip.rtcArm (c : Chip) (v : Word) : Chip :=
  if c.rtcStagedOk (v.getLsbD 4) then (c.set1 RTC_STATE.WPEND).modRtc fun r => { r with wdayEn := v.getLsbD 4 } else c.set1 RTC_STAT.WERR

/-- Agents that may write it: a debug port at OBSERVE reads only (Table 20.4). -/
def Chip.rtcWriter (c : Chip) (a : AgentId) : Bool := isMc a || isHost a || c.isDebug a 2

/-- The staged trim comes into force (R400). -/
def Chip.rtcTrim (c : Chip) : Chip :=
  match c.staged.find? (·.1 == RTC_TRIM.reg) with
  | none => c
  | some (_, w) => { c.wr RTC_TRIM.reg w with staged := spDel RTC_TRIM.reg c.staged }

/-- The trim in force. -/
def Chip.trim (c : Chip) : Int := ((c.rd RTC_TRIM.reg).setWidth 10).toInt

/-- Every field enabled in RTC_ALM equals the clock (R401). -/
def Chip.alarmHits (c : Chip) : Bool :=
  let (_, _, d) := civil (c.rtc.secs / 86400)
  let s := c.rtc.secs % 86400
  let en := c.get RTC_ALM.EN
  en != 0 && (!en.testBit 3 || c.get RTC_ALM.DAY == d) && (!en.testBit 2 || c.get RTC_ALM.HOUR == s / 3600) &&
    (!en.testBit 1 || c.get RTC_ALM.MIN == s / 60 % 60) && (!en.testBit 0 || c.get RTC_ALM.SEC == s % 60)

/-- The clock advances by one second, or takes the staged value (R394, R395, R398, R399). A value that is not the one counting gives ends the slots
of the trim window (R400). -/
def Chip.rtcAdvance (c : Chip) : Chip :=
  if c.flag RTC_STATE.WPEND then
    let secs := 86400 * daysOf (c.get RTC_WDATE.YEAR) (c.get RTC_WDATE.MONTH) (c.get RTC_WDATE.DAY) +
      3600 * c.get RTC_WTIME.HOUR + 60 * c.get RTC_WTIME.MIN + c.get RTC_WTIME.SEC
    let wday := if c.rtc.wdayEn then c.get RTC_WTIME.WDAY else c.rtc.wday
    let c := c.modRtc fun r => { r with secs, wday, slot := if secs = (r.secs + 1) % rtcSpan then r.slot else 512 }
    let c := ((c.clr RTC_STATE.TIMEINV).clr RTC_STATE.WPEND).set1 RTC_STAT.WDONE
    (c.wr RTC_WTBL.reg (c.tb.setWidth 32)).wr RTC_WTBH.reg (c.tb.extractLsb' 32 32)
  else
    let n := c.rtc.secs + 1
    let c := if n % 86400 = 0 then c.modRtc fun r => { r with wday := (r.wday + 1) % 7 } else c
    if n = rtcSpan then (c.modRtc fun r => { r with secs := 0 }).set1 RTC_STATE.TIMEINV else c.modRtc fun r => { r with secs := n }

/-- RTC_SECOND_BOUNDARY (R394, R395, R398, R400, R401); the alarm is a wake source (Table 18.4). -/
def execRtcSecondBoundary (now : Time) (s : State) : Host.Outcome State Fault Refusal := s.onHeld fun c =>
  let c := (c.arrive now).rtcAdvance
  let c := c.modRtc fun r => { r with pre := 0, preAt := c.tb }
  let c := if c.rtc.secs % 128 = 0 then (c.rtcTrim).modRtc fun r => { r with slot := 0 } else c
  (if c.alarmHits then (c.set1 RTC_STAT.ALARM).wake 3 else c).set1 RTC_STAT.TICK

/-- RTC_TAKE (R397). -/
def execRtcTake (w : Cmd) (s : State) : Host.Outcome State Fault Refusal := s.on fun c =>
  (c.arrive w.now).allow (c.rtcWriter w.agent) w.agent RTC_SNAP.reg (·.rtcTake)

/-- RTC_ARM (R398): a write without the key is ignored. -/
def execRtcArm (w : Cmd) (s : State) : Host.Outcome State Fault Refusal := s.on fun c =>
  (c.arrive w.now).allow (c.rtcWriter w.agent) w.agent RTC_WCMD.reg fun c =>
    if RTC_WCMD.KEY.of w.value = 0x7C31 then c.rtcArm w.value else c

/-- RTC_CANCEL (R399). -/
def execRtcCancel (w : Cmd) (s : State) : Host.Outcome State Fault Refusal := s.on fun c =>
  (c.arrive w.now).allow (c.rtcWriter w.agent) w.agent RTC_WCMD.reg fun c =>
    if RTC_WCMD.KEY.of w.value = 0x7C31 then c.clr RTC_STATE.WPEND else c

/-- TRIM_SLOT_END (R400): in the first |TRIM| slots of a window, PRE gains or skips one count. -/
def execTrimSlotEnd (now : Time) (s : State) : Host.Outcome State Fault Refusal := s.onHeld fun c =>
  let c := c.arrive now
  if 512 ≤ c.rtc.slot then c
  else c.modRtc fun r =>
    { r with slot := r.slot + 1, pre := if r.slot < c.trim.natAbs then (if 0 < c.trim then r.pre + 1 else r.pre - 1) else r.pre }

/-- VBAT_MEASURE (R404): a reading in millivolts. -/
def execVbatMeasure (mv : Nat) (now : Time) (s : State) : Host.Outcome State Fault Refusal := s.on fun c =>
  let c := c.arrive now
  if mv < 2000 then
    let said := c.rtc.vbatSaid
    let c := (c.set1 RTC_STAT.VBATLOW).modRtc fun r => { r with vbatSaid := true }
    if said then c else c.fault 0 0x0E 0 0x58
  else c

/-- The signed distance of an instant from the nearest multiple of 1,000,000,000 ns. -/
def ppsErr (t : Nat) : Int :=
  let r := t % 1000000000
  if r ≤ 500000000 then r else (r : Int) - 1000000000

/-- A tick of the 125 MHz clock: TB advances by 8 ns (R19) while REFCLK runs and the chip is powered and not halted after a power-fail flush.
TB is steered by ticks of 16 ns or of none: on the standby in FOLLOW toward the active unit's TB (R256), elsewhere by PPS, with at most MAXSLEW
changes in a million ticks (R405; DEDUCED, log entry 117). -/
def Chip.tick (c : Chip) : Chip :=
  if c.sys.held ≠ .no || !c.pins.refclk then c
  else if c.mode == mFOLLOW then
    if 8 ≤ c.hsb.steer then ({ c with tb := c.tb + 16 }).modHsb fun h => { h with steer := h.steer - 8 }
    else if c.hsb.steer ≤ -8 then c.modHsb fun h => { h with steer := h.steer + 8 }
    else { c with tb := c.tb + 8 }
  else if c.flag RTC_PPSCTL.EN then
    let r := c.rtc
    let up := decide (8 ≤ r.slew) && decide (r.slews < c.get RTC_PPSCTL.MAXSLEW)
    let down := decide (r.slew ≤ -8) && decide (r.slews < c.get RTC_PPSCTL.MAXSLEW)
    let last := decide (1000000 ≤ r.ticks + 1)
    let c := if up then { c with tb := c.tb + 16 } else if down then c else { c with tb := c.tb + 8 }
    c.modRtc fun r => { r with
      slew := if up then r.slew - 8 else if down then r.slew + 8 else r.slew
      ticks := if last then 0 else r.ticks + 1
      slews := if last then 0 else r.slews + (up || down).toNat }
  else { c with tb := c.tb + 8 }

/-- PPS_EDGE (R405): the selected edge, stamped in TB. In FOLLOW the standby ignores PPS (R256). -/
def execPpsEdge (now : Time) (s : State) : Host.Outcome State Fault Refusal := s.on fun c =>
  let c := c.arrive now
  let ok := match c.rtc.ppsAt with
    | none => true
    | some p => p.toNat + 999000000 ≤ now.toNat && now.toNat ≤ p.toNat + 1001000000
  if !c.flag RTC_PPSCTL.EN || !ok || c.mode == mFOLLOW then c
  else
    let e := ppsErr now.toNat
    let run := if e.natAbs ≤ 100 then c.rtc.ppsRun + 1 else 0
    let c := (c.wr RTC_PPSERR.reg (BitVec.ofInt 32 e)).modRtc fun r => { r with ppsAt := some now, ppsRun := run, slew := -e }
    if 10 ≤ run then c.set1 RTC_STATE.PPSLOCK else if 1000 < e.natAbs then c.clr RTC_STATE.PPSLOCK else c

/-- PPS_LOSS_TIMEOUT (R405): 3 s without an accepted edge, since the last one or since EN; TB runs free on REFCLK. -/
def execPpsLossTimeout (now : Time) (s : State) : Host.Outcome State Fault Refusal := s.on fun c =>
  let c := c.arrive now
  let late := (c.rtc.ppsAt.or c.rtc.ppsOn).any fun p => p.toNat + 3000000000 ≤ c.t
  if c.flag RTC_PPSCTL.EN && late && c.mode != mFOLLOW then
    (((c.set1 RTC_STAT.PPSLOST).clr RTC_STATE.PPSLOCK).modRtc fun r => { r with ppsAt := none, ppsOn := none, ppsRun := 0, slew := 0 }).fault 0 0x0E 0 0x5A
  else c

/-- The restart of the backup domain at power-good when the brown-out latch is set (R403). -/
def Chip.backupSample (c : Chip) : Chip :=
  if c.rtc.latch then
    let c := c.modRtc fun r => { r with secs := 0, wday := 0, pre := 0, preAt := c.tb, slot := 0, latch := false, wdayEn := false }
    let c := { c with staged := spDel RTC_TRIM.reg c.staged }
    let c := ((c.wr RTC_TRIM.reg 0).wr RTC_ALM.reg 0).forFin 16 fun j c => c.wr (RTC_BKP.reg j) 0
    ((c.set1 RTC_STATE.TIMEINV).set1 RTC_STAT.BKPLOST).fault 1 0x0E 0 0x59
  else c

/-- BACKUP_DOMAIN_BROWNOUT (R403): the latch sets. -/
def execBackupDomainBrownout (now : Time) (s : State) : Host.Outcome State Fault Refusal := s.onHeld fun c =>
  (c.arrive now).modRtc fun r => { r with latch := true }

end Sys2Proof.Machine
end

