-- ==== Sys2Proof/Machine/Float.lean ====
section
/-! DEFINITION. IEEE 754-2019 binary32 and binary64 arithmetic with roundTiesToEven, subnormals and default exception handling
(R82, R83): every operation is computed exactly and rounded once. A NaN result is the default quiet NaN. -/

namespace Sys2Proof.Machine

/-- A binary interchange format: precision and width of the exponent field. -/
structure FFmt where
  p : Nat
  ew : Nat
deriving DecidableEq, Repr

/-- binary32. -/
def b32 : FFmt := ⟨24, 8⟩
/-- binary64. -/
def b64 : FFmt := ⟨53, 11⟩

/-- The exponent of the least significant bit of the smallest subnormal. -/
def FFmt.qmin (f : FFmt) : Int := 3 - (2 : Int) ^ (f.ew - 1) - f.p
/-- The largest biased exponent, that of infinities and NaNs. -/
def FFmt.emax (f : FFmt) : Nat := 2 ^ f.ew - 1
/-- The default quiet NaN (R82). -/
def FFmt.nan (f : FFmt) : Nat := f.emax * 2 ^ (f.p - 1) + 2 ^ (f.p - 2)
/-- An infinity. -/
def FFmt.inf (f : FFmt) (s : Bool) : Nat := s.toNat * 2 ^ (f.p - 1 + f.ew) + f.emax * 2 ^ (f.p - 1)
/-- A zero. -/
def FFmt.zero (f : FFmt) (s : Bool) : Nat := s.toNat * 2 ^ (f.p - 1 + f.ew)

/-- The value of a floating-point datum: a finite one is `(-1)^s * m * 2^e`. -/
inductive FVal where
  | nan (signalling : Bool)
  | inf (s : Bool)
  | fin (s : Bool) (m : Nat) (e : Int)
deriving DecidableEq, Repr

/-- Decode a datum. -/
def FFmt.dec (f : FFmt) (w : Nat) : FVal :=
  let frac := w % 2 ^ (f.p - 1)
  let ex := w / 2 ^ (f.p - 1) % 2 ^ f.ew
  let s := w / 2 ^ (f.p - 1 + f.ew) % 2 == 1
  if ex = f.emax then (if frac = 0 then .inf s else .nan (frac / 2 ^ (f.p - 2) == 0))
  else if ex = 0 then .fin s frac f.qmin
  else .fin s (frac + 2 ^ (f.p - 1)) (f.qmin + (ex - 1))

/-- A delivered datum and whether the operation signals invalid operation, division by zero or overflow (R56, O). -/
structure FRes where
  val : Nat
  exc : Bool
deriving DecidableEq, Repr

/-- Round `m * 2^e` to even. The result is the integer significand in units of `2^q`. -/
def rne (m : Nat) (e q : Int) : Nat :=
  if q ≤ e then m * 2 ^ (e - q).toNat
  else
    let d := 2 ^ (q - e).toNat
    let r := m % d
    let t := m / d
    if 2 * r < d then t else if d < 2 * r then t + 1 else t + t % 2

/-- The datum nearest to `(-1)^s * m * 2^e`. -/
def FFmt.round (f : FFmt) (s : Bool) (m : Nat) (e : Int) : FRes :=
  if m = 0 then ⟨f.zero s, false⟩
  else
    let q := max (e + (Nat.log2 m + 1) - f.p) f.qmin
    let t := rne m e q
    let (t, q) := if t = 2 ^ f.p then (2 ^ (f.p - 1), q + 1) else (t, q)
    if t < 2 ^ (f.p - 1) then ⟨f.zero s + t, false⟩
    else
      let ex := (q - f.qmin + 1).toNat
      if f.emax ≤ ex then ⟨f.inf s, true⟩ else ⟨f.zero s + ex * 2 ^ (f.p - 1) + (t - 2 ^ (f.p - 1)), false⟩

/-- Invalid operation: the default NaN. -/
def FFmt.invalid (f : FFmt) : FRes := ⟨f.nan, true⟩
/-- A quiet NaN operand: the default NaN, with an exception only for a signalling operand. -/
def FFmt.quiet (f : FFmt) (sig : Bool) : FRes := ⟨f.nan, sig⟩

/-- Whether the datum is a signalling NaN. -/
def FVal.sig : FVal → Bool
  | .nan s => s
  | _ => false

/-- A signed significand. -/
def signed (s : Bool) (m : Nat) : Int := if s then -(m : Int) else m

/-- Addition; `neg` negates the second operand. -/
def FFmt.add (f : FFmt) (neg : Bool) (a b : Nat) : FRes :=
  let x := f.dec a
  let y := f.dec b
  match x, y with
  | .nan _, _ => f.quiet (x.sig || y.sig)
  | _, .nan _ => f.quiet (x.sig || y.sig)
  | .inf s, .inf t => if s = (t != neg) then ⟨f.inf s, false⟩ else f.invalid
  | .inf s, .fin .. => ⟨f.inf s, false⟩
  | .fin .., .inf t => ⟨f.inf (t != neg), false⟩
  | .fin s m e, .fin t n g =>
    let t := t != neg
    let q := min e g
    let v := signed s (m * 2 ^ (e - q).toNat) + signed t (n * 2 ^ (g - q).toNat)
    if v = 0 then ⟨f.zero (s && t), false⟩ else f.round (decide (v < 0)) v.natAbs q

/-- Multiplication. -/
def FFmt.mul (f : FFmt) (a b : Nat) : FRes :=
  let x := f.dec a
  let y := f.dec b
  match x, y with
  | .nan _, _ => f.quiet (x.sig || y.sig)
  | _, .nan _ => f.quiet (x.sig || y.sig)
  | .inf s, .inf t => ⟨f.inf (s != t), false⟩
  | .inf s, .fin t n _ => if n = 0 then f.invalid else ⟨f.inf (s != t), false⟩
  | .fin s m _, .inf t => if m = 0 then f.invalid else ⟨f.inf (s != t), false⟩
  | .fin s m e, .fin t n g => f.round (s != t) (m * n) (e + g)

/-- Division: the quotient is taken with enough bits and a sticky bit, so that one rounding is exact. -/
def FFmt.div (f : FFmt) (a b : Nat) : FRes :=
  let x := f.dec a
  let y := f.dec b
  match x, y with
  | .nan _, _ => f.quiet (x.sig || y.sig)
  | _, .nan _ => f.quiet (x.sig || y.sig)
  | .inf _, .inf _ => f.invalid
  | .inf s, .fin t _ _ => ⟨f.inf (s != t), false⟩
  | .fin s _ _, .inf t => ⟨f.zero (s != t), false⟩
  | .fin s m e, .fin t n g =>
    if n = 0 then (if m = 0 then f.invalid else ⟨f.inf (s != t), true⟩)
    else
      let k := 2 * f.p + 4
      let num := m * 2 ^ k
      f.round (s != t) (2 * (num / n) + (if num % n = 0 then 0 else 1)) (e - g - k - 1)

/-- The integer square root, bit by bit from bit `i`. -/
def isqrtFrom : Nat → Nat → Nat → Nat
  | 0, _, r => r
  | i + 1, n, r =>
    let t := r + 2 ^ i
    if t * t ≤ n then isqrtFrom i n t else isqrtFrom i n r

/-- Square root. -/
def FFmt.sqrt (f : FFmt) (a : Nat) : FRes :=
  match f.dec a with
  | .nan s => f.quiet s
  | .inf s => if s then f.invalid else ⟨f.inf false, false⟩
  | .fin s m e =>
    if m = 0 then ⟨f.zero s, false⟩
    else if s then f.invalid
    else
      let sh := 2 * f.p + 6 + (if (e + (2 * f.p + 6 : Nat)) % 2 = 0 then 0 else 1)
      let n := m * 2 ^ sh
      let r := isqrtFrom (2 * f.p + 4) n 0
      f.round false (2 * r + (if r * r = n then 0 else 1)) ((e - sh) / 2 - 1)

/-- The relation of two data (Table 4.8). -/
inductive FRel where
  | less | equal | greater | unordered
deriving DecidableEq, Repr

/-- Compare two data. -/
def FFmt.cmp (f : FFmt) (a b : Nat) : FRel :=
  let byInt (v : Int) : FRel := if v < 0 then .less else if v = 0 then .equal else .greater
  match f.dec a, f.dec b with
  | .nan _, _ => .unordered
  | _, .nan _ => .unordered
  | .inf s, .inf t => if s = t then .equal else if s then .less else .greater
  | .inf s, .fin .. => if s then .less else .greater
  | .fin .., .inf t => if t then .greater else .less
  | .fin s m e, .fin t n g =>
    let q := min e g
    byInt (signed s (m * 2 ^ (e - q).toNat) - signed t (n * 2 ^ (g - q).toNat))

/-- An integer as a datum. -/
def FFmt.ofInt (f : FFmt) (i : Int) : FRes := f.round (decide (i < 0)) i.natAbs 0

/-- A datum as an integer in `[lo, hi]`, rounded toward zero or to even; a NaN gives 0 and a value outside the range saturates,
both with an exception (R108). -/
def FFmt.toInt (f : FFmt) (even : Bool) (lo hi : Int) (a : Nat) : Int × Bool :=
  match f.dec a with
  | .nan _ => (0, true)
  | .inf s => (if s then lo else hi, true)
  | .fin s m e =>
    let v := signed s (if even then rne m e 0 else if 0 ≤ e then m * 2 ^ e.toNat else m / 2 ^ (-e).toNat)
    if v < lo then (lo, true) else if hi < v then (hi, true) else (v, false)

/-- Convert a datum between formats. -/
def FFmt.conv (src dst : FFmt) (a : Nat) : FRes :=
  match src.dec a with
  | .nan s => dst.quiet s
  | .inf s => ⟨dst.inf s, false⟩
  | .fin s m e => dst.round s m e

/-- Whether the datum is a zero of either sign, and whether its sign bit is set (Table 3.2). -/
def FFmt.zn (f : FFmt) (a : Nat) : Bool × Bool :=
  (a % 2 ^ (f.p - 1 + f.ew) == 0, a / 2 ^ (f.p - 1 + f.ew) % 2 == 1)

end Sys2Proof.Machine
end

