-- ==== Sys2Proof/Machine/Sem.lean ====
section
/-! DEFINITION. The meanings of the Kazhin instructions of Table 4.5 as functions of what the instruction sees. Both copies of a
PAIRED task, and a core, compute with these same functions; who issues, compares and stores is in Issue.lean. -/

namespace Sys2Proof.Machine

/-- ACH:ACC. -/
def Ctx.long (x : Ctx) : Long := x.ach ++ x.acc
/-- Write ACH:ACC. -/
def Ctx.setLong (x : Ctx) (v : Long) : Ctx := { x with ach := v.extractLsb' 32 32, acc := v.setWidth 32 }

/-! ### Loads, stores and moves -/

/-- A load of `n` bytes (R103). -/
def semLoad (n : Nat) (put : Ctx → Long → Ctx) : Sem := fun k => do
  let v ← k.rd k.ea n
  pure { x := put k.x v, steps := 1 + k.s }

/-- LDW, LDAH, LDX, LDY and SEL: a 32-bit operand into a register. -/
def semWord (put : Ctx → Word → Ctx) : Sem := fun k => do
  let v ← k.word
  pure { x := put k.x v, steps := 1 + k.s }

/-- LDL. -/
def semLdl : Sem := fun k => do
  let v ← k.long
  pure { x := k.x.setLong v, steps := 1 + k.sL }

/-- A store of `n` bytes to data (R103). -/
def semStore (n : Nat) (val : Ctx → Long) : Sem := fun k => do
  raise (k.ck k.ea n)
  pure { x := k.x, steps := 1 + (if n = 8 then k.sL else k.s), stores := [⟨.data, k.ea.toNat, n, val k.x⟩] }

/-- STW: a word store, to data or to a Q word (R97). -/
def semStw : Sem := fun k =>
  if k.am = 7 then do
    raise (k.ckImg k.imgQ k.imgIdx)
    pure { x := k.x, steps := 1 + k.s, stores := [⟨.qword, k.imgIdx, 4, k.x.acc.setWidth 64⟩] }
  else semStore 4 (fun x => x.acc.setWidth 64) k

/-- LEA. -/
def semLea : Sem := fun k => .ok { x := { k.x with acc := k.ea }, steps := if k.am = 6 then 2 else 1 }

/-- A push of an 8-byte slot (R68, R69). -/
def semPush (steps : Nat) (val : Ctx → Long) : Sem := fun k => do
  let a := k.x.dsp - 8
  raise (lowest [excIf (k.x.dsp.toNat < k.floor + 8) 0x05, k.ck a 8])
  pure { x := { k.x with dsp := a }, steps, stores := [⟨.data, a.toNat, 8, val k.x⟩] }

/-- A pop of an 8-byte slot (R68, R69). -/
def semPop (steps : Nat) (put : Ctx → Long → Ctx) : Sem := fun k => do
  let v := k.rd k.x.dsp 8
  raise (lowest [excIf (k.ceil < k.x.dsp.toNat + 8) 0x06, excOf v])
  let v ← v
  pure { x := { put k.x v with dsp := k.x.dsp + 8 }, steps }

/-- PSH. -/
def semPsh : Sem := fun k =>
  if k.opd.getLsbD 0 then semPush 3 Ctx.long k else semPush 2 (fun x => x.acc.setWidth 64) k

/-- POP. -/
def semPopAcc : Sem := fun k =>
  if k.opd.getLsbD 0 then semPop 3 Ctx.setLong k else semPop 2 (fun x v => { x with acc := v.setWidth 32 }) k

/-- The register of Table 4.6. -/
def KIn.reg (k : KIn) (n : Nat) : Word :=
  match n with
  | 0 => k.x.acc
  | 1 => k.x.ach
  | 2 => k.x.ix
  | 3 => k.x.iy
  | 4 => k.x.dsp
  | 5 => k.x.brc
  | 6 => k.x.brs
  | 7 => k.x.brd
  | 8 => k.x.flg.setWidth 32
  | 9 => BitVec.ofNat 32 k.x.ba.toNat
  | 10 => BitVec.ofNat 32 k.rsp
  | 11 => k.x.ibD
  | _ => k.x.ibB.setWidth 32

/-- Write DSP under the checks of R69 and R104. -/
def setDsp (k : KIn) (v : Word) : Except Exc Ctx := do
  raise (lowest [excIf (v.toNat % 8 ≠ 0) 0x03, excIf (v.toNat < k.floor) 0x05, excIf (k.ceil < v.toNat) 0x06])
  pure { k.x with dsp := v }

/-- MOVR (R104). -/
def semMovr : Sem := fun k => do
  let v := k.reg (k.opd.toNat % 16)
  let x ← match k.opd.toNat / 16 % 16 with
    | 0 => pure { k.x with acc := v }
    | 1 => pure { k.x with ach := v }
    | 2 => pure { k.x with ix := v }
    | 3 => pure { k.x with iy := v }
    | 4 => setDsp k v
    | 5 => pure { k.x with brc := v }
    | 6 => pure { k.x with brs := v }
    | 7 => pure { k.x with brd := v }
    | 8 => pure { k.x with flg := v.setWidth 5 }
    | _ => pure { k.x with ba := v.getLsbD 0 }
  pure { x, steps := 1 }

/-! ### Integer arithmetic, logic and shifts -/

/-- A 32-bit operation of ACC and the operand. -/
def semAlu (steps : Nat) (f : Ctx → Word → AluRes 32) : Sem := fun k => do
  let b ← k.word
  let r := f k.x b
  pure { x := { k.x with acc := r.val, flg := r.flg }, steps := steps + k.s }

/-- A 32-bit comparison: the flags alone. -/
def semCmp (f : Ctx → Word → AluRes 32) : Sem := fun k => do
  let b ← k.word
  pure { x := { k.x with flg := (f k.x b).flg }, steps := 1 + k.s }

/-- A 32-bit operation of ACC alone. -/
def semAlu1 (f : Ctx → AluRes 32) : Sem := fun k =>
  let r := f k.x
  .ok { x := { k.x with acc := r.val, flg := r.flg }, steps := 1 }

/-- A 64-bit operation of ACH:ACC and the operand. -/
def semAluL (steps : Nat) (f : Ctx → Long → AluRes 64) : Sem := fun k => do
  let b ← k.long
  let r := f k.x b
  pure { x := { k.x.setLong r.val with flg := r.flg }, steps := steps + k.sL }

/-- A 64-bit comparison. -/
def semCmpL (steps : Nat) (f : Ctx → Long → AluRes 64) : Sem := fun k => do
  let b ← k.long
  pure { x := { k.x with flg := (f k.x b).flg }, steps := steps + k.sL }

/-- A 64-bit operation of ACH:ACC alone. -/
def semAluL1 (f : Ctx → AluRes 64) : Sem := fun k =>
  let r := f k.x
  .ok { x := { k.x.setLong r.val with flg := r.flg }, steps := 2 }

/-- MULS and MULU: the 64-bit product, V when it does not fit 32 bits (R105). -/
def semMul (sgn : Bool) : Sem := fun k => do
  let b ← k.word
  let p : Int := if sgn then k.x.acc.toInt * b.toInt else k.x.acc.toNat * b.toNat
  let r : Long := BitVec.ofInt 64 p
  let v := !(if sgn then fitsS 32 p else fitsU 32 p)
  pure { x := { k.x.setLong r with flg := setZNV k.x.flg (r == 0) r.msb v }, steps := 3 + k.s }

/-- DIVS: quotient truncated toward zero in ACC, remainder in ACH (R105). -/
def semDivs : Sem := fun k => do
  let b ← k.word
  raise (excIf (b == 0) 0x09)
  let q : Word := k.x.acc.sdiv b
  let v := !fitsS 32 (k.x.acc.toInt.tdiv b.toInt)
  pure { x := { k.x with acc := q, ach := k.x.acc.srem b, flg := setZNV k.x.flg (q == 0) q.msb v }, steps := 18 + k.s }

/-- DIVU. -/
def semDivu : Sem := fun k => do
  let b ← k.word
  raise (excIf (b == 0) 0x09)
  let q := k.x.acc / b
  pure { x := { k.x with acc := q, ach := k.x.acc % b, flg := setZN k.x.flg (q == 0) q.msb }, steps := 18 + k.s }

/-- CHK (R106). -/
def semChk : Sem := fun k => do
  let p : Long ← if k.am = 1 then
      pure ((k.ext.extractLsb' 16 16).signExtend 32 ++ (k.ext.setWidth 16).signExtend 32)
    else k.rd k.ea 8
  let lo : Word := p.setWidth 32
  let hi : Word := p.extractLsb' 32 32
  raise (excIf (k.x.acc.toInt < lo.toInt || hi.toInt < k.x.acc.toInt) 0x0A)
  pure { x := k.x, steps := 2 + k.sL }

/-- ADX and ADY. -/
def semAdXY (put : Ctx → Word → Ctx) : Sem := fun k => .ok { x := put k.x k.simm, steps := 1 }

/-- A 32-bit shift by op[5:0] (R107). -/
def semShift (s : Shift) : Sem := semAlu 1 fun x b => aluShift s x.flg x.acc (b.toNat % 64)

/-- SEXT and ZEXT. -/
def semExtend (sgn : Bool) : Sem := fun k =>
  let w : Nat := if k.opd = 0 then 8 else 16
  let v := k.x.acc.setWidth w
  let r : Word := if sgn then v.signExtend 32 else v.setWidth 32
  .ok { x := { k.x with acc := r, flg := setZN k.x.flg (r == 0) r.msb }, steps := 1 }

/-- MULL: V when the signed product does not fit 64 bits. -/
def mull (x : Ctx) (b : Long) : AluRes 64 :=
  let r := x.long * b
  ⟨r, setZNV x.flg (r == 0) r.msb (!fitsS 64 (x.long.toInt * b.toInt))⟩

/-- DIVSL, REMSL and DIVUL; a zero divisor raises 0x09 (R105). -/
def semDivL (f : Ctx → Long → AluRes 64) : Sem := fun k => do
  let b ← k.long
  raise (excIf (b == 0) 0x09)
  let r := f k.x b
  pure { x := { k.x.setLong r.val with flg := r.flg }, steps := 34 + k.sL }

/-- The signed quotient. -/
def divsl (x : Ctx) (b : Long) : AluRes 64 :=
  let q := x.long.sdiv b
  ⟨q, setZNV x.flg (q == 0) q.msb (!fitsS 64 (x.long.toInt.tdiv b.toInt))⟩

/-- SHFL (R107). -/
def semShfl : Sem := fun k =>
  let n := if k.opd.getLsbD 8 then k.x.ix.toNat % 64 else k.opd.toNat % 64
  let s : Shift := match k.opd.toNat / 64 % 4 with
    | 0 => .shl
    | 1 => .shr
    | _ => .sar
  semAluL1 (fun x => aluShift s x.flg x.long n) k

/-! ### Bits -/

/-- A bit operand into BA. -/
def semBit (f : Bool → Bool → Bool) : Sem := fun k => do
  let b ← k.bitEa
  let v ← k.bit b
  pure { x := { k.x with ba := f k.x.ba v }, steps := 1 + k.sB }

/-- A store of a bit. -/
def semStBit (val : Ctx → Bool) : Sem := fun k => do
  let b ← k.bitEa
  raise (k.ckBit b)
  pure { x := k.x, steps := 2 + k.sB, stores := [⟨.bit, b, 1, BitVec.ofNat 64 (val k.x).toNat⟩] }

/-- RED and FED: BA from the previous-state bit, into which the original BA goes (R115). -/
def semEdge (f : Bool → Bool → Bool) : Sem := fun k => do
  let b ← k.bitEa
  let v := k.bit b
  raise (lowest [k.ckBit b, excOf v])
  let p ← v
  pure { x := { k.x with ba := f k.x.ba p }, steps := 2 + k.sB, stores := [⟨.bit, b, 1, BitVec.ofNat 64 k.x.ba.toNat⟩] }

/-- BAO. -/
def semBao : Sem := fun k =>
  let b := match k.opd.toNat with
    | 0 => !k.x.ba
    | 1 => true
    | _ => false
  .ok { x := { k.x with ba := b }, steps := 1 }

/-- POPB. -/
def semPopb : Sem := fun k =>
  semPop 2 (fun x v =>
    let p := v.getLsbD 0
    { x with ba := match k.opd.toNat with
      | 0 => p
      | 1 => x.ba && p
      | _ => x.ba || p }) k

/-- BTW. -/
def semBtw : Sem := fun k => .ok { x := { k.x with ba := k.x.acc.getLsbD k.opd.toNat }, steps := 1 }

/-- BPW. -/
def semBpw : Sem := fun k =>
  let m := (1 : Word) <<< k.opd.toNat
  .ok { x := { k.x with acc := if k.x.ba then k.x.acc ||| m else k.x.acc &&& ~~~m }, steps := 1 }

/-! ### Branches, calls and returns -/

/-- BR. -/
def semBr : Sem := fun k => do
  let t ← k.target
  pure { x := k.x, steps := if k.am = 1 then 3 else 2, next := .jump t, dec := k.xtDec t }

/-- CALL (R110). -/
def semCall : Sem := fun k => do
  let t := k.target
  raise (lowest [excOf t, excIf (256 ≤ k.rsp) 0x07])
  let t ← t
  pure { x := k.x, steps := if k.am = 1 then 4 else 3, next := .jump t, push := true, dec := k.xtDec t }

/-- The IB rule of R55, as the pseudocode of R110 states it. -/
def ibBad (d b : Nat) : Bool :=
  d % 8 ≠ 0 || d < 0x20000000 || 0x202FFFF8 < d || b % 8 ≠ 0 || b < 0x400000 || 0x9FFFF8 < b

/-- The common part of CALE and CALI (R110). -/
def callCommon (k : KIn) (d b : Nat) (steps : Nat) (dec : Option Long) (more : Option Exc) : Except Exc KOut := do
  raise (lowest [excIf (ibBad d b) 0x03, more, excIf (256 ≤ k.rsp) 0x07])
  let t := k.x.pc + 4 * (k.ext.setWidth 22).signExtend 32
  pure { x := { k.x with ibD := BitVec.ofNat 32 d, ibB := BitVec.ofNat 24 b }, steps, next := .jump t, push := true, dec }

/-- CALE (R110). -/
def semCale : Sem := fun k =>
  callCommon k ((k.x.ibD.toNat + 8 * k.opd.toNat) % 2 ^ 32) (k.x.ibB.toNat + 8 * (k.ext.toNat / 2 ^ 22)) 4 none none

/-- CALI (R110); a pointer that has been read is checked together with the call (R81). -/
def semCali : Sem := fun k => do
  let v := if k.am = 0 then .ok k.x.long else k.rd k.ea 8
  raise (lowest [excOf v, excIf ((excOf v).isSome && 256 ≤ k.rsp) 0x07])
  let p ← v
  callCommon k (p.toNat % 2 ^ 32) (p.toNat / 2 ^ 32 % 2 ^ 24) (if k.am = 0 then 4 else 6) (some p)
    (excIf (p.toNat / 2 ^ 56 ≠ 0) 0x04)

/-- RET (R110): PC and IB from the top entry; FLG and BA are kept. -/
def semRet : Sem := fun k =>
  match k.top with
  | some e =>
    if k.rsp = k.depth then .error ⟨0x08, 0, none⟩
    else .ok { x := { k.x with ibD := e.ibD, ibB := e.ibB }, steps := 3, next := .jump e.pc, pop := true }
  | none => .error ⟨0x08, 0, none⟩

/-- IPA (R111). -/
def semIpa : Sem := fun k =>
  let b : BitVec 24 := k.x.ibB + BitVec.ofNat 24 (8 * (k.ext.toNat / 2 ^ 22))
  .ok { x := { k.x with acc := k.x.ibD + BitVec.ofNat 32 (8 * k.opd.toNat), ach := b.setWidth 32 }, steps := 2 }

/-- ALOC: DSP moves by a signed number of slots under the checks of R69. -/
def semAloc : Sem := fun k => do
  let v : Int := k.x.dsp.toNat + 8 * k.opd.toInt
  raise (lowest [excIf (v < k.floor) 0x05, excIf ((k.ceil : Int) < v) 0x06])
  pure { x := { k.x with dsp := BitVec.ofInt 32 v }, steps := 1 }

/-! ### Timers -/

/-- The status bits of a timer record (R75) and the record's START. -/
structure Timer where
  start : Long
  run : Bool
  q : Bool
  prev : Bool
deriving DecidableEq, Repr

/-- The row "RUN = 1" of Table 4.9: `qOn` is Q when the timer elapses. -/
def timerRun (ts preset : Long) (qOn : Bool) (t : Timer) : Timer × Long :=
  if preset.toNat ≤ (ts - t.start).toNat then ({ t with q := qOn, run := false }, preset) else (t, ts - t.start)

/-- The three timers of Table 4.9. -/
inductive TimerKind where
  | ton | tof | tp
deriving DecidableEq, Repr

/-- Evaluate a timer once (Table 4.9): the record after it, IN_PREV apart, and ET. -/
def timerEval (kind : TimerKind) (ts preset : Long) (inp : Bool) (t : Timer) : Timer × Long :=
  match kind with
  | .ton =>
    if !inp then ({ t with run := false, q := false }, 0)
    else if !t.prev then timerRun ts preset true { t with start := ts, run := true, q := false }
    else if t.run then timerRun ts preset true t
    else if t.q then (t, preset)
    else (t, 0)
  | .tof =>
    if inp then ({ t with q := true, run := false }, 0)
    else if t.prev then timerRun ts preset false { t with start := ts, run := true }
    else if t.run then timerRun ts preset false t
    else (t, preset)
  | .tp =>
    if !t.run && inp && !t.prev then timerRun ts preset false { t with start := ts, run := true, q := true }
    else if t.run then timerRun ts preset false t
    else (t, if inp then preset else 0)

/-- Whether the evaluation starts the timer, and so writes START. -/
def timerStarts (kind : TimerKind) (inp : Bool) (t : Timer) : Bool :=
  match kind with
  | .ton => inp && !t.prev
  | .tof => !inp && t.prev
  | .tp => !t.run && inp && !t.prev

/-- TON, TOF and TP (R114): the record is read, evaluated with IN = BA and written; BA := Q and ACH:ACC := ET. -/
def semTimer (kind : TimerKind) : Sem := fun k => do
  let a := k.ea
  let start := k.rd a 8
  let preset := k.rd (a + 8) 8
  let status := k.rd (a + 16) 4
  raise (lowest [excIf (a.toNat % 8 ≠ 0) 0x03 a, excOf start, excOf preset, excOf status, k.ck a 8, k.ck (a + 16) 4])
  let start ← start
  let preset ← preset
  let status ← status
  let p : Long := if preset.msb then 0 else preset
  let t : Timer := ⟨start, status.getLsbD 0, status.getLsbD 1, status.getLsbD 2⟩
  let (t', et) := timerEval kind k.ts p k.x.ba t
  let st : Long := BitVec.ofNat 64 (t'.run.toNat + 2 * t'.q.toNat + 4 * k.x.ba.toNat)
  pure { x := { k.x.setLong et with ba := t'.q }, steps := if k.am = 6 then 9 else 8,
         stores := (if timerStarts kind k.x.ba t then [⟨.data, a.toNat, 8, k.ts⟩] else []) ++ [⟨.data, (a + 16).toNat, 4, st⟩] }

/-- TRS: the status DWORD is cleared. Its record lies at a multiple of 8 as that of the timers does (DESIGN CHOICE, log entry 110: R114 names TON,
TOF and TP). -/
def semTrs : Sem := fun k => do
  let a := k.ea
  raise (lowest [excIf (a.toNat % 8 ≠ 0) 0x03 a, k.ck (a + 16) 4])
  pure { x := k.x, steps := if k.am = 6 then 4 else 3, stores := [⟨.data, (a + 16).toNat, 4, 0⟩] }

/-- TSC. -/
def semTsc : Sem := fun k => .ok { x := k.x.setLong k.ts, steps := 1 }

/-! ### Floating point -/

/-- A binary32 operation into ACC. -/
def semF (steps : Nat) (f : Nat → Nat → FRes) : Sem := fun k => do
  let b ← k.word
  let r := f k.x.acc.toNat b.toNat
  let (z, n) := b32.zn r.val
  pure { x := { k.x with acc := BitVec.ofNat 32 r.val, flg := setZNO k.x.flg z n r.exc }, steps := steps + k.s }

/-- A binary64 operation into ACH:ACC. -/
def semD (steps : Nat) (f : Nat → Nat → FRes) : Sem := fun k => do
  let b ← k.long
  let r := f k.x.long.toNat b.toNat
  let (z, n) := b64.zn r.val
  pure { x := { k.x.setLong (BitVec.ofNat 64 r.val) with flg := setZNO k.x.flg z n r.exc }, steps := steps + k.sL }

/-- FSQRT. -/
def semFsqrt : Sem := fun k =>
  let r := b32.sqrt k.x.acc.toNat
  let (z, n) := b32.zn r.val
  .ok { x := { k.x with acc := BitVec.ofNat 32 r.val, flg := setZNO k.x.flg z n r.exc }, steps := 16 }

/-- DSQRT. -/
def semDsqrt : Sem := fun k =>
  let r := b64.sqrt k.x.long.toNat
  let (z, n) := b64.zn r.val
  .ok { x := { k.x.setLong (BitVec.ofNat 64 r.val) with flg := setZNO k.x.flg z n r.exc }, steps := 30 }

/-- The flags of Table 4.8; O as R109 states. -/
def fcmpFlg (f : BitVec 5) (r : FRel) (sig : Bool) : BitVec 5 :=
  match r with
  | .less => mkFlg false true false false (fO f || sig)
  | .equal => mkFlg true false true false (fO f || sig)
  | .greater => mkFlg false false true false (fO f || sig)
  | .unordered => mkFlg false false true true true

/-- FCMP. -/
def semFcmp : Sem := fun k => do
  let b ← k.word
  let sig := (b32.dec k.x.acc.toNat).sig || (b32.dec b.toNat).sig
  pure { x := { k.x with flg := fcmpFlg k.x.flg (b32.cmp k.x.acc.toNat b.toNat) sig }, steps := 3 + k.s }

/-- DCMP. -/
def semDcmp : Sem := fun k => do
  let b ← k.long
  let sig := (b64.dec k.x.long.toNat).sig || (b64.dec b.toNat).sig
  pure { x := { k.x with flg := fcmpFlg k.x.flg (b64.cmp k.x.long.toNat b.toNat) sig }, steps := 3 + k.sL }

/-- FUN: the sign bit alone. -/
def semFun : Sem := fun k =>
  if k.opd.getLsbD 1 then
    let v := k.x.long
    let m : Long := 1 <<< (63 : Nat)
    let r := if k.opd.getLsbD 0 then v &&& ~~~m else v ^^^ m
    let (z, n) := b64.zn r.toNat
    .ok { x := { k.x.setLong r with flg := setZN k.x.flg z n }, steps := 1 }
  else
    let m : Word := 1 <<< (31 : Nat)
    let r := if k.opd.getLsbD 0 then k.x.acc &&& ~~~m else k.x.acc ^^^ m
    let (z, n) := b32.zn r.toNat
    .ok { x := { k.x with acc := r, flg := setZN k.x.flg z n }, steps := 1 }

/-- CVT by its selector (Table 4.7): the context after the conversion. -/
def cvt (sel : Nat) (x : Ctx) : Ctx :=
  let dint : Int := x.acc.toInt
  let toReal (r : FRes) : Ctx :=
    let (z, n) := b32.zn r.val
    { x with acc := BitVec.ofNat 32 r.val, flg := setZNO x.flg z n r.exc }
  let toLreal (r : FRes) : Ctx :=
    let (z, n) := b64.zn r.val
    { x.setLong (BitVec.ofNat 64 r.val) with flg := setZNO x.flg z n r.exc }
  let toDint (r : Int × Bool) : Ctx :=
    let v : Word := BitVec.ofInt 32 r.1
    { x with acc := v, flg := setZNO x.flg (v == 0) v.msb r.2 }
  let toLint (r : Int × Bool) : Ctx :=
    let v : Long := BitVec.ofInt 64 r.1
    { x.setLong v with flg := setZNO x.flg (v == 0) v.msb r.2 }
  let lo32 : Int := -2147483648
  let hi32 : Int := 2147483647
  let lo64 : Int := -9223372036854775808
  let hi64 : Int := 9223372036854775807
  match sel with
  | 0x00 => toReal { b32.ofInt dint with exc := false }
  | 0x01 => toDint (b32.toInt false lo32 hi32 x.acc.toNat)
  | 0x02 => toDint (b32.toInt true lo32 hi32 x.acc.toNat)
  | 0x03 => toLreal { b64.ofInt x.long.toInt with exc := false }
  | 0x04 => toLint (b64.toInt false lo64 hi64 x.long.toNat)
  | 0x05 => toLint (b64.toInt true lo64 hi64 x.long.toNat)
  | 0x06 => toLreal (b32.conv b64 x.acc.toNat)
  | 0x07 => toReal (b64.conv b32 x.long.toNat)
  | 0x08 => toLint (dint, false)
  | 0x09 => toLint (x.acc.toNat, false)
  | 0x0A => { x with flg := setZNV x.flg (x.acc == 0) x.acc.msb (!fitsS 32 x.long.toInt) }
  | 0x0B => toLreal (b64.ofInt dint)
  | 0x0C => toDint (b64.toInt false lo32 hi32 x.long.toNat)
  | 0x0D => toDint (b64.toInt true lo32 hi32 x.long.toNat)
  | 0x0E => toLreal (b64.ofInt x.acc.toNat)
  | _ => toDint (b64.toInt false 0 4294967295 x.long.toNat)

/-- CVT. -/
def semCvt : Sem := fun k => .ok { x := cvt k.opd.toNat k.x, steps := 3 }

/-! ### Block repeat: one element per issue of the command (R77 to R79, Table 4.11) -/

/-- The setup steps of an issue (R117). -/
def KIn.setup (k : KIn) : Nat := if k.fresh then 2 else 0

/-- The context and control after an element: BRC falls by 1, BRS and BRD advance (R77). -/
def KIn.element (k : KIn) (ds dd : Nat) : Ctx × KNext :=
  let n := k.x.brc - 1
  ({ k.x with brc := n, brs := k.x.brs + BitVec.ofNat 32 ds, brd := k.x.brd + BitVec.ofNat 32 dd }, if n = 0 then .seq else .stay)

/-- A block repeat: nothing is touched when BRC is 0 at issue (R77). -/
def semBlock (elem : Sem) : Sem := fun k => if k.x.brc = 0 then .ok { x := k.x, steps := k.setup } else elem k

/-- The element size of BMOV, BFIL and BCMP (R117). -/
def KIn.z (k : KIn) : Nat := 2 ^ (k.opd.toNat % 4)

/-- BMOV. -/
def semBmov : Sem := semBlock fun k => do
  let v := k.rd k.x.brs k.z
  raise (lowest [excOf v, k.ck k.x.brd k.z])
  let v ← v
  let (x, n) := k.element k.z k.z
  pure { x, next := n, steps := k.setup + (if k.z = 8 then 3 else 2), stores := [⟨.data, k.x.brd.toNat, k.z, v⟩] }

/-- BFIL. -/
def semBfil : Sem := semBlock fun k => do
  raise (k.ck k.x.brd k.z)
  let (x, n) := k.element 0 k.z
  pure { x, next := n, steps := k.setup + 2,
         stores := [⟨.data, k.x.brd.toNat, k.z, BitVec.ofNat 64 (k.x.long.toNat % 2 ^ (8 * k.z))⟩] }

/-- BCMP (R118). -/
def semBcmp : Sem := fun k =>
  if k.x.brc = 0 then .ok { x := { k.x with flg := setZ k.x.flg true }, steps := k.setup }
  else do
    let a := k.rd k.x.brs k.z
    let b := k.rd k.x.brd k.z
    raise (lowest [excOf a, excOf b])
    let a ← a
    let b ← b
    let steps := k.setup + (if k.z = 8 then 4 else 3)
    let dec : Option Long := some (BitVec.ofNat 64 (a == b).toNat)
    if a = b then
      let (x, n) := k.element k.z k.z
      let x := if n = .seq then { x with flg := setZ x.flg true } else x
      pure { x, next := n, steps, dec }
    else pure { x := { k.x with flg := setZ k.x.flg false }, steps, dec }

/-- A bit address held in BRS or BRD: bits [31:24] must be 0 (R98). -/
def bitOf (w : Word) : Except Exc Nat := if w.toNat < 2 ^ 24 then .ok w.toNat else .error ⟨0x04, w, none⟩

/-- BBMV. -/
def semBbmv : Sem := semBlock fun k => do
  let v := do k.bit (← bitOf k.x.brs)
  let d := bitOf k.x.brd
  raise (lowest [excOf v, excOf d, k.ckBit (k.x.brd.toNat)])
  let v ← v
  let (x, n) := k.element 1 1
  pure { x, next := n, steps := k.setup + 2, stores := [⟨.bit, k.x.brd.toNat, 1, BitVec.ofNat 64 v.toNat⟩] }

/-- BBPK: eight bits into a byte. -/
def semBbpk : Sem := semBlock fun k => do
  let bits := (List.range 8).map fun i => do k.bit (← bitOf (k.x.brs + BitVec.ofNat 32 i))
  raise (lowest (k.ck k.x.brd 1 :: bits.map excOf))
  let v := bits.foldr (fun b a => 2 * a + (match b with | .ok true => 1 | _ => 0)) 0
  let (x, n) := k.element 8 1
  pure { x, next := n, steps := k.setup + 4, stores := [⟨.data, k.x.brd.toNat, 1, BitVec.ofNat 64 v⟩] }

/-- BBUP: a byte into eight bits. -/
def semBbup : Sem := semBlock fun k => do
  let v := k.rd k.x.brs 1
  let addrs := (List.range 8).map fun i => k.x.brd + BitVec.ofNat 32 i
  raise (lowest (excOf v :: addrs.map fun a => lowest [excOf (bitOf a), k.ckBit a.toNat]))
  let v ← v
  let (x, n) := k.element 1 8
  pure { x, next := n, steps := k.setup + 4,
         stores := (List.range 8).map fun i =>
           ⟨.bit, (k.x.brd + BitVec.ofNat 32 i).toNat, 1, BitVec.ofNat 64 (v.getLsbD i).toNat⟩ }

end Sys2Proof.Machine
end

