-- ==== Sys2Proof/Machine/Spaces.lean ====
section
/-! DEFINITION. The operand spaces of a scan-engine program (Tables 3.4 and 3.5) as each copy of a task reaches them (R160, R161), the
engine's journal (R171 to R174), and memory errors (R299 to R303). -/

namespace Sys2Proof.Machine

/-! ### Memory errors -/

/-- The SRAM regions of Table 1.3, in ascending order, by start and size. -/
def sramRegions : List (Nat × Nat) :=
  [(0x10000000, 0x600000), (0x20000000, 0x600000), (0x28000000, 0x200000), (0x2C000000, 0x80000), (0x30000000, 0x480000),
   (0x34000000, 0x90000), (0x38000000, 0x80000), (0x39000000, 0x20000), (0x3A000000, 0x18000), (0x3B000000, 0x18000),
   (0x3C000000, 0xA0000)]

/-- The array number of an address (R300), counting through regions. -/
def arrayIn : List (Nat × Nat) → Nat → Nat → Option Nat
  | [], _, _ => none
  | (b, n) :: l, k, a => if b ≤ a && a < b + n then some (k + (a - b) / 32768) else arrayIn l (k + n / 32768) a
/-- The array number of an SRAM address (R300). -/
def sramArray (a : Nat) : Option Nat := arrayIn sramRegions 0 a

/-- The boot ROM. -/
def inRom (a : Nat) : Bool := a < 0x10000
/-- The parameter store window. -/
def inNvs (a : Nat) : Bool := 0x60000000 ≤ a && a < 0x60080000
/-- A range of Table 1.3 holds the address. -/
def inMap (a : Nat) : Bool := inRom a || inRegs a || inNvs a || inXspi a || sramRegions.any fun r => r.1 ≤ a && a < r.1 + r.2
/-- A scan engine reaches its operand spaces alone (R61). -/
def inEngine (write : Bool) (a : Nat) : Bool :=
  (0x10000000 ≤ a && a < 0x10300000 && !write) || (0x20000000 ≤ a && a < 0x20300000) || (0x28000000 ≤ a && a < 0x28140000)

/-- An access that a scan engine's program makes is refused (R24, R475): outside the map, by the fixed rule of R61 and, for an instruction, R94, or by
the partition rule. -/
def Chip.refuseLe (c : Chip) (ag : AgentId) (a : KAcc) : Chip :=
  let all (f : Nat → Bool) : Bool := (List.range a.n).all fun i => f (a.addr + i)
  let write := a.what == .write
  let code (x : Nat) : Bool := 0x10000000 ≤ x && x < 0x10300000
  if !all inMap then c.recordRefusal ag write a.addr false none
  else if !all (fun x => if a.what == .fetch then code x else inEngine write x) then c.refuse ag write a.addr
  else c.refusePart ag write a.addr a.n

/-- A corrected read (R299): counted, and a NOTE fault with cause 0x60. -/
def Chip.eccNote (c : Chip) (a agent : Nat) : Chip :=
  match sramArray a with
  | none => c
  | some n => (c.incSat FLT_ECC.CORCNT).fault 0 0x05 n 0x60 agent

/-- A poisoned word returns an uncorrectable error to every read (R303). -/
def Chip.poisoned (c : Chip) (a : Nat) : Bool := c.flt.poison.contains (a / 8)

/-! ### Protected storage -/

/-- A byte of the protected data of a task: its data range or its data stack (R160). -/
def Chip.protData (c : Chip) (t : Fin 32) (a : Nat) : Bool :=
  let b := c.get (SHD_TPDBASE.BASE t)
  (b ≤ a && a < b + c.get (SHD_TPDLEN.LEN t)) || (c.get (SCN_TSTKLO.FLOOR t) ≤ a && a < c.get (SCN_TSTKHI.TOP t))
/-- A protected bit of a task (R160). -/
def Chip.protBit (c : Chip) (t : Fin 32) (b : Nat) : Bool :=
  let s := c.get (SHD_TPBBASE.BASE t)
  s ≤ b && b < s + c.get (SHD_TPBLEN.LEN t)

/-! ### Journal -/

/-- The entry of a unit, if the activation holds one. -/
def jFind (l : List JEntry) (t : Fin 32) (s : JSpace) (u : Nat) : Option JEntry :=
  l.find? fun e => e.task == t && e.space == s && e.unit == u

/-- The entry of a unit, if the activation holds one, is poisoned (R303). -/
def jBad (l : List JEntry) (t : Fin 32) (s : JSpace) (u : Nat) : Bool := (jFind l t s u).any (·.bad)

/-- A unit as the activation reads it: journal contents first (R171). -/
def jRead (l : List JEntry) (t : Fin 32) (s : JSpace) (u : Nat) (base : Long) : Long :=
  match jFind l t s u with
  | some e => (base &&& ~~~e.mask) ||| (e.data &&& e.mask)
  | none => base

/-- A store merges into the entry of its unit, or makes one (R171). -/
def jMerge (t : Fin 32) (s : JSpace) (u : Nat) (data mask : Long) : List JEntry → List JEntry
  | [] => [⟨t, s, u, data &&& mask, mask, false⟩]
  | e :: l =>
    if e.task = t ∧ e.space = s ∧ e.unit = u then
      { e with data := (e.data &&& ~~~mask) ||| (data &&& mask), mask := e.mask ||| mask, bad := e.bad && mask != BitVec.allOnes 64 } :: l
    else e :: jMerge t s u data mask l

/-- The unit of a store, with its data and mask in place. -/
def KStore.unit (s : KStore) : Nat × Long × Long :=
  match s.space with
  | .data =>
    let m : Long := BitVec.ofNat 64 (2 ^ (8 * s.size) - 1)
    (s.addr / 8, (s.val &&& m) <<< (8 * (s.addr % 8)), m <<< (8 * (s.addr % 8)))
  | .bit => (s.addr / 64, (s.val &&& 1) <<< (s.addr % 64), (1 : Long) <<< (s.addr % 64))
  | .qword => (s.addr / 2, (s.val &&& 0xFFFFFFFF) <<< (32 * (s.addr % 2)), (0xFFFFFFFF : Long) <<< (32 * (s.addr % 2)))

/-- The journal after the stores of one instruction. -/
def jStore (t : Fin 32) (l : List JEntry) : List KStore → List JEntry
  | [] => l
  | s :: r => jStore t (jMerge t s.space s.unit.1 s.unit.2.1 s.unit.2.2 l) r

/-! ### Reading -/

/-- A unit of the data space (or of the code store) as a copy of the task reads it, decoded into true form (R161). -/
def Chip.dataUnit (c : Chip) (t : Fin 32) (l : List JEntry) (paired shadow : Bool) (u : Nat) : Long :=
  let base : Long :=
    if paired && shadow && c.protData t (8 * u) then ~~~(BitVec.ofNat 64 (c.ld (8 * u + 0x300000) 8))
    else BitVec.ofNat 64 (c.ld (8 * u) 8)
  if paired then jRead l t .data u base else base

/-- `n` bytes at an aligned address. -/
def Chip.dataRead (c : Chip) (t : Fin 32) (l : List JEntry) (paired shadow : Bool) (a n : Nat) : Long :=
  (c.dataUnit t l paired shadow (a / 8) >>> (8 * (a % 8))) &&& BitVec.ofNat 64 (2 ^ (8 * n) - 1)

/-- A bit as a copy of the task reads it. -/
def Chip.bitRead (c : Chip) (t : Fin 32) (l : List JEntry) (paired shadow : Bool) (b : Nat) : Bool :=
  let base := if paired && shadow && c.protBit t b then !c.ldBit (b + 0x600000) else c.ldBit b
  if paired then
    match jFind l t .bit (b / 64) with
    | some e => if e.mask.getLsbD (b % 64) then e.data.getLsbD (b % 64) else base
    | none => base
  else base

/-- A Q word as the task reads it. -/
def Chip.qRead (c : Chip) (t : Fin 32) (l : List JEntry) (paired : Bool) (i : Nat) : Word :=
  let base := imgGet c.img.wQ i
  if paired then
    match jFind l t .qword (i / 2) with
    | some e => if e.mask.getLsbD (32 * (i % 2)) then e.data.extractLsb' (32 * (i % 2)) 32 else base
    | none => base
  else base

/-! ### Checks -/

/-- The engine's agent ID. -/
def engineAgent (p : Fin 18) : AgentId := BitVec.ofNat 8 (0x10 + p.val)

/-- The checks of a data access of `n` bytes (R61, R65, R72, R473): `ins` marks an instance-relative operand. -/
def Chip.ckData (c : Chip) (p : Fin 18) (ins write : Bool) (a : Word) (n : Nat) : Option Exc :=
  let v := a.toNat
  let data := 0x20000000 ≤ v && v < 0x20300000
  let code := 0x10000000 ≤ v && v < 0x10300000
  lowest [excIf (v % n ≠ 0) 0x03 a, accIf (!(data || (code && !write && !ins)) || !c.admits (engineAgent p) write v n) a
    ⟨if write then .write else .read, v, n⟩]

/-- The checks of a bit access (R63, R72, R97): `ins` marks an instance-relative operand. -/
def Chip.ckBitAt (c : Chip) (t : Fin 32) (p : Fin 18) (ins write : Bool) (b : Nat) : Option Exc :=
  let area :=
    if b < 0x10000 then !write && c.inPartK t (b / 512)
    else if b < 0x20000 then c.inPartK t ((b - 0x10000) / 512)
    else if b < 0x30000 then false
    else b < 0xA00000
  let ok := area && (!ins || (0x400000 ≤ b && b < 0xA00000)) && c.admits (engineAgent p) write (0x28000000 + b / 8) 1
  accIf (!ok) (BitVec.ofNat 32 b) ⟨if write then .write else .read, 0x28000000 + b / 8, 1⟩

/-- The checks of a word-image access (R97). The exception carries the index of the I or Q word (DESIGN CHOICE, log entry 106: Table 3.9 gives
IY for an address of data or of a bit alone). -/
def Chip.ckImgAt (c : Chip) (t : Fin 32) (q write : Bool) (i : Nat) : Option Exc :=
  excIf (8192 ≤ i || !c.inPartK t (i / 64) || (write && !q)) 0x04 (BitVec.ofNat 32 i)

/-- An error when the condition holds, a value otherwise. -/
def exceptOf {α : Type} (e : Option Exc) (v : α) : Except Exc α :=
  match e with
  | some x => .error x
  | none => .ok v

/-- What a copy of task `t` on engine `p` sees. `bad` says that the reads report an uncorrectable error (R299). -/
def Chip.kin (c : Chip) (t : Fin 32) (p : Fin 18) (shadow bad : Bool) (opc : Nat) (am : BitVec 3) (opd : BitVec 18) (ext : Word)
    (x : Ctx) : KIn :=
  let k := c.task t
  let l := (c.ph p).journal
  let st := if shadow then (c.ph p).shStack else (c.ph p).stack
  let ins := am.toNat == 2
  let insB := am.toNat == 0 && opClass opc == .b
  { core := false, am, opd, ext, x, rsp := st.length, depth := if shadow then k.sdepth else k.depth, top := st.head?, ts := k.ts,
    floor := c.get (SCN_TSTKLO.FLOOR t), ceil := c.get (SCN_TSTKHI.TOP t), fresh := !k.inBlock && !k.resumed,
    rd := fun a n => exceptOf (lowest [c.ckData p ins false a n, excIf (bad || c.poisoned a.toNat || (k.paired && jBad l t .data (a.toNat / 8))) 0x0B a])
      (c.dataRead t l k.paired shadow a.toNat n),
    ck := fun a n => c.ckData p ins true a n,
    img := fun q i => exceptOf (lowest [c.ckImgAt t q false i, excIf (bad || c.poisoned ((if q then imgWorkQ else imgWorkI) + 4 * i) ||
        (q && k.paired && jBad l t .qword (i / 2))) 0x0B (BitVec.ofNat 32 i)])
      (if q then c.qRead t l k.paired i else imgGet c.img.wI i),
    ckImg := fun q i => c.ckImgAt t q true i,
    bit := fun b => exceptOf (lowest [c.ckBitAt t p insB false b,
      excIf (bad || c.poisoned (0x28000000 + b / 8) || (k.paired && jBad l t .bit (b / 64))) 0x0B (BitVec.ofNat 32 b)])
      (c.bitRead t l k.paired shadow b),
    ckBit := fun b => c.ckBitAt t p insB true b }

/-! ### Storing -/

/-- A store to its single location; a full 8-byte write ends the poison of its word (R303). -/
def Chip.storeOne (c : Chip) (s : KStore) : Chip :=
  match s.space with
  | .data => (c.st s.addr s.size s.val.toNat).clean s.addr s.size
  | .bit => c.stBit s.addr (s.val.getLsbD 0)
  | .qword => (c.modImg fun m => { m with wQ := imgSet s.addr (s.val.setWidth 32) m.wQ }).markWords imgWorkQ s.addr 1

/-- A store of a SINGLE task; in a warm-up scan it writes both halves of protected storage (R186). -/
def Chip.storeSingle (c : Chip) (t : Fin 32) (s : KStore) : Chip :=
  let c := c.storeOne s
  if !(c.task t).warm then c
  else match s.space with
    | .data => if c.protData t s.addr then (c.st (s.addr + 0x300000) s.size (~~~s.val).toNat).clean (s.addr + 0x300000) s.size else c
    | .bit => if c.protBit t s.addr then c.stBit (s.addr + 0x600000) (!s.val.getLsbD 0) else c
    | .qword => c

/-- A journal entry commits: into both halves of protected storage, and to its single location otherwise (R162). -/
def Chip.commitOne (c : Chip) (e : JEntry) : Chip :=
  let put (c : Chip) (a : Nat) (v : Long) : Chip :=
    (c.st a 8 ((BitVec.ofNat 64 (c.ld a 8) &&& ~~~e.mask) ||| (v &&& e.mask)).toNat).clean a (if e.mask = BitVec.allOnes 64 then 8 else 0)
  match e.space with
  | .data =>
    let c := put c (8 * e.unit) e.data
    if c.protData e.task (8 * e.unit) then put c (8 * e.unit + 0x300000) (~~~e.data) else c
  | .bit =>
    let c := put c (0x28000000 + 8 * e.unit) e.data
    if c.protBit e.task (64 * e.unit) then put c (0x28000000 + 8 * e.unit + 0xC0000) (~~~e.data) else c
  | .qword =>
    let w (c : Chip) (i : Nat) : Chip :=
      if e.mask.getLsbD (32 * i) then
        (c.modImg fun m => { m with wQ := imgSet (2 * e.unit + i) (e.data.extractLsb' (32 * i) 32) m.wQ }).markWords imgWorkQ (2 * e.unit + i) 1
      else c
    (w (w c 0) 1).clean (imgWorkQ + 8 * e.unit) (if e.mask = BitVec.allOnes 64 then 8 else 0)

/-- The journal of an activation commits in a single pass (R174). -/
def Chip.commit (c : Chip) (t : Fin 32) : Chip :=
  match c.physOf (c.leOf t) with
  | none => c
  | some p => (c.forIn ((c.ph p).journal.filter (·.task == t)) fun e c => c.commitOne e).jrnDrop t

/-- An output, marker, instance or data force in effect is written, with the complement in protected storage of a PAIRED owner
(Table 7.6). -/
def Chip.forceOut (c : Chip) (t : Fin 32) (f : Force) : Chip :=
  match f.cur with
  | none => c
  | some v =>
    let both := (c.task t).paired || (c.task t).warm
    let l := f.sym.loc
    let n := 2 ^ f.sym.size
    match f.sym.space with
    | 1 | 4 | 5 =>
      let c := c.stBit l (v.getLsbD 0)
      if both && c.protBit t l then c.stBit (l + 0x600000) (!v.getLsbD 0) else c
    | 3 => (c.modImg fun m => { m with wQ := imgSet l (v.setWidth 32) m.wQ }).markWords imgWorkQ l 1
    | 6 =>
      let c := (c.st l n v.toNat).clean l n
      if both && c.protData t l then (c.st (l + 0x300000) n (~~~v).toNat).clean (l + 0x300000) n else c
    | _ => c

/-- The forces of the task's entries are applied at its COMPARE, or at its ENDT (R208). -/
def Chip.forceTask (c : Chip) (t : Fin 32) : Chip :=
  c.forIn (c.olc.forces.filter fun f => f.owner == some t) fun f c => c.forceOut t f

end Sys2Proof.Machine
end

