-- ==== Sys2Proof/Machine/Issue.lean ====
section
/-! DEFINITION. The issue of one instruction by a logical engine: fetch, decode, condition, both copies of a PAIRED task, comparison
(R168 to R170), exceptions (R80 to R86), stores, the step count (R144, R145), block-repeat admission (R119), LDG and ENDT. -/

namespace Sys2Proof.Machine

/-! ### Mismatch -/

/-- The mismatch record (SHD_MMINFO to SHD_MMSVH), frozen while MM is 1 (R184). -/
def Chip.mmRecord (c : Chip) (e : Fin 16) (t : Fin 32) (kind verdict : Nat) (addr pv sv : Nat) : Chip :=
  if c.flag SHD_STAT.MM then c.set1 SHD_STAT.MMLOST
  else
    let p := match c.physOf e with
      | some p => p.val
      | none => 0
    let c := c.wr SHD_MMINFO.reg (BitVec.ofNat 32 (2 ^ 31 + 2 ^ 24 * p + 2 ^ 16 * e.val + 2 ^ 8 * t.val + 2 ^ 4 * verdict + kind))
    let c := ((c.wr SHD_MMPC.reg (c.task t).ctx.pc).wr SHD_MMADDR.reg (BitVec.ofNat 32 addr)).wr SHD_MMTS.reg (c.tb.setWidth 32)
    let c := (c.wr SHD_MMPVL.reg (BitVec.ofNat 32 pv)).wr SHD_MMPVH.reg (BitVec.ofNat 32 (pv / 2 ^ 32))
    let c := (c.wr SHD_MMSVL.reg (BitVec.ofNat 32 sv)).wr SHD_MMSVH.reg (BitVec.ofNat 32 (sv / 2 ^ 32))
    c.set1 SHD_STAT.MM

/-- The end of a block-repeat issue frees its admission. -/
def Chip.blockEnd (c : Chip) (e : Fin 16) (t : Fin 32) : Chip :=
  let c := if (c.task t).admitted then c.turnEnd 4 (.le e) else c
  c.modTask t fun k => { k with inBlock := false, admitted := false, waiting := false, resumed := false }

/-- A disagreement of the copies: the engine stops issuing and the activation is discarded, its ledger entries apart (R170, R176). -/
def Chip.mismatch (c : Chip) (e : Fin 16) (t : Fin 32) (kind addr pv sv : Nat) : Chip :=
  let c := (((c.mmRecord e t kind 0 addr pv sv).jrnDrop t).unwind t).blockEnd e t
  let c := c.modTask t fun k => { k with mm := k.mm + 1, reexec := true }
  c.modEng e fun g => { g with run := none, mismatch := some t, mmGone := none }

/-- A journal limit (R173): verdict 6, without self-test or re-execution. -/
def Chip.journalLimit (c : Chip) (e : Fin 16) (t : Fin 32) (s : Option KStore) : Chip :=
  let (a, v) : Nat × Nat := match s with
    | some s => (s.addr, s.val.toNat)
    | none => (0, 0)
  ((c.mmRecord e t 6 6 a v v).set1 SHD_STAT.JLIM).abandon t .mismatch 0x11 0 0

/-! ### Comparison -/

/-- The first compared item of Table 6.2 in which two lists of stores differ: its KIND, the primary address, and both items. Where a store differs
in several items at once, the address is told before size and space, and these before the data (DESIGN CHOICE, log entry 108). -/
def storeDiff : List KStore → List KStore → Option (Nat × Nat × Nat × Nat)
  | [], [] => none
  | a :: _, [] => some (1, a.addr, a.addr, 0)
  | [], b :: _ => some (1, b.addr, 0, b.addr)
  | a :: l, b :: r =>
    if a.addr ≠ b.addr then some (1, a.addr, a.addr, b.addr)
    else if a.size ≠ b.size ∨ a.space ≠ b.space then some (3, a.addr, a.size, b.size)
    else if a.val ≠ b.val then some (2, a.addr, a.val.toNat, b.val.toNat)
    else storeDiff l r

/-- The item in which the copies disagree, if any: a decision before a store (log entry 108). -/
def outDiff (a b : KOut) : Option (Nat × Nat × Nat × Nat) :=
  if a.dec ≠ b.dec then some (4, 0, (a.dec.getD 0).toNat, (b.dec.getD 0).toNat) else storeDiff a.stores b.stores

/-! ### After an instruction -/

/-- The context after an instruction: PC advances past it, goes to a target, or stays (R77, R94). -/
def nextPc (o : KOut) (pc : Word) (ext : Bool) : Ctx :=
  { o.x with pc := match o.next with
    | .seq => pc + (if ext then 8 else 4)
    | .jump t => t
    | .stay => pc }

/-- The entry that a call pushes (R70): the return PC, the caller's IB, FLG and BA. -/
def retEntry (x : Ctx) (pc : Word) : RetEntry := ⟨pc, x.ibD, x.ibB, x.flg, x.ba⟩

/-- The return stack after an instruction. -/
def stackAfter (o : KOut) (x : Ctx) (ret : Word) (l : List RetEntry) : List RetEntry :=
  if o.push then retEntry x ret :: l else if o.pop then l.tail else l

/-- Steps are counted, and a count above TBUD abandons the activation with an overrun of kind 1 (R144, R145). -/
def Chip.countSteps (c : Chip) (t : Fin 32) (n : Nat) : Chip :=
  let c := c.modTask t fun k => { k with steps := k.steps + n }
  if c.get (SCN_TBUD.TBUD t) < (c.task t).steps then c.overrun t 1 else c

/-- The instruction's stores take effect: at once for a SINGLE task, in the journal for a PAIRED one (R159, R171). The answer tells
whether the journal limit refused them (R173). -/
def Chip.storeAll (c : Chip) (e : Fin 16) (t : Fin 32) (p : Fin 18) (l : List KStore) : Bool × Chip :=
  if !(c.task t).paired then (true, c.forIn l fun s c => c.storeSingle t s)
  else
    let j := jStore t (c.ph p).journal l
    let n := (j.filter (·.task == t)).length
    if l.isEmpty then (true, c)
    else if c.get (SHD_TCFG.JMAX t) < n then (false, c)
    else
      let c := c.modPh p fun q => { q with journal := j }
      let c := if c.get (SHD_TSTAT.JHWM t) < n then c.put (SHD_TSTAT.JHWM t) n else c
      (true, c.jrnCount e)

/-! ### Before an instruction -/

/-- A reserved encoding raises 0x01, an instruction of the Kazhin-M profile 0x02 (R95, R122); a word outside the active code half, or
one that the guard refuses to the engine, raises 0x04 (R94, R471). -/
def Chip.fetchExc (c : Chip) (p : Fin 18) (opc : Nat) (o : Op) (pc : Word) : Option Exc :=
  let inCode (a : Nat) : Bool := 0x10000000 ≤ a && a + 4 ≤ 0x10300000 && c.admits (engineAgent p) false a 4
  let h := hasExt opc o.am
  if !inCode pc.toNat then some ⟨0x04, 0, some ⟨.fetch, pc.toNat, 4⟩⟩
  else if isReserved false opc o.am o.opd (if h then o.ext else 0) then some ⟨0x01, 0, none⟩
  else if opc = 0x78 ∨ opc = 0x79 ∨ opc = 0x7A then some ⟨0x02, 0, none⟩
  else if h && !inCode (pc.toNat + 4) then some ⟨0x04, 0, some ⟨.fetch, pc.toNat + 4, 4⟩⟩
  else none

/-- An exception of the running task: an access that the guard refused is recorded (R475), and an uncorrectable read counted (R299). -/
def Chip.raiseLe (c : Chip) (p : Fin 18) (t : Fin 32) (x : Exc) : Chip :=
  let c := match x.acc with
    | some a => c.refuseLe (engineAgent p) a
    | none => c
  ((if x.code = 0x0B then c.incSat FLT_ECC.UNCCNT else c)).except t x

/-- ECC corrects the read of the instruction's own word (R299). -/
def Chip.wordRead (c : Chip) (p : Fin 18) (t : Fin 32) (o : Op) : Chip :=
  if o.ecc == .corrected then c.eccNote (c.task t).ctx.pc.toNat (engineAgent p).toNat else c

/-- The debug port lets a halted engine make a step, which its task has not made yet (R481). -/
def Chip.debugSteps (c : Chip) (e : Fin 16) : Bool :=
  match (c.eng e).step, (c.eng e).run with
  | some x, some t => x == (t, (c.task t).steps, (c.task t).ts)
  | _, _ => false

/-- The engine can issue: the chip scans, the engine runs a task in EXECUTE, and nothing has stopped it. -/
def Chip.canIssue (c : Chip) (e : Fin 16) : Option (Fin 32 × Fin 18) :=
  let g := c.eng e
  if c.scanning && (!g.halted || c.debugSteps e) && g.mismatch.isNone && g.remap.isNone then
    match g.run, c.physOf e with
    | some t, some p => if c.phase t = 2 then some (t, p) else none
    | _, _ => none
  else none

/-- The shadow copy's context in true form, with the disturbance of this instruction (R166). -/
def shadowCtx (o : Op) (x : Ctx) : Ctx :=
  let x := x.compl
  { x with acc := x.acc ^^^ o.upset.acc, ix := x.ix ^^^ o.upset.ix, ba := x.ba ^^ o.upset.ba }

/-- A block repeat whose remaining data side exceeds 4 KiB at issue needs an admission (R119). -/
def needsAdmission (opc : Nat) (opd : BitVec 18) (x : Ctx) : Bool :=
  match opc with
  | 0x70 | 0x71 => 4096 < x.brc.toNat * 2 ^ (opd.toNat % 4)
  | 0x74 | 0x75 => 4096 < x.brc.toNat
  | _ => false

/-! ### Issue -/

/-- An instruction whose condition does not hold: one step, and PC goes on (R59). -/
def Chip.skip (c : Chip) (t : Fin 32) (ext : Bool) (sx : Ctx) : Chip :=
  let n : Word := if ext then 8 else 4
  let c := c.modTask t fun k => { k with ctx := { k.ctx with pc := k.ctx.pc + n }, sctx := if k.paired then { sx.compl with pc := k.ctx.pc + n } else k.sctx }
  c.countSteps t 1

/-- The results of both copies take effect. A block repeat is complete with its last element, and the budget is looked at then (R145). -/
def Chip.retire (c : Chip) (e : Fin 16) (t : Fin 32) (p : Fin 18) (ext : Bool) (out : KOut) (sx : Ctx) (sout : Option KOut) : Chip :=
  let x := (c.task t).ctx
  let ret : Word := x.pc + (if ext then 8 else 4)
  match c.storeAll e t p out.stores with
  | (false, c) => c.journalLimit e t out.stores.head?
  | (true, c) =>
    let c := c.modPh p fun q =>
      { q with stack := stackAfter out x ret q.stack,
               shStack := match sout with
                 | some s => stackAfter s sx ret q.shStack
                 | none => q.shStack }
    let c := c.modTask t fun k =>
      { k with ctx := nextPc out x.pc ext,
               sctx := match sout with
                 | some s => (nextPc s sx.pc ext).compl
                 | none => k.sctx,
               inBlock := out.next = .stay, resumed := false }
    if out.next = .stay then c.modTask t fun k => { k with steps := k.steps + out.steps } else (c.blockEnd e t).countSteps t out.steps

/-- The address at which a read first reports a memory error: the instruction's first operand, or its own word. -/
def Chip.eccAt (c : Chip) (t : Fin 32) (p : Fin 18) (opc : Nat) (o : Op) (sem : Sem) (x : Ctx) : Option Word :=
  match sem (c.kin t p false true opc o.am o.opd o.ext x) with
  | .error e => if e.code = 0x0B then some e.addr else none
  | .ok _ => none

/-- The read of an instruction word whose instruction reads nothing else (R299): an uncorrectable one raises 0x0B where the instruction raises no
lower cause `ex` of its own (R81), a corrected one is told. -/
def Chip.fetched (c : Chip) (p : Fin 18) (t : Fin 32) (o : Op) (f : Chip → Chip) (ex : Option Exc := none) : Chip :=
  match lowest [ex, excIf (o.ecc == .uncorrectable) 0x0B 0] with
  | some x => (c.wordRead p t o).raiseLe p t x
  | none => f (c.wordRead p t o)

/-- What the frame of an issue does before the instruction's own work: it tells whether the instruction executes. -/
inductive Gate where
  /-- nothing is issued -/
  | closed
  /-- the engine takes the instruction: task, physical engine, and the shadow copy's context -/
  | runs (t : Fin 32) (p : Fin 18) (sx : Ctx)
deriving DecidableEq, Repr

/-- Fetch, decode and condition of an instruction (R59, R60, R94, R95): the state, and whether the instruction executes. -/
def Chip.gate (c : Chip) (e : Fin 16) (opc : Nat) (o : Op) : Gate × Chip :=
  match c.canIssue e with
  | none => (.closed, c)
  | some (t, p) =>
    let k := c.task t
    let x := k.ctx
    let sx := if k.paired then shadowCtx o k.sctx else k.sctx.compl
    match c.fetchExc p opc o x.pc with
    | some ex => (.closed, (if ex.acc = some ⟨.fetch, x.pc.toNat, 4⟩ then c else c.wordRead p t o).raiseLe p t ex)
    | none =>
      let cp := condHolds o.cond x.flg x.ba
      let cs := condHolds o.cond sx.flg sx.ba
      if k.paired && o.cond != 0 && cp != cs then (.closed, (c.wordRead p t o).mismatch e t 4 0 cp.toNat cs.toNat)
      else if !cp then (.closed, c.fetched p t o fun c => c.skip t (hasExt opc o.am) sx)
      else (.runs t p sx, c)

/-- The issue of an instruction with meaning `sem` by a logical engine. -/
def Chip.issueLe (c : Chip) (e : Fin 16) (opc : Nat) (o : Op) (sem : Sem) : Chip :=
  match c.gate e opc o with
  | (.closed, c) => c
  | (.runs t p sx, c) =>
    let k := c.task t
    let x := k.ctx
    let ext := hasExt opc o.am
    if !k.inBlock && !k.admitted && needsAdmission opc o.opd x && !c.turnHas 4 (.le e) then
      (c.turnAsk 4 (.le e)).modTask t fun k => { k with waiting := true }
    else
      let c := if k.waiting then c.modTask t fun k => { k with waiting := false, admitted := true } else c
      let bad := o.ecc == .uncorrectable
      let out := sem (c.kin t p false bad opc o.am o.opd o.ext x)
      let dirty := c.eccAt t p opc o sem x
      let c := if o.ecc == .corrected then c.eccNote (match dirty with
          | some a => if a.toNat < 0x10000000 then 0x28000000 + a.toNat / 8 else a.toNat
          | none => x.pc.toNat) (engineAgent p).toNat else c
      if bad && dirty.isNone && (excOf out).isNone then c.raiseLe p t ⟨0x0B, 0, none⟩
      else
        let opd := o.opd ^^^ (if k.paired then o.upset.opd else 0)
        let sout := if isReserved false opc o.am opd o.ext then .error ⟨0x01, 0, none⟩
          else sem (c.kin t p true bad opc o.am opd o.ext sx)
        match out with
        | .error ex => c.raiseLe p t ex
        | .ok out =>
          if k.paired then
            match sout with
            | .error ex => c.mismatch e t 4 0 0 ex.code
            | .ok s =>
              match outDiff out s with
              | some (kind, a, pv, sv) => c.mismatch e t kind a pv sv
              | none => c.retire e t p ext out sx (some s)
          else c.retire e t p ext out sx none

/-! ### LDG -/

/-- A system or status bit as a ledger read of task `t` sees it (Table 3.6, R143, R209, R234). -/
def Chip.statusBit (c : Chip) (t : Fin 32) (n : Nat) : Bool :=
  let k := c.task t
  if n < 8 then
    match n with
    | 0 => k.first
    | 1 => c.sys.warm
    | 2 => k.paired
    | 3 => k.pace
    | 4 => c.olc.forces.any (·.cur.isSome)
    | 5 => c.pairMember
    | 6 => c.flag HSB_STATE.LOCKED
    | _ => !c.flag RTC_STATE.TIMEINV
  else if 0x100 ≤ n && n < 0x180 then
    let r := Fin.ofNat 4 ((n - 0x100) / 32)
    if c.kind t == kCYC then k.drops[r].getLsbD (n % 32) else (c.rd (STN_DROP.reg r)).getLsbD (n % 32)
  else if 0x200 ≤ n && n < 0x280 then (c.rd (STN_DIAGB.reg ((n - 0x200) / 32))).getLsbD (n % 32)
  else if 0x300 ≤ n && n < 0x320 then (c.task (Fin.ofNat 32 (n - 0x300))).overrun
  else false

/-- An LDG source read by task `t` (Table 4.10): the value, BA, and the state after it. A source that delivers no BA leaves the task's own in its
entry (DESIGN CHOICE, log entry 109). -/
def Chip.ldgRead (c : Chip) (t : Fin 32) (src sel : Nat) : Except Exc (Long × Bool × Chip) :=
  match src with
  | 0 => .ok (c.tb, (c.task t).ctx.ba, c)
  | 1 => .ok (c.dateAndTime, !c.flag RTC_STATE.TIMEINV, c)
  | 2 =>
    let r := Fin.ofNat 4 (sel / 2 ^ 11)
    let s := sel / 2 ^ 6 % 32
    if c.get (STN_STATE.NSTN r) ≤ s then .error ⟨0x01, 0, none⟩
    else
      let i := 32 * r.val + s
      let a := if sel / 2 ^ 13 = 0 then imgRxWords + 4 * (64 * i + sel % 64) else imgRxBits + 4 * (16 * i + sel % 16)
      if c.poisoned a then .error ⟨0x0B, 0, none⟩
      else
      let v := if sel / 2 ^ 13 = 0 then c.inWord i (sel % 64) else c.inBits i (sel % 16)
      .ok (v.setWidth 64, !c.bitOf (STN_DROP.DROP r) s, c)
  | 3 =>
    let w := Fin.ofNat 4 (sel - 28)
    if c.flag (MBX_WCFG.WEN w) && c.get (MBX_WCFG.RDCLS w) = 0 then
      let (v, f, c) := c.wTake w
      .ok (v.setWidth 64, f, c)
    else .error ⟨0x04, 0, none⟩
  | _ => .ok (Config.freeLong c.free, c.statusBit t sel, { c with free := c.free + 1 })

/-- The context after an LDG delivers an entry. -/
def ldgCtx (x : Ctx) (src : Nat) (v : Long) (ba : Bool) : Ctx :=
  match src with
  | 0 => x.setLong v
  | 1 => { x.setLong v with ba := ba }
  | 4 => { x with ba := ba }
  | _ => { x with acc := v.setWidth 32, ba := ba }

/-- An entry from the partner for the standby's LDG (R250), or its own held entry. -/
def Chip.partnerEntry (c : Chip) (t : Fin 32) (i : Nat) : Option Ledger :=
  (c.hsb.ledger.find? fun l => !l.1 && l.2.task == t && l.2.index == i).map (·.2)

/-- The entry is delivered to both copies; the shadow's selection is compared with it (Table 6.2, KIND 5). -/
def Chip.ldgDeliver (c : Chip) (e : Fin 16) (t : Fin 32) (p : Fin 18) (o : Op) (sx : Ctx) (l : Ledger) : Chip :=
  let k := c.task t
  let opd := o.opd ^^^ o.upset.opd
  let ssrc := opd.toNat / 2 ^ 14
  let ssel := opd.toNat % 2 ^ 14
  let c := c.modTask t fun k => { k with ledgPos := l.index + 1, ledgUsed := max k.ledgUsed (l.index + 1) }
  if k.paired && (ssrc ≠ l.src || ssel ≠ l.sel) then c.mismatch e t 5 0 (l.src + 2 ^ 32 * l.sel) (ssrc + 2 ^ 32 * ssel)
  else
    let out : KOut := { x := ldgCtx k.ctx l.src l.value l.ba, steps := 4 }
    let s : KOut := { x := ldgCtx sx l.src l.value l.ba, steps := 4 }
    c.retire e t p false out sx (if k.paired then some s else none)

/-- An entry is made from the source (R155): the partner receives it too (R248). -/
def Chip.ldgMake (c : Chip) (e : Fin 16) (t : Fin 32) (p : Fin 18) (o : Op) (sx : Ctx) (src sel : Nat) : Chip :=
  let i := (c.task t).ledgPos
  match c.ldgRead t src sel with
  | .error ex => c.raiseLe p t ex
  | .ok (v, ba, d) =>
    if c.get (SCN_TCFG.LEDGMAX t) ≤ i then c.overrun t 3
    else
      let l : Ledger := { value := v, src, ba, task := t, index := i, sel }
      let c := d.ledgPut l
      (c.doIf c.leading (·.send (.ledger e l))).ldgDeliver e t p o sx l

/-- The exception of the source itself (Table 4.10). -/
def Chip.ldgExc (c : Chip) (t : Fin 32) (src sel : Nat) : Option Exc := excOf (c.ldgRead t src sel)

/-- LDG makes a new entry: the source is read, or the partner's entry taken (R250); on a unit in FOLLOW it waits for that entry, where the
primary would make one. An LDG past the slice is an overrun of kind 3 on either unit (R146, R252). -/
def Chip.ldgNew (c : Chip) (e : Fin 16) (t : Fin 32) (p : Fin 18) (o : Op) (sx : Ctx) (src sel : Nat) : Chip :=
  let i := (c.task t).ledgPos
  match c.partnerEntry t i with
  | some l =>
    if l.src = src && l.sel = sel then (c.ledgPut l).ldgDeliver e t p o sx l
    else if c.mode == mFOLLOW then c.lockstepLost 2
    else (c.ledgForget t i).ldgMake e t p o sx src sel
  | none =>
    if c.mode == mFOLLOW then (if c.get (SCN_TCFG.LEDGMAX t) ≤ i then c.overrun t 3 else c)
    else c.ldgMake e t p o sx src sel

/-- LDG on a logical engine (R116, R155 to R158, R169, R250, R299). A read that an uncorrectable error, or the exception of its source, ends
makes no entry. -/
def Chip.ldgLe (c : Chip) (e : Fin 16) (o : Op) : Chip :=
  match c.gate e 0x5E o with
  | (.closed, c) => c
  | (.runs t p sx, c) =>
    let k := c.task t
    let src := o.opd.toNat / 2 ^ 14
    let sel := o.opd.toNat % 2 ^ 14
    let own := c.ledgGet t k.ledgPos
    let bad := k.ledgPos < k.ledgUsed && (c.poisoned (c.ledgAddr t k.ledgPos) || c.poisoned (c.ledgAddr t k.ledgPos + 8))
    let held := k.ledgPos < k.ledgUsed && own.src = src && own.sel = sel
    c.fetched p t o (ex := if bad then some ⟨0x0B, 0, none⟩ else if held then none else c.ldgExc t src sel) fun c =>
      if held then c.ldgDeliver e t p o sx own
      else
        let stale := k.ledgPos < k.ledgUsed
        let c := c.modTask t fun k => { k with ledgUsed := min k.ledgUsed k.ledgPos }
        let c := if stale && c.leading then c.send (.retract e t k.ledgPos) else c
        c.ldgNew e t p o sx src sel

/-! ### ENDT -/

/-- The anchor A (R127): the smallest multiple of 1,000,000 ns at least 100 µs later. -/
def Chip.fixAnchor (c : Chip) : Chip :=
  let a : Time := BitVec.ofNat 64 ((c.t + 100000 + 999999) / 1000000 * 1000000)
  ((c.wr SCN_ANCHORL.reg (a.setWidth 32)).wr SCN_ANCHORH.reg (a.extractLsb' 32 32)).modSys fun y => { y with anchored := true }

/-- A completed activation's count (SCN_TMAX), its end marker and its recorder post (R144, R248, R353). -/
def Chip.completed (c : Chip) (t : Fin 32) : Chip :=
  let n := (c.task t).steps
  let c := if c.get (SCN_TMAX.MAX t) < n then c.put (SCN_TMAX.MAX t) n else c
  let c := c.post (0x040 + t.val) (BitVec.ofNat 32 n)
  c.endSend t .none

/-- ENDT on a logical engine (R112): a cyclic scan goes on to COMPARE, any other activation commits and ends (R174); a start-up
task's end releases the others and fixes the anchor (R133). A standby waits for the ENDMK of a PAIRED activation (R252). The forces in effect are
written first, so that a change that takes effect at this end is first written at the next ENDT (DESIGN CHOICE, log entry 136). -/
def Chip.endtLe (c : Chip) (e : Fin 16) (o : Op) : Chip :=
  match c.gate e 0x57 o with
  | (.closed, c) => c
  | (.runs t p _, c) =>
    let k := c.task t
    if c.mode == mFOLLOW && k.paired && !k.endmk.any (·.1 == c.scanNum t) && c.kind t != kCYC then c
    else c.fetched p t o fun c =>
      let c := c.countSteps t 2
      if !(c.task t).live || !c.scanning then c
      else if k.paired && c.kind t != kCYC && (c.ph p).journal.any (fun j => j.task == t && j.bad) then c.raiseLe p t ⟨0x0B, 0, none⟩
      else
        let c := c.completed t
        if c.kind t == kCYC then
          ((c.leaveEngine t).toPhase t 3).dispatch e
        else
          let c := (if k.paired then c.commit t else c).forceTask t
          let c := (c.leaveEngine t).finish t .none
          let c := if c.sys.startup == some t then (c.modSys fun y => { y with startup := none }).fixAnchor else c
          c.dispatch e

end Sys2Proof.Machine
end

