-- ==== Sys2Proof/Machine/Cyclic.lean ====
section
/-! DEFINITION. The phases of a cyclic scan, event and error releases, pre-emption, pacemeter and slack windows (R125 to R154, R289). -/

namespace Sys2Proof.Machine

/-! ### Published image and partitions -/

/-- Publish the inputs of station index `k` (Table 5.3), in both copies (R136). -/
def Chip.pubIn (c : Chip) (k : Nat) (bits words : List (Nat × Word)) : Chip :=
  let c := c.forIn (List.range 16) fun j c => c.st (0x2C000000 + 64 * k + 4 * j) 4 (imgGet bits (16 * k + j)).toNat
  let c := c.forIn (List.range 64) fun j c => c.st (0x2C004000 + 4 * (64 * k + j)) 4 (imgGet words (64 * k + j)).toNat
  let c := (c.cleanPart 0x2C000000 0x2C004000 k).cleanPart (0x2C000000 + imgInactive) (0x2C004000 + imgInactive) k
  (c.markWords (0x2C000000 + imgInactive) (16 * k) 16).markWords (0x2C004000 + imgInactive) (64 * k) 64
/-- Publish the outputs of station index `k`, in both copies. -/
def Chip.pubOut (c : Chip) (k : Nat) (bits words : List (Nat × Word)) : Chip :=
  let c := c.forIn (List.range 16) fun j c => c.st (0x2C002000 + 64 * k + 4 * j) 4 (imgGet bits (16 * k + j)).toNat
  let c := c.forIn (List.range 64) fun j c => c.st (0x2C00C000 + 4 * (64 * k + j)) 4 (imgGet words (64 * k + j)).toNat
  let c := (c.cleanPart 0x2C002000 0x2C00C000 k).cleanPart (0x2C002000 + imgInactive) (0x2C00C000 + imgInactive) k
  (c.markWords (0x2C002000 + imgInactive) (16 * k) 16).markWords (0x2C00C000 + imgInactive) (64 * k) 64

/-- A publication ends: SCN_IMGSEQ counts it, and WDO follows the published bit (R136, R406). -/
def Chip.published (c : Chip) : Chip :=
  let c := c.incWrap SCN_IMGSEQ.SEQ
  c.wdoTake

/-- Copy the words of a partition from one image into another: `n` words a station. -/
def copyPart (n : Nat) (src : List (Nat × Word)) (part : List Nat) (dst : List (Nat × Word)) : List (Nat × Word) :=
  (part.flatMap fun k => (List.range n).map (n * k + ·)).foldl (fun d i => imgSet i (imgGet src i) d) dst

/-- The working Q bits of a partition, as image words. -/
def Chip.workQ (c : Chip) (part : List Nat) : List (Nat × Word) :=
  (part.flatMap fun k => (List.range 16).map (16 * k + ·)).foldl (fun d i => imgSet i (c.ldBits32 (0x10000 + 32 * i)) d) []

/-- The partition hash (R254): the CRC of the Q bits and of the Q words, over the stations in ascending index. -/
def Chip.partHash (c : Chip) (t : Fin 32) : Long :=
  let p := c.part t
  let bits := p.flatMap fun k => (List.range 16).map fun j => c.ldBits32 (0x10000 + 32 * (16 * k + j))
  let words := p.flatMap fun k => (List.range 64).map fun j => imgGet c.img.wQ (64 * k + j)
  crc32c (bytesOfWords words) ++ crc32c (bytesOfWords bits)

/-! ### Release and INPUT -/

/-- A scan starts: TS is taken and the partition's inputs are frozen (R129, R140, R155). -/
def Chip.startScan (c : Chip) (t : Fin 32) (rel : Time) : Chip :=
  let p := c.part t
  let c := c.takeTS t c.tb
  let c := c.modTask t fun k =>
    { k with paired := c.flag (SHD_TSTAT.CUR t), warm := c.flag (SHD_TSTAT.WARM t), lastRel := some rel,
             paceTS := c.flag (SCN_LEPACE.WARN (c.leOf t)), frozenB := copyPart 16 c.img.rxB p [], frozenW := copyPart 64 c.img.rxW p [],
             lateDue := none }
  c.toPhase t 1

/-- The scan number whose release instant is `now`, if it is one (R127). -/
def Chip.releaseAt (c : Chip) (t : Fin 32) (now : Time) : Option Nat :=
  let a := (c.rd SCN_ANCHORL.reg).toNat + 2 ^ 32 * (c.rd SCN_ANCHORH.reg).toNat + 1000 * c.get (SCN_TPHASE.PHASE t)
  let p := 1000 * c.get (SCN_TPERIOD.PERIOD t)
  if c.sys.anchored && p != 0 && a ≤ now.toNat && (now.toNat - a) % p == 0 then some ((now.toNat - a) / p) else none

/-- The next release instant of a task at or after an instant (R127). -/
def Chip.nextRelease (c : Chip) (t : Fin 32) (from_ : Nat) : Option Nat :=
  let a := (c.rd SCN_ANCHORL.reg).toNat + 2 ^ 32 * (c.rd SCN_ANCHORH.reg).toNat + 1000 * c.get (SCN_TPHASE.PHASE t)
  let p := 1000 * c.get (SCN_TPERIOD.PERIOD t)
  if !c.sys.anchored || p == 0 || c.kind t != kCYC then none
  else if from_ ≤ a then some a
  else some (a + (from_ - a + p - 1) / p * p)

/-- The bookkeeping of an abandoned scan (R146, R147): the frozen inputs and the outputs actually sent are published, ABNCNT counts,
and at HOLDLIM the outputs take their substitute values. -/
def Chip.abandonedScan (c : Chip) (t : Fin 32) (bits words : List (Nat × Word)) : Chip :=
  let c := c.forIn (c.part t) fun k c => (c.pubIn k bits words).pubOut k c.img.outB c.img.outW
  let c := c.published
  let c := c.incSat (SCN_TSTAT.ABNCNT t)
  let lim := c.get (SCN_TCFG.HOLDLIM t)
  if lim ≠ 0 && lim ≤ c.get (SCN_TSTAT.ABNCNT t) then (c.set1 (SCN_TSTAT.SUBST t)).clr (SCN_TSTAT.HELD t)
  else if c.flag (SCN_TSTAT.SUBST t) then c
  else c.set1 (SCN_TSTAT.HELD t)

/-- The HOUSEKEEP of a scan whose next release has already come (R130): its boundary's work too (R142, R143). A scan that executes meanwhile goes
on in the mode in which it began. The boundary is no activation point (DESIGN CHOICE, log entry 134). -/
def Chip.oldHousekeep (c : Chip) (t : Fin 32) : Chip :=
  let k := c.task t
  match k.old with
  | none => c
  | some a =>
    let c := c.abandonedScan t k.oldB k.oldW
    let c := c.post (0x020 + t.val) (BitVec.ofNat 32 (min (c.t - k.oldRel.toNat) 0xFFFFFFFF))
    let c := c.modTask t fun k => { k with old := none, oldB := [], oldW := [], first := false, overrun := a.isOverrun, pace := k.oldPace }
    let c := ((c.modeSwitch t).warmDone t).modImg fun m => { m with queue := m.queue.filter (· != (t, 6)) }
    let keep := 2 ≤ c.phase t && c.phase t ≤ 5
    (c.modTask t fun v => { v with paired := if keep then k.paired else c.flag (SHD_TSTAT.CUR t),
                                   warm := if keep then k.warm else c.flag (SHD_TSTAT.WARM t),
                                   drops := #v[c.rd (STN_DROP.reg 0), c.rd (STN_DROP.reg 1), c.rd (STN_DROP.reg 2), c.rd (STN_DROP.reg 3)] }).forceEffect
      fun f => f.owner == some t

/-- A scan whose self-test is still running when its release comes is abandoned, and the verdict follows it (R179). -/
def Chip.selfTestGone (c : Chip) (t : Fin 32) : Chip :=
  let e := c.leOf t
  if (c.eng e).mismatch = some t then c.modEng e fun g => { g with mmGone := some (c.task t).mm } else c

/-- A release of a cyclic task that may start scans (R130). -/
def Chip.release (c : Chip) (t : Fin 32) (n : Nat) (now : Time) : Chip :=
  let c := c.put (SCN_TSCAN.SCAN t) n
  let ph := c.phase t
  if ph = 1 || ph = 2 then
    let rel := ((c.task t).lastRel).getD 0
    let c := (c.oldHousekeep t).modTask t fun k => { k with oldRel := rel }
    let c := (c.selfTestGone t).overrun t 2 true
    if c.scanning then c.startScan t now else c
  else if ph = 0 then c.startScan t now
  else c.modTask t fun k => { k with lateDue := some now }

/-- New scans may begin: RUN, outside a transition to STOP, with no start-up task running and no all-task package in hand (R30,
R133, R202). -/
def Chip.releasing (c : Chip) : Bool := c.mode == mRUN && !c.flushing && !c.flag SYS_MODE.TRANS && c.sys.startup.isNone && !c.olc.hold

/-- CYCLIC_RELEASE (R127 to R131). -/
def execCyclicRelease (t : Fin 32) (now : Time) (s : State) : Host.Outcome State Fault Refusal := s.on fun c =>
  let c := c.arrive now
  if c.kind t != kCYC || now.toNat < (c.task t).holdOff.toNat then c
  else match c.releaseAt t now with
    | none => c
    | some n =>
      if c.releasing then c.release t n now
      else if c.olc.hold && c.mode == mRUN && !c.flushing && !c.flag SYS_MODE.TRANS && c.sys.startup.isNone then
        let c := c.put (SCN_TSCAN.SCAN t) n
        let c := if c.phase t = 1 || c.phase t = 2 then (c.selfTestGone t).overrun t 2 else c
        c.doIf c.scanning fun c => c.modTask t fun k => { k with lateDue := some now }
      else c

/-- An activation armed for this scan is forwarded with its start token (R212). -/
def Chip.fwdAct (c : Chip) (t : Fin 32) : Chip :=
  match c.olc.fwd with
  | some n => if c.olc.pivot == t && n.toNat ≤ (c.scanNum t).toNat then
      (c.send (.stage t OLC_CMD.reg 0x5A3C0003 n)).modOlc fun o => { o with fwd := none } else c
  | none => c

/-- INPUT completes (R137, R140): the working partition takes the frozen inputs, and EXECUTE begins. The partner receives the scan's
TOKEN and inputs (R248). -/
def Chip.inputDone (c : Chip) (t : Fin 32) : Chip :=
  let k := c.task t
  let p := c.part t
  let c := c.forIn (p.flatMap fun k => (List.range 16).map (16 * k + ·)) fun i c => c.stBits32 (32 * i) (imgGet k.frozenB i)
  let c := (c.modImg fun m => { m with wI := copyPart 64 k.frozenW p m.wI }).forIn p fun k c =>
    (c.markWords imgWorkI (64 * k) 64).cleanPart 0x28000000 imgWorkI k
  let c := if c.leading then
      ((c.send (.token t ⟨c.rd (SCN_TSCAN.reg t), k.ts, 0, 0, 0, 0⟩)).send (.inpart t k.frozenB k.frozenW)).fwdAct t
    else c
  ((c.loadCtx t 0 0 0 0).toPhase t 2).dispatch (c.leOf t)

/-- A standby's COMPARE of a PAIRED activation waits for its ENDMK (R252). -/
def Chip.endWait (c : Chip) (t : Fin 32) : Bool :=
  c.mode == mFOLLOW && (c.task t).paired && !(c.task t).endmk.any (·.1 == c.scanNum t)

/-- The image stores can have served the fixed phase: they take one after the other, in order of request (R137). Only the image-store part of a
phase holds the queue (R139): the forces and the commit of a COMPARE and the scheduler work of a HOUSEKEEP let the other phases by, so an operation
waits for the INPUTs and OUTPUTs before it, and a HOUSEKEEP for the HOUSEKEEPs before it too (DESIGN CHOICE, log entry 102). -/
def Chip.imgTurn (c : Chip) (t : Fin 32) (n : Nat) : Bool :=
  let late (k : Nat) : Bool := k == 5 || k == 6
  c.img.queue.contains (t, n) && (c.img.queue.takeWhile (· != (t, n))).all fun q => q.2 == 3 || (late q.2 && !late n)

/-- INPUT_PHASE (R137); on the standby, an ENDMK that has come before EXECUTE abandons the scan now (R252). -/
def execInputPhase (t : Fin 32) (now : Time) (s : State) : Host.Outcome State Fault Refusal := s.on fun c =>
  let c := c.arrive now
  if c.scanning && c.kind t == kCYC && c.phase t = 1 && c.imgTurn t 1 then (c.inputDone t).endMirror t else c

/-! ### COMPARE, OUTPUT and HOUSEKEEP -/

/-- COMPARE_PHASE (R137, R174, R208, R254): a journal entry whose read is uncorrectable abandons the scan with 0x0B (R299). A standby
waits for the ENDMK of a PAIRED activation (R252). A warm-up scan skips OUTPUT (R186). -/
def execComparePhase (t : Fin 32) (ecc : Ecc) (now : Time) (s : State) : Host.Outcome State Fault Refusal := s.on fun c =>
  let c := c.arrive now
  let k := c.task t
  let held := match c.physOf (c.leOf t) with
    | some p => (c.ph p).journal.filter (fun (j : JEntry) => j.task == t)
    | none => []
  if !c.scanning || c.kind t != kCYC || c.phase t ≠ 3 || c.endWait t || !c.imgTurn t 3 then c
  else if k.paired && !held.isEmpty && (ecc == .uncorrectable || held.any (·.bad)) then c.abandon t (.exception 0x0B) 0x0B k.ctx.pc 0
  else
    let c := if ecc == .corrected then (match c.physOf (c.leOf t) with
        | some p => c.eccNote (0x34000000 + 0x8000 * p.val) (engineAgent p).toNat
        | none => c) else c
    let c := (if k.paired then c.commit t else c).forceTask t
    let h := c.partHash t
    let c := c.modTask t fun k => { k with hashes := (c.scanNum t, h) :: k.hashes.take 1 }
    let c := if c.leading then c.send (.hash t (c.scanNum t) h) else c
    c.toPhase t (if k.warm then 5 else 4)

/-- OUTPUT_PHASE (R141, R147): the Q partition enters the transmit image, and program values return. -/
def execOutputPhase (t : Fin 32) (now : Time) (s : State) : Host.Outcome State Fault Refusal := s.on fun c =>
  let c := c.arrive now
  if !c.scanning || c.kind t != kCYC || c.phase t ≠ 4 || !c.imgTurn t 4 then c
  else
    let p := c.part t
    let c := c.modImg fun m => { m with txB := copyPart 16 (c.workQ p) p m.txB, txW := copyPart 64 m.wQ p m.txW }
    let c := c.forIn p fun k c => ((c.markWords imgTxBits (16 * k) 16).markWords imgTxWords (64 * k) 64).cleanPart imgTxBits imgTxWords k
    let c := ((c.put (SCN_TSTAT.ABNCNT t) 0).clr (SCN_TSTAT.SUBST t)).clr (SCN_TSTAT.HELD t)
    (c.modTask t fun k => { k with outDone := true }).toPhase t 5

/-- The publication of a completed scan (R136), with the values that the members of its paralleled groups send (R232), or of a warm-up scan
(R186). -/
def Chip.publishScan (c : Chip) (t : Fin 32) : Chip :=
  let k := c.task t
  let p := c.part t
  let q := c.workQ p
  (c.forIn p fun i c =>
    let c := c.pubIn i k.frozenB k.frozenW
    if k.warm then c.pubOut i c.img.outB c.img.outW else c.pubOut i (c.expand i q) c.img.wQ).published

/-- The standby compares the active unit's hash of the scan before this one with its own (R254). An abandoned scan has hash 0. -/
def Chip.hashCheck (c : Chip) (t : Fin 32) : Chip :=
  if c.mode != mFOLLOW then c
  else
    let n := c.scanNum t
    let c := if (c.task t).ended == .none then c else c.modTask t fun k => { k with hashes := (n, 0) :: k.hashes.take 1 }
    match (c.task t).hashes.find? (·.1 != n) with
    | none => c
    | some (m, own) =>
      match (c.task t).partnerHash.find? (·.1 == m) with
      | none => c.lockstepLost 1
      | some (_, h) =>
        if h = own then c.modTask t fun k => { k with partnerHash := k.partnerHash.filter (·.1 != m), hashes := k.hashes.take 1 }
        else (c.set1 HSB_STAT.HASHMM).lockstepLost 1

/-- What a scan boundary does to the task (R142, R143, R156, R185, R209). -/
def Chip.boundary (c : Chip) (t : Fin 32) : Chip :=
  let c := c.modTask t fun k =>
    { k with overrun := k.ended.isOverrun, first := false, pace := k.paceTS, ledgUsed := 0, ledgPos := 0, steps := 0,
             drops := #v[c.rd (STN_DROP.reg 0), c.rd (STN_DROP.reg 1), c.rd (STN_DROP.reg 2), c.rd (STN_DROP.reg 3)] }
  let c := (c.modeSwitch t).warmDone t
  c.forceEffect fun f => f.owner == some t

/-- A release that fell during the late phases, or while releases were held, starts its scan late (R130, R202). -/
def Chip.lateStart (c : Chip) (t : Fin 32) : Chip :=
  match (c.task t).lateDue with
  | some rel =>
    if c.releasing then
      let c := c.modTask t fun k => { k with lateDue := none }
      ((c.set1 (SCN_TSTAT.LATE t)).set1 SCN_STAT.LATE).startScan t rel
    else c
  | none => c

/-- HOUSEKEEP completes: the scan boundary (R142), with its recorder post (R353), and the late start that may follow it. -/
def Chip.housekeepEnd (c : Chip) (t : Fin 32) : Chip :=
  let c := c.toPhase t 0
  let c := c.post (0x020 + t.val) (BitVec.ofNat 32 (min (c.t - ((c.task t).lastRel.getD 0).toNat) 0xFFFFFFFF))
  c.lateStart t

/-- HOUSEKEEP's own work for the scan in phase 5; the activation window of a task package may follow it (R201). -/
def Chip.housekeepWork (c : Chip) (t : Fin 32) : Chip :=
  let k := c.task t
  let c := match k.ended with
    | .none => c.publishScan t
    | _ => c.abandonedScan t k.frozenB k.frozenW
  let c := ((c.hashCheck t).boundary t).modImg fun m => { m with queue := m.queue.filter (· != (t, 5)) }
  if c.scanning then c.actPoint t else c

/-! ### Events and error tasks -/

/-- The separation since the previous release has passed (R132). -/
def Chip.apart (c : Chip) (t : Fin 32) : Bool :=
  match (c.task t).lastRel with
  | none => true
  | some r => r.toNat + 1000 * c.get (SCN_TPERIOD.PERIOD t) ≤ c.t

/-- A firing of an event task's source: the task is released, or the firing is remembered once, or EVOVF sets (R132, R133). -/
def Chip.eventFires (c : Chip) (t : Fin 32) : Chip :=
  let k := c.task t
  if k.live || k.delayed || k.fired || c.phase t ≠ 0 || c.sys.startup.isSome || c.olc.hold || c.migrating t || c.hsb.resync.any (·.joining.isSome) then
    if k.fired then (c.set1 (SCN_TSTAT.EVOVF t)).set1 SCN_STAT.EVOVF
    else
      let c := c.modTask t fun k => { k with fired := true }
      if k.live || c.phase t ≠ 0 then c else c.put (SCN_TSTAT.PHASE t) 6
  else if c.apart t then c.beginActivation t c.tb 0 0 0 0
  else (c.modTask t fun k => { k with delayed := true }).put (SCN_TSTAT.PHASE t) 6

/-- EVENT_SOURCE_FIRE (R132, R133): the scan scheduler takes up a firing that the task's source has made. In FOLLOW the unit's own sources
release nothing (R249). -/
def execEventSourceFire (t : Fin 32) (now : Time) (s : State) : Host.Outcome State Fault Refusal := s.on fun c =>
  let c := c.arrive now
  if (c.task t).hits = 0 || c.mode != mRUN || c.flushing || c.kind t != kEVT || c.flag SYS_MODE.TRANS then c
  else (c.modTask t fun k => { k with hits := k.hits - 1 }).eventFires t

/-- EVENT_RELEASE (R132, R133); on the standby, of a TOKEN that waits for the end of the previous activation (R249). -/
def execEventRelease (t : Fin 32) (now : Time) (s : State) : Host.Outcome State Fault Refusal := s.on fun c =>
  let c := c.arrive now
  let k := c.task t
  if c.mode == mFOLLOW then c.doIf (c.kind t == kEVT) (·.followStart t)
  else if !c.releasing || c.kind t != kEVT || c.phase t ≠ 6 || k.live || c.migrating t || !c.apart t || c.hsb.resync.any (·.joining.isSome) then c
  else (c.modTask t fun k => if k.delayed then { k with delayed := false } else { k with fired := false }).beginActivation t c.tb 0 0 0 0

/-- The queued requests of an error task: ERR_IO takes them from the rings, ring A first (R237, R289). -/
def Chip.errHead (c : Chip) (sub : Nat) : Option (ErrReq × Chip) :=
  match sub with
  | 1 => match c.flt.execQ with
    | q :: l => some (q, (c.modFlt fun f => { f with execQ := l }).eqCounts)
    | [] => none
  | 2 => match c.flt.commQ with
    | q :: l => some (q, (c.modFlt fun f => { f with commQ := l }).eqCounts)
    | [] => none
  | 3 => match c.flt.sysQ with
    | q :: l => some (q, (c.modFlt fun f => { f with sysQ := l }).eqCounts)
    | [] => none
  | _ => match (List.finRange 4).find? fun r => !(c.ring r).ioq.isEmpty with
    | some r => match (c.ring r).ioq with
      | q :: l => some (q, c.modRing r fun g => { g with ioq := l })
      | [] => none
    | none => none

/-- ERROR_TASK_RELEASE (R284, R289): the head of its queue is released when the error task is idle; on the standby, a TOKEN that waits
(R249). -/
def execErrorTaskRelease (t : Fin 32) (now : Time) (s : State) : Host.Outcome State Fault Refusal := s.on fun c =>
  let c := c.arrive now
  if c.mode == mFOLLOW then c.doIf (c.kind t == kERR) (·.followStart t)
  else if !c.releasing || c.kind t != kERR || (c.task t).live || c.migrating t then c
  else match c.errHead (c.get (SCN_TCFG.SUB t)) with
    | none => c
    | some (q, c) => (c.modTask t fun k => { k with serves := some q }).beginActivation t c.tb q.acc q.ach q.ix q.iy

/-- The running task leaves its engine for a switch: a block repeat gives up its request or admission, and a further issue pays its setup steps
again, which belong to the switch (R119, R126). -/
def Chip.preempted (c : Chip) (e : Fin 16) (t : Fin 32) : Chip :=
  let c := if (c.task t).waiting || (c.task t).admitted then c.turnEnd 4 (.le e) else c
  c.modTask t fun k => { k with waiting := false, admitted := false, inBlock := false, resumed := k.resumed || k.inBlock }

/-- TASK_SWITCH (R76, R78, R119, R125): a ready task that outranks the running one takes the engine; a waiting block repeat withdraws
its request. -/
def execTaskSwitch (e : Fin 16) (now : Time) (s : State) : Host.Outcome State Fault Refusal := s.on fun c =>
  let c := c.arrive now
  let g := c.eng e
  if g.halted || g.mismatch.isSome || g.remap.isSome then c
  else match g.run with
    | none => c.dispatch e
    | some r =>
      match firstBy c.before ((c.ready e).filter fun t => c.outranks t r) with
      | none => c
      | some t =>
        (c.preempted e r).giveEngine e t

/-! ### Pacemeter and slack -/

/-- SCN_PACECFG as it governs the window that ends now: a write takes effect at the next window. -/
def Chip.paceCfg (c : Chip) : Word :=
  if c.t < c.sys.paceAt.toNat + 64000 && c.sys.paceAt != 0 then c.sys.paceOld else c.rd SCN_PACECFG.reg

/-- PACE_WINDOW_END (R151 to R153): the step rate of the window. Windows end where TB is a multiple of 64 µs (DESIGN CHOICE, log entry 90: R151
gives their length and not where they lie). -/
def execPaceWindowEnd (e : Fin 16) (rate : Nat) (now : Time) (s : State) : Host.Outcome State Fault Refusal := s.on fun c =>
  let c := c.arrive now
  if (c.physOf e).isNone || now.toNat % 64000 ≠ 0 || (c.eng e).paceEnd == now then c
  else
    let g := c.eng e
    let cfg := c.paceCfg
    let thr := SCN_PACECFG.THR.of cfg
    let below := if rate < thr then min (g.below + 1) 2 else 0
    let above := if thr + SCN_PACECFG.HYST.of cfg ≤ rate then min (g.above + 1) 4 else 0
    let low := if rate < 800 then min (g.low + 1) 2 else 0
    let notLow := if 800 ≤ rate then min (g.notLow + 1) 4 else 0
    let r := min rate 4095
    let c := c.put (SCN_LEPACE.RATE e) r
    let c := if g.freshPace || r < c.get (SCN_LEPACE.MINRATE e) then c.put (SCN_LEPACE.MINRATE e) r else c
    let c := c.modEng e fun g => { g with below, above, low, notLow, freshPace := false, paceEnd := now }
    let c := if below = 2 && !c.flag (SCN_LEPACE.WARN e) then (c.set1 (SCN_LEPACE.WARN e)).set1 SCN_STAT.PW
      else if above = 4 then c.clr (SCN_LEPACE.WARN e) else c
    let c := c.post (0x060 + e.val) (BitVec.ofNat 32 r)
    if low = 2 && !c.flag (SCN_LEPACE.LOW e) then
      ((c.set1 (SCN_LEPACE.LOW e)).set1 SCN_STAT.LOWRATE).degradeSys 0x08 e.val 0x43
    else if notLow = 4 then c.clr (SCN_LEPACE.LOW e) else c

end Sys2Proof.Machine
end

