-- ==== Sys2Proof/Machine/Shadow.lean ====
section
/-! DEFINITION. Engine retirement and the mapping of spares (R26, R27, R180, R181), verdicts after a mismatch (R176 to R179), and the
switching of a task's mode (R185 to R190). -/

namespace Sys2Proof.Machine

/-! ### Spares and retirement -/

/-- The spares held, in order (SYS_SPARE). -/
def Chip.spares (c : Chip) : List (Fin 18) :=
  (if c.flag SYS_SPARE.VALID0 then [Fin.ofNat 18 (c.get SYS_SPARE.SPARE0)] else []) ++
    (if c.flag SYS_SPARE.VALID1 then [Fin.ofNat 18 (c.get SYS_SPARE.SPARE1)] else [])

/-- SYS_SPARE shows the spares held; SPDONE goes with each spare (FLT_ROTSP). -/
def Chip.setSpares (c : Chip) (l : List (Fin 18)) : Chip :=
  let old := c.spares
  let done (p : Option (Fin 18)) : Bool := match p with
    | some p => (old[0]? == some p && c.bitOf FLT_ROTSP.SPDONE 0) || (old[1]? == some p && c.bitOf FLT_ROTSP.SPDONE 1)
    | none => false
  let c := c.put FLT_ROTSP.SPDONE ((done l[0]?).toNat + 2 * (done l[1]?).toNat)
  let put (c : Chip) (v s : Fld) (p : Option (Fin 18)) : Chip :=
    match p with
    | some p => (c.set1 v).put s p.val
    | none => (c.clr v).clr s
  put (put c SYS_SPARE.VALID0 SYS_SPARE.SPARE0 l[0]?) SYS_SPARE.VALID1 SYS_SPARE.SPARE1 l[1]?

/-- The first spare that is held and not being mapped in. -/
def Chip.freeSpare (c : Chip) : Option (Fin 18) := c.spares.find? fun p => !c.engs.toList.any (·.remap == some p)

/-- A defect-map entry (Table 10.9); WHEN is the FLT_LOGSEQ value of the fault that caused it. -/
def Chip.mapEntry (c : Chip) (kind unit array row : Nat) (spr : Bool) (seq : Nat) : Chip :=
  let v := kind + 2 ^ 8 * unit + 2 ^ 16 * array + 2 ^ 26 * row + 2 ^ 31 * spr.toNat + 2 ^ 32 * seq
  if 1024 ≤ c.flt.field.length + c.flt.pendMap.length then
    let said := c.flt.dmFullRaised
    let c := (c.set1 FLT_STAT.DMFULL).modFlt fun f => { f with dmFullRaised := true }
    if said then c else c.degradeSys 0x0F 0 0x4A
  else (c.modFlt fun f => { f with pendMap := f.pendMap ++ [BitVec.ofNat 64 v] }).turnAsk 0 .store

/-- The journal entries of scans that have ended EXECUTE and wait for COMPARE: their activations have left the engine, and what they have to
commit goes with the logical engine (DEDUCED, log entry 111). -/
def Chip.jrnWaiting (c : Chip) (p : Fin 18) : List JEntry := (c.ph p).journal.filter fun j => c.kind j.task == kCYC && c.phase j.task == 3

/-- A logical engine changes its physical engine in one handshake (R27): the old one retires. -/
def Chip.remapTo (c : Chip) (e : Fin 16) (p : Option (Fin 18)) : Chip :=
  let (l, c) : List JEntry × Chip := match c.physOf e with
    | some o => (c.jrnWaiting o, (c.setBit SYS_RETIRED.RET o).modPh o fun _ => ⟨[], [], []⟩)
    | none => ([], c)
  let c := match p with
    | some q => (((c.set1 (SYS_LEMAP.VALID e)).put (SYS_LEMAP.PHYS e) q.val).setSpares (c.spares.filter (· != q))).modPh q fun _ => ⟨[], [], l⟩
    | none => (((c.clr (SYS_LEMAP.VALID e)).clr (SYS_LEMAP.PHYS e)).wr (SCN_LEPACE.reg e) 0).wr (SCN_LESLACK.reg e) 0
  (((c.incWrap SYS_MAPSEQ.SEQ).wr (SHD_LEJRN.reg e) 0).modEng e fun g => { g with remap := none, run := none }).jrnCount e

/-- The activations of a logical engine whose physical engine is retired (R180): PAIRED ones wait for the spare, the others are
abandoned with 0x11. Their faults come in the order of R290, so those that escalate to UNIT first; the others of the same handshake are raised also
when one of these has led to SAFE-HOLD. -/
def Chip.retireTasks (c : Chip) (e : Fin 16) : Chip :=
  let l := (List.finRange 32).filter fun t => c.leOf t == e && (c.task t).live
  let out := l.filter fun t => !(c.task t).paired
  let c := c.forIn (l.filter fun t => (c.task t).paired) fun t c => (((c.jrnDrop t).unwind t).blockEnd e t).modTask t fun k => { k with reexec := true }
  c.forIn (out.filter (c.kind · == kERR) ++ out.filter (c.kind · != kERR)) fun t c =>
    if c.scanning then c.abandon t .mismatch 0x11 0 0 else (c.abandonBits t .mismatch 0x11).taskFault t 0x11 0 0

/-- The engine of `e` fails a test (R176, R296): with a spare its mapping begins, and the TASK faults of the activations that do not wait for it
come before the engine's own DEGRADE fault (R290); without one the logical engine is unmapped and the fault is UNIT (R181). A verdict of an
error activation escalates (R287). The answer tells whether a spare is held. -/
def Chip.retireEngine (c : Chip) (e : Fin 16) (cause : Nat) (act : Option (Fin 32)) : Bool × Chip :=
  match c.physOf e with
  | none => (false, c)
  | some p =>
    let c := c.turnEnd 2 (.le e)
    let a := (engineAgent p).toNat
    match c.freeSpare with
    | some q =>
      let c := c.modEng e fun g => { g with remap := some q, run := none, mismatch := none, segs := none }
      let c := (c.turnAsk 6 (.spare q)).retireTasks e
      let seq := c.faultWhen 1 0x02 p.val cause
      let rf : ReqFor := if cause = 0 then .none else .sys
      let c := match act with
        | some t => c.actFault t .mismatch 1 0x02 p.val cause a rf
        | none => c.fault 1 0x02 p.val cause a rf
      (true, c.mapEntry 1 p.val 0 0 false seq)
    | none =>
      let seq := c.faultWhen 3 0x02 p.val cause
      let c := (c.modEng e fun g => { g with mismatch := none, segs := none }).fault 3 0x02 p.val cause a .none act
      (false, (c.mapEntry 1 p.val 0 0 false seq).remapTo e none)

/-! ### Verdicts -/

/-- The verdict enters the mismatch record, if that record is the one of this activation. -/
def Chip.setVerdict (c : Chip) (e : Fin 16) (t : Fin 32) (v : Nat) : Chip :=
  if c.flag SHD_MMINFO.VALID && c.get SHD_MMINFO.LE = e && c.get SHD_MMINFO.TASK = t && c.get SHD_MMINFO.VERDICT = 0 then
    c.put SHD_MMINFO.VERDICT v
  else c

/-- The admission test of a re-execution (R178); V is now. -/
def Chip.admitted (c : Chip) (t : Fin 32) : Bool :=
  if c.kind t != kCYC then true
  else match c.nextRelease t (c.t + 1) with
    | none => true
    | some r => 1000 * c.t + 2 * c.get (SCN_TBUD.TBUD t) * 1250 + 1000000 * c.get (SHD_TCFG.RSV t) ≤ 1000 * r

/-- An activation is made ready from its start with the ledger entries it holds (R157, R176). -/
def Chip.rerun (c : Chip) (t : Fin 32) : Chip :=
  let (a, b, x, y) : Word × Word × Word × Word := match (c.task t).serves with
    | some q => (q.acc, q.ach, q.ix, q.iy)
    | none => (0, 0, 0, 0)
  (c.loadCtx t a b x y).incSat (SHD_TSTAT.REEX t)

/-- An activation starts again (R176). -/
def Chip.reexecute (c : Chip) (t : Fin 32) : Chip := (c.rerun t).dispatch (c.leOf t)

/-- MISMATCH_VERDICT (R176 to R181): the 60 µs self-test of an engine ends, and passes or fails. It counts as the rotation test (R293). -/
def execMismatchVerdict (e : Fin 16) (pass : Bool) (now : Time) (s : State) : Host.Outcome State Fault Refusal := s.on fun c =>
  let c := c.arrive now
  let g := c.eng e
  match g.mismatch, c.physOf e with
  | some t, some p =>
    let gone := g.mmGone.isSome
    let n := g.mmGone.getD (c.task t).mm
    let c := c.setBit FLT_ROTLE.DONE e
    if pass then
      let c := c.modEng e fun g => { g with mismatch := none, mmGone := none, segs := none }
      let c := c.turnEnd 2 (.le e)
      if n ≤ 1 && (gone || c.admitted t) then
        let c := ((c.setVerdict e t 1).incSat SHD_CNT.TRANSCNT).fault 0 0x01 (t.val + 2 ^ 8 * e.val) 0 (engineAgent p).toNat .none (some t)
        if gone then c.dispatch e else if (c.task t).live && c.scanning then c.reexecute t else c
      else
        let c := c.setVerdict e t (if n ≤ 1 then 3 else 4)
        if gone then c.dispatch e else c.abandon t .mismatch 0x11 0 0
    else
      let c := c.incSat SHD_CNT.RETCNT
      let held := c.freeSpare.isSome
      let c := if held then (c.set1 SHD_STAT.RETIRE).doIf gone (·.setVerdict e t 2) else (c.set1 SHD_STAT.NOSPARE).setVerdict e t 5
      ((c.modEng e fun g => { g with mmGone := none }).retireEngine e 0 (if gone then none else some t)).2
  | _, _ => c

/-- A mismatch of the engine whose activation has ended before its verdict takes the verdict of the self-test's result (R179). -/
def Chip.lateVerdict (c : Chip) (e : Fin 16) (v : Nat) : Chip := c.setVerdict e (Fin.ofNat 32 (c.get SHD_MMINFO.TASK)) v

/-- SPARE_MAPPING_COMPLETE (R27, R177, R178, R180): after its grant the spare is mapped in, and the re-executions are admitted or their
activations abandoned, the former all ready before the engine takes up one of them. A spare that has failed its own test meanwhile gives way to the
next, or to R181. -/
def execSpareMappingComplete (e : Fin 16) (now : Time) (s : State) : Host.Outcome State Fault Refusal := s.on fun c =>
  let c := c.arrive now
  match (c.eng e).remap with
  | none => c
  | some q =>
    if !c.turnHas 6 (.spare q) then c
    else
      let c := c.turnEnd 6 (.spare q)
      let c := c.modEng e fun g => { g with remap := none }
      let use := if c.spares.contains q then some q else c.freeSpare
      let old := (c.physOf e).getD 0
      let c := c.remapTo e use
      if use.isNone then (c.lateVerdict e 5).fault 3 0x02 old.val 0 (engineAgent old).toNat
      else
        let l := (List.finRange 32).filter fun t => c.leOf t == e && (c.task t).live && (c.task t).reexec && c.scanning
        let c := c.forIn (l.filter c.admitted) fun t c => (c.setVerdict e t 2).rerun t
        let c := c.forIn (l.filter (!c.admitted ·)) fun t c => if c.scanning then (c.setVerdict e t 3).abandon t .mismatch 0x11 0 0 else c
        (c.lateVerdict e 2).dispatch e

/-! ### Switching a task at run time -/

/-- A write to SHD_TMODE (R185, R255). An ignored write completes, and the guard records it. -/
def Chip.tmodeWrite (c : Chip) (t : Fin 32) (w : Cmd) : Chip :=
  c.allow (isMc w.agent || isHost w.agent) w.agent (SHD_TMODE.reg t) fun c =>
    if c.flag SHD_LOCK.MODELK || c.mode == mFOLLOW || (w.value.getLsbD 0 && !c.flag (SHD_TCFG.PAIROK t)) then
      (c.refuse w.agent true (SHD_TMODE.reg t)).answer []
    else c.stageMode t w.value

/-- SHD_TMODE_WRITE (R185). -/
def execShdTmodeWrite (t : Fin 32) (w : Cmd) (s : State) : Host.Outcome State Fault Refusal := s.on fun c => (c.arrive w.now).tmodeWrite t w

/-- The bytes of a task's protected storage, data, stack and bits, each with its place in the shadow half (R160, R162). -/
def Chip.pairs (c : Chip) (t : Fin 32) : List (Nat × Nat) :=
  let range (a n off : Nat) : List (Nat × Nat) := (List.range n).map fun i => (a + i, a + i + off)
  let lo := c.get (SCN_TSTKLO.FLOOR t)
  range (c.get (SHD_TPDBASE.BASE t)) (c.get (SHD_TPDLEN.LEN t)) 0x300000 ++ range lo (c.get (SCN_TSTKHI.TOP t) - lo) 0x300000 ++
    range (0x28000000 + c.get (SHD_TPBBASE.BASE t) / 8) (c.get (SHD_TPBLEN.LEN t) / 8) 0xC0000

/-- The complements of bytes are copied; each word is written whole (R187, R303). -/
def Chip.copyPairs (c : Chip) (l : List (Nat × Nat)) : Chip :=
  c.forIn l fun q c => (c.stB q.2 (~~~(c.ldB q.1))).clean (q.2 / 8 * 8) 8

/-- Both halves of a task's protected storage agree again (R186, R189). -/
def Chip.pairStorage (c : Chip) (t : Fin 32) : Chip := c.copyPairs (c.pairs t)

/-- The next portion of a warm-up copy, at most 4 KiB (R186). -/
def Chip.warmPortion (c : Chip) (t : Fin 32) : Chip :=
  let n := (c.task t).warmLeft.getD 0
  let l := c.pairs t
  (c.copyPairs ((l.drop (l.length - n)).take 4096)).modTask t fun k => { k with warmLeft := some (n - 4096) }

/-- A portion of a warm-up copy is admitted: it is copied, and the next one asks for its own admission. The last one holds its slot until the copy
completes (R186). -/
def Chip.warmGranted (c : Chip) : Chip :=
  match c.warming with
  | some t => if 4096 < (c.task t).warmLeft.getD 0 then ((c.warmPortion t).turnEnd 4 .shadow).turnAsk 4 .shadow else c
  | none => c

/-- WARMUP_COPY_COMPLETE (R186, R187): the last portion. -/
def execWarmupCopyComplete (t : Fin 32) (now : Time) (s : State) : Host.Outcome State Fault Refusal := s.on fun c =>
  let c := c.arrive now
  if c.warming != some t || 4096 < (c.task t).warmLeft.getD 0 || !c.turnHas 4 .shadow then c
  else (c.warmPortion t).warmLeave

end Sys2Proof.Machine
end

