-- ==== Sys2Proof/Machine/UpdCore.lean ====
section
/-! DEFINITION. What the rings, the mimic engine and the core tests need of the update engine (R466 to R468): the end of a switch, and the
restart of a core in its firmware area. -/

namespace Sys2Proof.Machine

/-- Change the update engine. -/
def Chip.modUpd (c : Chip) (f : Upd → Upd) : Chip := { c with upd := f c.upd }
/-- A bit of UPD_STAT sets. -/
def Chip.updFlag (c : Chip) (b : Nat) : Chip := c.setBit UPD_STAT.FLAGS b

/-- STATE shows what the engine does: an activation or a revert that is being carried out comes before an armed one, then a WRITE, then the window
(DESIGN CHOICE, log entry 146: the spec does not say which of several shows). -/
def Chip.updShow (c : Chip) : Chip :=
  let u := c.upd
  c.put UPD_STATE.STATE (
    if u.phase ≠ 0 then u.phase
    else if u.armed.isSome then (if u.ready then 3 else 2)
    else if u.job.isSome then 1
    else if u.window.isSome then 5
    else 0)

/-- Change the update engine, with STATE. -/
def Chip.updTo (c : Chip) (f : Upd → Upd) : Chip := (c.modUpd f).updShow

/-- The confirm window begins (R468). -/
def Chip.updWindow (c : Chip) : Chip :=
  c.updTo fun u => { u with phase := 0, window := some (c.tb + BitVec.ofNat 64 (1000000000 * c.get UPD_CWIN.WIN)) }

/-- The last switch of an activation or of a revert has been made (R466, R468, R469). -/
def Chip.updDone (c : Chip) : Chip :=
  if c.upd.phase = 4 then (c.updFlag 3).updWindow
  else if c.upd.phase = 6 then c.updTo fun u => { u with phase := 0 }
  else c

/-- Ring `k`, or with 4 the sync link, turns to the other half of its control store (R466): the sync link has link microcode alone. -/
def Upd.flip (u : Upd) (k : Nat) : Upd :=
  if u.turning = 3 then { u with linkHalf := u.linkHalf ^^^ (1 <<< k) } else { u with seqHalf := u.seqHalf ^^^ (1 <<< k) }

/-- Ring `r` starts a cycle, and switches if it is to (R466). -/
def Chip.updRing (c : Chip) (r : Fin 4) : Chip :=
  if !c.upd.rings.getLsbD r then c
  else
    let c := c.modUpd fun u => { u with rings := u.rings &&& ~~~((1 : BitVec 4) <<< r.val) }.flip r.val
    if c.upd.rings = 0 then c.updDone else c

/-- The state of core `m` in FLT_CORE: 0 running, 1 under test, 2 restarting, 3 retired. -/
def coreFld (m : Fin 2) : Fld := if m = 0 then FLT_CORE.MC0 else FLT_CORE.MC1

/-- The reset of a core (R88): it restarts the management firmware at its entry point in its area (R467). -/
def Chip.coreReset (c : Chip) (m : Fin 2) : Chip :=
  let pc := Config.fwEntry c.upd.areas[m].val
  (c.modCore m fun k => { Core.zero with halted := k.halted, ctx := { Ctx.zero with pc := pc } }).put (coreFld m) 0

/-- A core restarts, unless it is retired: FLT_CORE shows it as restarting until it issues its first instruction (R298, R467). -/
def Chip.coreRestart (c : Chip) (m : Fin 2) : Chip := if c.get (coreFld m) = 3 then c else (c.coreReset m).put (coreFld m) 2

end Sys2Proof.Machine
end

