-- ==== Sys2Proof/Machine/Flt.lean ====
section
/-! DEFINITION. The fault manager's own work (R282 to R298, R304 to R308): faults that other blocks report, idle slack, the self-test
rotation, spare, core and block tests, and the defect map. -/

namespace Sys2Proof.Machine

/-- The error task that a fault reported by a block requests (Table 10.1, Table 3.9): ERR_EXEC for a TASK fault, with the task and engine of the
activation concerned, or of INST where the fault names no activation (DEDUCED, log entry 120). -/
def Chip.faultReq (c : Chip) (f : FaultIn) : ReqFor :=
  let place : Nat := match f.task with
    | some t => 2 ^ 8 * t.val + 2 ^ 16 * (c.leOf t).val
    | none => if f.skind = 1 then 2 ^ 8 * (f.inst % 32) + 2 ^ 16 * (f.inst / 2 ^ 8 % 16) else 0
  let pc : Word := match f.task with
    | some t => if (c.task t).live then (c.task t).ctx.pc else 0
    | none => 0
  if f.cls = 2 then .exec (BitVec.ofNat 32 (f.cause % 256 + place)) (c.tb.setWidth 32) pc 0
  else if f.sys then .sys else .none

/-- FAULT_REPORT (R286): a fault of an activation that is TASK, or escalates to it, abandons the activation (R283, R287). -/
def execFaultReport (f : FaultIn) (now : Time) (s : State) : Host.Outcome State Fault Refusal := s.on fun c =>
  let c := c.arrive now
  match f.task with
  | some t => c.actFault t (.exception f.cause) f.cls f.skind f.inst f.cause f.agent.toNat (c.faultReq f)
  | none => c.fault f.cls f.skind f.inst f.cause f.agent.toNat (c.faultReq f)

/-- SLACK_WINDOW_END (R154, R308): the idle slack, in units of 0.1 %, of the window that ends at a multiple of 100,000,000 ns. -/
def execSlackWindowEnd (e : Fin 16) (slack : Nat) (now : Time) (s : State) : Host.Outcome State Fault Refusal := s.on fun c =>
  let c := c.arrive now
  if (c.physOf e).isNone || now.toNat % 100000000 ≠ 0 || (c.eng e).slackEnd == now then c
  else
    let v := min slack 1000
    let fresh := (c.eng e).freshSlack
    let c := c.put (SCN_LESLACK.LAST e) v
    let c := if fresh || v < c.get (SCN_LESLACK.MIN e) then c.put (SCN_LESLACK.MIN e) v else c
    let c := (c.modEng e fun g => { g with freshSlack := false, slackOk := 50 ≤ v, slackEnd := now }).post (0x070 + e.val) (BitVec.ofNat 32 v)
    if v < 50 then (c.set1 SCN_STAT.SL).degradeSys 0x08 e.val 0x44 else c

/-! ### Self-test rotation -/

/-- ROTATION_WINDOW_START (R293, R294): a test is due on every mapped logical engine, each with one admission. -/
def execRotationWindowStart (now : Time) (s : State) : Host.Outcome State Fault Refusal := s.on fun c =>
  let c := ((c.arrive now).put FLT_ROTLE.DONE 0).put FLT_ROTLE.FORCED 0
  let on := c.flag FLT_CTL.ROTEN
  let c := c.modFlt fun f => { f with rotOn := on }
  c.forFin 16 fun e c =>
    let c := (c.turnEnd 2 (.le e)).modEng e fun g => { g with segs := none }
    if on && (c.physOf e).isSome then (c.modEng e fun g => { g with segs := some 0 }).turnAsk 2 (.le e) else c

/-- A rotation test ends (R294 to R296); the faults of a failed one come before the NOTE of its forcing (R290). -/
def Chip.rotationEnd (c : Chip) (e : Fin 16) (pass : Bool) : Chip :=
  let c := ((c.turnEnd 2 (.le e)).modEng e fun g => { g with segs := none }).setBit FLT_ROTLE.DONE e
  let c := if pass then c else ((c.set1 FLT_STAT.ROTFAIL).retireEngine e 0x40 none).2
  if c.bitOf FLT_ROTLE.FORCED e then c.fault 0 0x08 e.val 0x42 else c

/-- ROTATION_SEGMENT_COMPLETE (R294, R295): a segment runs while the engine issues for no task, or is forced at a boundary, where it
pre-empts as a switch. `pass` is the result of the test, taken at its last segment. -/
def execRotationSegmentComplete (e : Fin 16) (pass : Bool) (now : Time) (s : State) : Host.Outcome State Fault Refusal := s.on fun c =>
  let c := c.arrive now
  let g := c.eng e
  match g.segs with
  | none => c
  | some n =>
    if !c.turnHas 2 (.le e) || g.mismatch.isSome || g.remap.isSome || (g.run.isSome && !c.bitOf FLT_ROTLE.FORCED e) then c
    else
      let c := match g.run with
        | some t => c.preempted e t
        | none => c
      if n < 59 then c.modEng e fun g => { g with segs := some (n + 1) } else c.rotationEnd e pass

/-- ROTATION_FORCE_DEADLINE (R295): the remaining segments of every unfinished test are forced. -/
def execRotationForceDeadline (now : Time) (s : State) : Host.Outcome State Fault Refusal := s.on fun c =>
  (c.arrive now).forFin 16 fun e c =>
    if (c.eng e).segs.isSome then (c.setBit FLT_ROTLE.FORCED e).set1 FLT_STAT.ROTFORCE else c

/-- SPARE_TEST_START (R293, R296). -/
def execSpareTestStart (now : Time) (s : State) : Host.Outcome State Fault Refusal := s.on fun c =>
  let c := (c.arrive now).put FLT_ROTSP.SPDONE 0
  let on := c.flag FLT_CTL.ROTEN
  let c := c.modFlt fun f => { f with spareOn := on }
  if on then c.forIn c.spares fun p c => c.turnAsk 2 (.spare p) else c

/-- SPARE_TEST_COMPLETE (R296): a failing spare is retired. -/
def execSpareTestComplete (p : Fin 18) (pass : Bool) (now : Time) (s : State) : Host.Outcome State Fault Refusal := s.on fun c =>
  let c := c.arrive now
  if !c.turnHas 2 (.spare p) then c
  else
    let c := c.turnEnd 2 (.spare p)
    if !c.spares.contains p then c
    else if pass then c.setBit FLT_ROTSP.SPDONE (if c.spares[0]? == some p then 0 else 1)
    else
      let c := (((c.setBit SYS_RETIRED.RET p).setSpares (c.spares.filter (· != p))).incWrap SYS_MAPSEQ.SEQ).set1 FLT_STAT.SPAREFAIL
      (c.fault 1 0x02 p.val 0x41 (engineAgent p).toNat .sys).mapEntry 1 p.val 0 0 false (c.faultWhen 1 0x02 p.val 0x41)

/-! ### Core tests and block checks -/

/-- A core is halted for a test. -/
def Chip.coreTest (c : Chip) (m : Fin 2) : Chip := (c.put (coreFld m) 1).turnAsk 2 (.core m)

/-- A core stops issuing (R91): the fault manager tests it once more (R298). -/
def Chip.coreStop (c : Chip) (m : Fin 2) : Chip := (c.modCore m fun k => { k with stopped := true, retest := true }).coreTest m

/-- CORE_TEST_START (R297): a running core is halted for the test. -/
def execCoreTestStart (m : Fin 2) (now : Time) (s : State) : Host.Outcome State Fault Refusal := s.on fun c =>
  let c := c.arrive now
  if c.get (coreFld m) = 0 || c.get (coreFld m) = 2 then c.coreTest m else c

/-- CORE_TEST_COMPLETE (R298). -/
def execCoreTestComplete (m : Fin 2) (pass : Bool) (now : Time) (s : State) : Host.Outcome State Fault Refusal := s.on fun c =>
  let c := c.arrive now
  if c.get (coreFld m) ≠ 1 || !c.turnHas 2 (.core m) then c
  else
    let c := c.turnEnd 2 (.core m)
    if !(c.core m).retest then
      if pass then c.put (coreFld m) 0 else (c.modCore m fun k => { k with retest := true }).coreTest m
    else if pass then
      (((c.coreRestart m).incSat FLT_CORE.RSTCNT).set1 FLT_STAT.CORERST).degradeSys 0x06 m.val 0x47
    else
      let c := ((c.put (coreFld m) 3).set1 FLT_STAT.CORERET).modCore m fun k => { k with stopped := true, retest := false }
      if c.get (coreFld (1 - m)) = 3 then (c.fault 3 0x06 m.val 0x48).mapEntry 2 m.val 0 0 false (c.faultWhen 3 0x06 m.val 0x48)
      else (c.degradeSys 0x06 m.val 0x48).mapEntry 2 m.val 0 0 false (c.faultWhen 1 0x06 m.val 0x48)

/-- BLOCK_CHECK_START (R297). -/
def execBlockCheckStart (b : AgentId) (now : Time) (s : State) : Host.Outcome State Fault Refusal := s.on fun c =>
  (c.arrive now).modFlt fun f => if f.checks.contains b.toNat then f else { f with checks := f.checks ++ [b.toNat] }

/-- BLOCK_CHECK_COMPLETE (R297): a block that fails is a DEGRADE fault. -/
def execBlockCheckComplete (b : AgentId) (pass : Bool) (now : Time) (s : State) : Host.Outcome State Fault Refusal := s.on fun c =>
  let c := c.arrive now
  if !c.flt.checks.contains b.toNat then c
  else
    let c := c.modFlt fun f => { f with checks := f.checks.filter (· != b.toNat) }
    if pass then c
    else
      let c := if 0x50 ≤ b.toNat && b.toNat ≤ 0x53 then c.canCheckFail (Fin.ofNat 4 b.toNat) else c
      let c := if b.toNat = 0x58 then c.setBit MIM_STAT.FLAGS 8 else c
      c.fault 1 0x07 b.toNat 0x49 b.toNat .sys

/-! ### The defect map -/

/-- The lowest field entry that is free. -/
def Chip.mapFree (c : Chip) : Option Nat := (List.range 1024).find? fun k => !c.flt.field.any (·.1 == k)

/-- FLT_PROMISE as it reads (R308): each bit follows its condition from the first entry to STOP on. -/
def Chip.promise (c : Chip) : Word :=
  if !c.flt.live then 0
  else
    let rot := c.flag FLT_CTL.ROTEN
    let scr := c.flag FLT_CTL.SCREN
    let slack := (List.finRange 16).all fun e => (c.physOf e).isNone || (c.eng e).slackOk
    let paired := c.configured.all fun t => !c.flag (SHD_TCFG.PAIROK t) || c.flag (SHD_TSTAT.CUR t)
    let env := c.flag PWR_FEED.ENV
    let all := rot && scr && slack && paired && env
    BitVec.ofNat 32 (rot.toNat + 2 * scr.toNat + 4 * slack.toNat + 8 * paired.toNat + 16 * env.toNat + 32 * all.toNat)

end Sys2Proof.Machine
end

