-- ==== Sys2Proof/Machine/Mim.lean ====
section
/-! DEFINITION. The Sideshow mimic display (R417 to R436): the tile and overlay layers, overdrive and DC balance row by row, temperature
bands and the crack loop. The model keeps what a frame leaves behind; the words on the panel link follow from it. -/

namespace Sys2Proof.Machine

/-- Change the mimic engine. -/
def Chip.modMim (c : Chip) (f : Mim → Mim) : Chip := { c with mim := f c.mim }
/-- A bit of MIM_STAT sets. -/
def Chip.mimFlag (c : Chip) (b : Nat) : Chip := c.setBit MIM_STAT.FLAGS b
/-- Who may write the MIM block. -/
def mimWriter (a : AgentId) : Bool := isMc a || isHost a

/-- The engine refreshes the panel (R417). -/
def Chip.mimRun (c : Chip) : Bool :=
  c.flag MIM_CTL.EN && (c.mode == mSTOP || c.mode == mRUN || c.mode == mFOLLOW || c.mode == mSAFE)

/-! ### Panel timing -/

/-- DW, PW and HTOTAL (R418). -/
def Chip.mimDW (c : Chip) : Nat := 3 * c.get MIM_TIM0.HACT / 8
/-- Words of a line period. -/
def Chip.mimHtotal (c : Chip) : Nat := 1 + (3 * c.get MIM_TIM0.HACT + 511) / 512 + c.mimDW + c.get MIM_TIM1.HBLK
/-- A line period in nanoseconds. -/
def Chip.mimLineNs (c : Chip) : Nat := 20 * c.get MIM_TIM1.BDIV * c.mimHtotal
/-- The vertical blank in nanoseconds. -/
def Chip.mimBlankNs (c : Chip) : Nat := (c.get MIM_TIM1.VTOTAL - c.get MIM_TIM0.VACT) * c.mimLineNs

/-- Threshold T`k` in units of 1/256 °C, for `k` from 1 to 7. -/
def Chip.mimThr (c : Chip) (k : Nat) : Int :=
  let w := if k ≤ 4 then c.rd MIM_THR0.reg else c.rd MIM_THR1.reg
  256 * (w.extractLsb' (8 * ((k - 1) % 4)) 8).toInt

/-- The first rule of R420 that the settings break. -/
def Chip.mimCfgErr (c : Chip) : Nat :=
  let h := c.get MIM_TIM0.HACT
  let v := c.get MIM_TIM0.VACT
  let b := c.get MIM_TIM1.BDIV
  let n := 8 * b * c.mimHtotal * c.get MIM_TIM1.VTOTAL
  if h % 8 ≠ 0 || h < 8 || 1280 < h then 1
  else if v = 0 || 800 < v then 2
  else if b = 0 || 16 < b || 400000000 < 50 * n || 75 * n < 400000000 then 3
  else if c.mimBlankNs < 250000 then 4
  else if (List.range 6).any fun k => c.mimThr (k + 2) ≤ c.mimThr (k + 1) then 5
  else 0

/-! ### Row driving -/

/-- The line period of the frame and the word in it that the panel link sends now, from the start of line period 0 (R418); none while the engine
does not refresh the panel, and until the next frame starts (R417). -/
def Chip.mimPos (c : Chip) : Option (Nat × Nat) :=
  let h := c.mimHtotal
  let ns := max 1 (20 * c.get MIM_TIM1.BDIV)
  let n := c.get MIM_TIM1.VTOTAL * h
  match c.mim.frameAt with
  | none => none
  | some f =>
    if !c.mimRun then none
    else if f ≤ c.t then
      let w := (c.t - f) / ns
      if w < n then some (w / h, w % h) else none
    else
      let back := (f - c.t + ns - 1) / ns
      if back ≤ n then some ((n - back) / h, (n - back) % h) else none

/-- ROW_CLK at word `x` of line period `l`: it rises at the start of line periods 1 to VACT, and falls half a line period later (R419). -/
def Chip.rowClk (c : Chip) (l x : Nat) : Bool := 1 ≤ l && l ≤ c.get MIM_TIM0.VACT && x < c.mimHtotal / 2

/-- ROW_START: high across the rise at line period 1, and low across the others; how far it reaches on either side is a free value (R419, log
entry 122). -/
def Chip.rowStart (c : Chip) (l x : Nat) : Bool :=
  if l = 1 && x = 0 then true else if 2 ≤ l && l ≤ c.get MIM_TIM0.VACT && x = 0 then false else Config.rowStart l x

/-- The engine sends level 0 while a crack blanks it (R434). -/
def Chip.mimBlanked (c : Chip) : Bool := c.flag MIM_CTL.CRKACT && c.bitOf MIM_STAT.FLAGS 5

/-- ROW_OE: low throughout line period 0 and from line period VACT + 1 on, for OEG words before and after each rise of ROW_CLK (R419), and while a
crack blanks the panel, from the next line period on (R434). -/
def Chip.rowOe (c : Chip) (l x : Nat) : Bool :=
  let g := c.get MIM_TIM1.OEG
  let v := c.get MIM_TIM0.VACT
  1 ≤ l && l ≤ v && g ≤ x && (l == v || x + g < c.mimHtotal) && !(c.mimBlanked && c.mim.rows ≤ l)

/-- The row pins now (R417, R419); low while no frame runs (DESIGN CHOICE, log entry 122, but for ROW_OE and, in LOAD, Table 21.6). -/
def Chip.rowPins (c : Chip) : RowPins :=
  match c.mimPos with
  | none => ⟨false, false, false⟩
  | some (l, x) => ⟨c.rowClk l x, c.rowStart l x, c.rowOe l x⟩

/-! ### The tile layer -/

/-- A byte of the mimic tables in this frame, or in the one before: an exchange at the boundary between them has left the old tables in staging
(R429, R466). -/
def Chip.mimB (c : Chip) (before : Bool) (a : Nat) : Byte :=
  if before && c.mim.swapped then c.upd.tables.getD (a - 0x3B000000) 0 else c.ldB a
/-- A word of them. -/
def Chip.mimW (c : Chip) (before : Bool) (a : Nat) : Nat :=
  ((List.range 4).map fun i => (c.mimB before (a + i)).toNat * 2 ^ (8 * i)).sum

/-- A published bit, by its bit address, as agent 0x58 reads it: a read that the guard refuses gives 0 (R24, R471). -/
def Chip.pubBit (c : Chip) (b : Nat) : Bool × Chip :=
  let a := 0x2C000000 + b / 8
  if c.admits 0x58 false a 1 then ((c.ldB a).getLsbD (b % 8), c) else (false, c.refusePart 0x58 false a 1)

/-- The station of a bit has its STN_DROP bit set. -/
def Chip.bitDropped (c : Chip) (b : Nat) : Bool :=
  let k := b % 0x10000 / 512
  c.bitOf (STN_DROP.DROP (k / 32)) (k % 32)

/-- The appearance index of tile `t` (R424); a tile that is not valid is not sampled. -/
def Chip.mimSample (c : Chip) (t : Nat) : Nat × Chip :=
  let w (i : Nat) : Nat := c.mimW false (0x3B000000 + 16 * t + 4 * i)
  let nb := min 4 (w 1 / 2 ^ 25 % 8)
  let bits := (List.range nb).map fun k => w k % 2 ^ 17
  if w 1 / 2 ^ 31 % 2 = 0 then (0, c)
  else if w 1 / 2 ^ 28 % 2 = 1 && bits.any c.bitDropped then (15, c)
  else bits.zipIdx.foldl (fun (r : Nat × Chip) e => let (b, c) := r.2.pubBit e.1; (r.1 + b.toNat * 2 ^ e.2, c)) (0, c)

/-- Every tile is sampled, and the blink phase is taken (R421, R424, R425). -/
def Chip.mimTiles (c : Chip) : Chip :=
  let (l, c) := (List.range 512).foldl (fun (r : List Nat × Chip) t => let (v, c) := r.2.mimSample t; (r.1 ++ [v], c)) ([], c)
  c.modMim fun m => { m with prev := m.shown, prevDark := m.dark, shown := l, dark := 500000000 ≤ c.t % 1000000000 }

/-- The lowest valid tile that covers a pixel. -/
def Chip.tileAt (c : Chip) (before : Bool) (x y : Nat) : Option Nat := (List.range 512).find? fun t =>
  let w0 := c.mimW before (0x3B000000 + 16 * t)
  let w1 := c.mimW before (0x3B000000 + 16 * t + 4)
  w1 / 2 ^ 31 % 2 = 1 && w0 / 2 ^ 17 % 128 = x / 16 && w0 / 2 ^ 24 % 64 = y / 16

/-- The colour of a tile pixel in this frame or in the one before, or none where the overlay shows: component 0 is red (R425). -/
def Chip.tilePixel (c : Chip) (before : Bool) (x y comp : Nat) : Option Nat :=
  match c.tileAt before x y with
  | none => none
  | some t =>
    let set := c.mimW before (0x3B000000 + 16 * t + 4) / 2 ^ 17 % 256
    let a := c.mimW before (0x3B002000 + 64 * set + 4 * (if before then c.mim.prev else c.mim.shown).getD t 0)
    let v := c.mimW before (0x3B008000 + 64 * (a % 1024) + 4 * (y % 16)) / 2 ^ (2 * (x % 16)) % 4
    if v = 0 || (a / 2 ^ 18 % 2 = 1 && if before then c.mim.prevDark else c.mim.dark) then none
    else some (c.mimW before (0x3B006000 + 16 * (a / 2 ^ 10 % 256) + 4 * v) / 2 ^ (8 * (2 - comp)) % 256)

/-! ### The overlay layer -/

/-- The address of an overlay pixel (Table 17.1). -/
def Chip.ovAddr (c : Chip) (x y : Nat) : Nat := 0x30000000 + 3 * (c.get MIM_TIM0.HACT * y + x)

/-- The pixels of a rectangle of the overlay. -/
def Chip.ovRead (c : Chip) (q : MimCmd) : List Byte := (List.range q.h).flatMap fun j => c.ldBytes (c.ovAddr q.x (q.y + j)) (3 * q.w)
/-- Write the pixels of a rectangle. -/
def Chip.ovWrite (c : Chip) (q : MimCmd) (pix : List Byte) : Chip :=
  c.forIn (List.range q.h) fun j c => c.stBytes (c.ovAddr q.x (q.y + j)) ((pix.drop (3 * q.w * j)).take (3 * q.w))

/-- Bytes `lo` to `hi` of the source pixels of a command: a copy's reads are checked by the guard, and one that is refused reads 0. -/
def Chip.ovSource (c : Chip) (q : MimCmd) (lo hi : Nat) : List Byte × Chip :=
  if !q.copy then ((List.range (hi - lo)).map fun i => q.src.extractLsb' (16 - 8 * ((lo + i) % 3)) 8, c)
  else (List.range q.h).foldl (fun (r : List Byte × Chip) j =>
    let row := 3 * q.w * j
    let a := max lo row
    let n := min hi (row + 3 * q.w) - a
    let at_ := q.src.toNat + q.stride * j + (a - row)
    if n = 0 then r
    else if r.2.admits 0x58 false at_ n then (r.1 ++ r.2.ldBytes at_ n, r.2) else (r.1 ++ List.replicate n 0, r.2.refusePart 0x58 false at_ n)) ([], c)

/-- The bytes of a command's pixels. -/
def MimCmd.bytes (q : MimCmd) : Nat := 3 * q.w * q.h

/-- The address of byte `i` of a command's place in the staging area, which the places fill in turn (Table 17.1; DESIGN CHOICE, log entry 144). -/
def MimCmd.stage (q : MimCmd) (i : Nat) : Nat := 0x30465000 + (8 * q.place + i) % 110592
/-- The pixels in a command's place. -/
def Chip.stageRead (c : Chip) (q : MimCmd) : List Byte := (List.range q.bytes).map fun i => c.ldB (q.stage i)
/-- Bytes go into a command's place, from byte `lo` of it on. -/
def Chip.stagePut (c : Chip) (q : MimCmd) (lo : Nat) (l : List Byte) : Chip := c.forIn l.zipIdx fun b c => c.stB (q.stage (lo + b.2)) b.1

/-- Two rectangles overlap. -/
def MimCmd.overlaps (p q : MimCmd) : Bool := p.x < q.x + q.w && q.x < p.x + p.w && p.y < q.y + q.h && q.y < p.y + p.h
/-- The staging space of a command in units of 8 bytes. -/
def MimCmd.units (q : MimCmd) : Nat := (q.bytes + 7) / 8

/-- QCNT and FREE follow the queue and the pixels that wait to be freed. -/
def Chip.ovShow (c : Chip) : Chip :=
  let used := (((c.mim.queue.filter (·.step != 0)) ++ c.mim.old).map MimCmd.units).sum
  (c.put MIM_OVSTAT.QCNT c.mim.queue.length).put MIM_OVSTAT.FREE (13824 - used)

/-- A request for the frame-fill class. -/
def Chip.mimRequest (c : Chip) (a : MimAsk) : Chip := (c.modMim fun m => { m with asked := some a }).turnAsk 3 .mimic
/-- The frame-fill request of the engine: a batch goes first, then new tables (R466), then staging. The engine sleeps in INTERMISSION (R449). -/
def Chip.mimAsk (c : Chip) : Chip :=
  if c.mim.asked.isSome || c.mode == mINTER then c
  else if c.upd.assets = 4 || c.mim.queue.any (·.step == 3) then c.mimRequest .batch
  else if c.upd.assets = 1 || c.upd.assets = 5 then c.mimRequest .tables
  else if c.mim.queue.any (·.step == 1) then c.mimRequest .staging
  else c

/-- The first queued command starts when its bytes fit and it overlaps no earlier one (R427), and no new tables are on their way (R466). -/
def Chip.ovStart (c : Chip) : Chip :=
  let l := c.mim.queue
  match l.findIdx? (·.step == 0) with
  | none => c
  | some i =>
    match l[i]? with
    | none => c
    | some q =>
      if c.upd.assets ≠ 0 || c.get MIM_OVSTAT.FREE < q.units || (l.take i).any (q.overlaps ·) then c
      else (c.modMim fun m => { m with queue := l.set i { q with step := 1, place := m.head }, head := (m.head + q.units) % 13824 }).ovShow

/-- Commands start in order, one after another. -/
def Chip.ovStarts (c : Chip) : Chip := ((List.range 16).foldl (fun (c : Chip) _ => c.ovStart) c).mimAsk

/-- A command has committed (R428). -/
def Chip.ovDone (c : Chip) (tag : Nat) : Chip := ((c.put MIM_OVSTAT.LASTTAG tag).incWrap MIM_OVCNT.COMMITCNT).mimFlag 1

/-- A command writes frame memory directly, while EN is 0 (R426). -/
def Chip.ovDirect (c : Chip) (q : MimCmd) : Chip :=
  let (pix, c) := if 2 ≤ q.step then (c.stageRead q, c) else c.ovSource q 0 q.bytes
  (c.ovWrite q pix).ovDone q.tag

/-- A command is refused (R426). -/
def Chip.ovRefuse (c : Chip) (e : Nat) : Chip := (c.put MIM_OVSTAT.OVERR e).mimFlag 2

/-- The source of a copy is valid: its stride holds a row, and it lies in management memory or the host window. -/
def ovSourceOk (q : MimCmd) : Bool :=
  let last := q.src.toNat + q.stride * (q.h - 1) + 3 * q.w
  3 * q.w ≤ q.stride && ((0x3C000000 ≤ q.src.toNat && last ≤ 0x3C0A0000) || (0x38000000 ≤ q.src.toNat && last ≤ 0x38080000))

/-- FILL or COPY (R426, R427). -/
def Chip.ovDraw (c : Chip) (copy : Bool) (v : Word) : Chip :=
  let q : MimCmd := { tag := MIM_OVCMD.TAG.of v, copy, x := c.get MIM_OVPOS.X, y := c.get MIM_OVPOS.Y, w := c.get MIM_OVSIZE.W,
                      h := c.get MIM_OVSIZE.H, src := c.rd MIM_OVSRC.reg, stride := c.get MIM_OVSTRIDE.STRIDE, step := 0, place := 0, done := 0 }
  let en := c.flag MIM_CTL.EN
  if 16 ≤ c.mim.queue.length then c.ovRefuse 1
  else if q.w = 0 || q.h = 0 || c.get MIM_TIM0.HACT < q.x + q.w || c.get MIM_TIM0.VACT < q.y + q.h then c.ovRefuse 2
  else if en && 110592 < 3 * q.w * q.h then c.ovRefuse 3
  else if copy && !ovSourceOk q then c.ovRefuse 4
  else if !en then c.ovDirect q
  else
    let l := c.mim.queue
    let same (p : MimCmd) : Bool := p.step == 0 && p.x == q.x && p.y == q.y && p.w == q.w && p.h == q.h
    match (List.range l.length).reverse.find? fun i => (l[i]?).any same && !(l.drop (i + 1)).any (q.overlaps ·) with
    | some i => (c.modMim fun m => { m with queue := l.set i q }).incWrap MIM_OVCNT.COALCNT
    | none => ((c.modMim fun m => { m with queue := l ++ [q] }).ovShow).ovStarts

/-- FLUSH (R427). -/
def Chip.ovFlush (c : Chip) : Chip := ((c.modMim fun m => { m with queue := m.queue.filter (·.step != 0) }).ovShow)

/-- A write to MIM_OVCMD under its key. -/
def Chip.ovCmd (c : Chip) (w : Cmd) (f : Chip → Chip) : Chip :=
  (c.arrive w.now).allow (mimWriter w.agent) w.agent MIM_OVCMD.reg fun c => if MIM_OVCMD.KEY.of w.value ≠ 0x3D71 then c else f c

/-- MIM_OVCMD is written. -/
def Chip.ovCmdWrite (c : Chip) (w : Cmd) : Chip := c.ovCmd w fun c =>
  match MIM_OVCMD.OP.of w.value with
  | 1 => c.ovDraw false w.value
  | 2 => c.ovDraw true w.value
  | 3 => c.ovFlush
  | _ => c.ovRefuse 5

/-- MIM_FILL. -/
def execMimFill (w : Cmd) (s : State) : Host.Outcome State Fault Refusal := s.on fun c => c.ovCmd w fun c => c.ovDraw false w.value
/-- MIM_COPY. -/
def execMimCopy (w : Cmd) (s : State) : Host.Outcome State Fault Refusal := s.on fun c => c.ovCmd w fun c => c.ovDraw true w.value
/-- MIM_FLUSH. -/
def execMimFlush (w : Cmd) (s : State) : Host.Outcome State Fault Refusal := s.on fun c => c.ovCmd w fun c => c.ovFlush

/-- The frame-fill operation ends. -/
def Chip.mimEnd (c : Chip) : Chip := ((c.turnEnd 3 .mimic).modMim fun m => { m with asked := none }).ovStarts

/-- New tables are exchanged with the batch (R466): staging then holds the old ones. -/
def Chip.mimTables (c : Chip) : Chip :=
  if c.upd.assets ≠ 4 then c
  else
    let was := c.ldBytes 0x3B000000 0x18000
    let c := (c.stBytes 0x3B000000 (c.upd.tables.take 0x18000)).modMim fun m => { m with swapped := true }
    (c.modUpd fun u =>
      { u with assets := if u.armed.any (·.1 == 4) then 1 else 0, tables := was, assetsNow := u.tables, stores := spIns 8 u.assetsNow u.stores }).updDone

/-- The first command that has started and is not yet staged takes its source bytes up to `hi` into its place. -/
def Chip.stageTo (c : Chip) (q : MimCmd) (hi : Nat) : Chip :=
  let (l, c) := c.ovSource q q.done hi
  let q' := { q with done := hi, step := if hi < q.bytes then 1 else 2 }
  (c.stagePut q q.done l).modMim fun m => { m with queue := m.queue.map fun x => if x = q then q' else x }

/-- A frame-fill admission serves one portion of 4 KiB (R428, R466): the last portion of a command, and of tables that ARM preloads, holds it until
its own event. -/
def Chip.mimGranted (c : Chip) : Chip :=
  match c.mim.asked with
  | some .staging =>
    match c.mim.queue.find? (·.step == 1) with
    | none => c.mimEnd
    | some q => if q.done + 4096 < q.bytes then (c.stageTo q (q.done + 4096)).mimEnd else c
  | some .tables =>
    if c.mim.portion < 23 then (c.modMim fun m => { m with portion := m.portion + 1 }).mimEnd
    else if c.upd.assets = 5 then ((c.modMim fun m => { m with portion := 0 }).modUpd fun u => { u with assets := 3 }).mimEnd
    else c
  | _ => c

/-- MIM_STAGING_COMPLETE (R428): the last portion of the first started command is in the staging area. -/
def execMimStagingComplete (now : Time) (s : State) : Host.Outcome State Fault Refusal := s.on fun c =>
  let c := c.arrive now
  if c.mim.asked != some .staging || !c.turnHas 3 .mimic then c
  else match c.mim.queue.find? (·.step == 1) with
    | none => c.mimEnd
    | some q => (c.stageTo q q.bytes).mimEnd

/-- A command of the batch exchanges its place in staging with its rectangle (R428). -/
def Chip.ovSwap (c : Chip) (q : MimCmd) : Chip :=
  let was := c.ovRead q
  (((c.ovWrite q (c.stageRead q)).stagePut q 0 was).modMim fun m => { m with old := m.old ++ [q] }).ovDone q.tag

/-- MIM_BATCH_COMMIT (R428): the exchange of the batch has ended, or it cannot end 10 µs before line period 0 and waits. -/
def execMimBatchCommit (now : Time) (s : State) : Host.Outcome State Fault Refusal := s.on fun c =>
  let c := c.arrive now
  if c.mim.asked != some .batch || !c.turnHas 3 .mimic then c
  else if c.mim.frameAt.any (· < c.t + 10000) then
    let c := c.modUpd fun u => if u.assets = 4 then { u with assets := 3 } else u
    ((c.modMim fun m => { m with queue := m.queue.map fun q => if q.step = 3 then { q with step := 2 } else q }).mimFlag 3).mimEnd
  else
    let l := c.mim.queue.filter (·.step == 3)
    let c := c.modMim fun m => { m with queue := m.queue.filter (·.step != 3) }
    (c.forIn l fun q c => c.ovSwap q).mimTables.ovShow.mimEnd

/-! ### Levels sent and DC balance -/

/-- A component of an overlay pixel in this frame, or in the frame before the last batch. -/
def Chip.ovLevel (c : Chip) (before : Bool) (x y comp : Nat) : Nat :=
  match if before then c.mim.old.find? (fun q => q.x ≤ x && x < q.x + q.w && q.y ≤ y && y < q.y + q.h) else none with
  | some q => (c.ldB (q.stage (3 * ((y - q.y) * q.w + (x - q.x)) + comp))).toNat
  | none => (c.ldB (c.ovAddr x y + comp)).toNat

/-- The level that a frame targets. -/
def Chip.mimTarget (c : Chip) (before : Bool) (x y comp : Nat) : Nat :=
  match c.tilePixel before x y comp with
  | some v => v
  | none => c.ovLevel before x y comp

/-- Overdrive (R429) from level `p` to level `n` by the table at an address. -/
def Chip.overdrive (c : Chip) (table p n : Nat) : Nat :=
  if p = n then n
  else
    let i := p / 16
    let j := n / 16
    let fp := p % 16
    let fn := n % 16
    let e (i j : Nat) : Nat := (c.ldB (table + 17 * i + j)).toNat
    min 255 (((16 - fp) * (16 - fn) * e i j + fp * (16 - fn) * e (i + 1) j + (16 - fp) * fn * e i (j + 1) + fp * fn * e (i + 1) (j + 1) + 128) / 256)

/-- The level sent for sub-pixel `i` of row `y`. -/
def Chip.mimSent (c : Chip) (y i : Nat) : Nat :=
  if c.mimBlanked then 0
  else
    let n := c.mimTarget false (i / 3) y (i % 3)
    let p := if c.mim.first then n else c.mimTarget true (i / 3) y (i % 3)
    c.overdrive (0x3B007000 + 512 * c.get MIM_STATE.BAND) p n

/-- The weight of a level (R430). -/
def balWeight (s : Nat) : Int := if s < 32 then 0 else if s < 160 then 1 else 2

/-- The accumulator of sub-pixel `k` of the panel: 4 bits each, the lower first (DESIGN CHOICE, log entry 20). -/
def Chip.balGet (c : Chip) (k : Nat) : Int :=
  let b := (c.ldB (0x302EE000 + k / 2)).toNat
  ((BitVec.ofNat 4 (if k % 2 = 0 then b else b / 16)) : BitVec 4).toInt
/-- Write an accumulator. -/
def Chip.balPut (c : Chip) (k : Nat) (v : Int) : Chip :=
  let a := 0x302EE000 + k / 2
  let b := (c.ldB a).toNat
  let n := ((BitVec.ofInt 4 v) : BitVec 4).toNat
  c.stB a (BitVec.ofNat 8 (if k % 2 = 0 then b / 16 * 16 + n else b % 16 + 16 * n))

/-- The polarity of data word `g` of row `y` from its members' accumulators and weights (R430): true is positive. -/
def balPolarity (l : List (Int × Int)) (even : Bool) : Bool :=
  let top (v : Int) : Int := (l.filter fun e => e.1 = v && 0 < e.2).foldl (fun m e => max m e.2) 0
  let hi := top 7
  let lo := top (-7)
  let sum : Int := (l.map (·.1)).sum
  if hi = 0 && lo = 0 then (if 0 < sum then false else if sum < 0 then true else even)
  else if lo < hi then false
  else if hi < lo then true
  else even

/-- The accumulators follow one data word (R430). -/
def Chip.balWord (c : Chip) (y g : Nat) : Chip :=
  let base := 3 * c.get MIM_TIM0.HACT * y + 8 * g
  let l := (List.range 8).map fun k => (c.balGet (base + k), balWeight (c.mimSent y (8 * g + k)))
  let pos := balPolarity l ((g + y + c.get MIM_FRAME.CNT) % 2 = 0)
  l.zipIdx.foldl (fun (c : Chip) e =>
    let ((a, w), k) := e
    let v := if pos then a + w else a - w
    let c := if v < -7 || 7 < v then c.incWrap MIM_BAL.SATCNT else c
    if w = 0 then c else c.balPut (base + k) (max (-7) (min 7 v))) c

/-- The rows of the frame up to `n` have been driven. -/
def Chip.mimDriven (c : Chip) (n : Nat) : Chip :=
  let rows := (List.range (min n (c.get MIM_TIM0.VACT))).drop c.mim.rows
  (c.forIn rows fun y c => c.forIn (List.range c.mimDW) fun g c => c.balWord y g).modMim fun m => { m with rows := max m.rows n }

/-- The rows of the frame that have begun are driven as things stand (R430): what changes takes effect with the next line period (R434). A row counts
from the start of its line period (DESIGN CHOICE, log entry 145). -/
def Chip.mimUpToNow (c : Chip) : Chip :=
  match c.mim.frameAt with
  | some f => if c.mimRun && f ≤ c.t then c.mimDriven ((c.t - f) / max 1 c.mimLineNs + 1) else c
  | none => c

/-- The engine stops refreshing the panel (R417): the frame is cut off, and the next one starts after the next frame boundary. -/
def Chip.mimStop (c : Chip) : Chip := (c.mimUpToNow).modMim fun m => { m with frameAt := none, rows := 0 }

/-! ### Frames -/

/-- MIM_CTL is written (R417, R420). -/
def Chip.mimCtl (c : Chip) (w : Cmd) : Chip :=
  (c.arrive w.now).allow (mimWriter w.agent) w.agent MIM_CTL.reg fun c =>
    let was := c.flag MIM_CTL.EN
    let v := w.value &&& 0xE00003FF
    let c := if c.flag MIM_CTL.CRKACT != (MIM_CTL.CRKACT.of v != 0) then c.mimUpToNow else c
    if MIM_CTL.EN.of v = 0 then
      let c := (if was then c.mimStop else c).wr MIM_CTL.reg v
      if !was then c
      else
        let l := c.mim.queue
        let c := ((c.turnEnd 3 .mimic).modMim fun m => { m with queue := [], old := [], asked := none })
        (c.forIn l fun q c => c.ovDirect q).ovShow
    else if was then c.wr MIM_CTL.reg v
    else
      let e := c.mimCfgErr
      let c := c.put MIM_STATE.CFGERR e
      if e ≠ 0 then c.wr MIM_CTL.reg (v &&& 0x7FFFFFFF)
      else
        let c := { c.wr MIM_CTL.reg v with mem := c.mem.filter fun e => !(0x302EE000 ≤ e.1 && e.1 < 0x30465000) }
        let c := (c.put MIM_FRAME.CNT 0).mimTiles
        c.modMim fun m => { m with prev := m.shown, prevDark := m.dark, swapped := false, first := true, frameAt := some c.t, rows := 0 }

/-- MIM_EN_SET. -/
def execMimEnSet (w : Cmd) (s : State) : Host.Outcome State Fault Refusal := s.on fun c => c.mimCtl w

/-- The contrast code of a band (MIM_CONTR0, MIM_CONTR1). -/
def Chip.contrCode (c : Chip) (b : Nat) : Nat := (c.rd (if b < 4 then MIM_CONTR0.reg else MIM_CONTR1.reg)).toNat / 2 ^ (8 * (b % 4)) % 256

/-- A staged band takes effect with its overdrive table and its contrast code, which goes to PREG of the power chip at PADDR and is acknowledged there
or not (R421, R432). -/
def Chip.mimBand (c : Chip) (ack : Bool) : Chip :=
  let b := c.get MIM_TEMP.PEND
  if b = c.get MIM_STATE.BAND then c
  else
    let k := c.contrCode b
    let c := c.modMim fun m => { m with contrast := some (c.get MIM_I2C.PADDR, c.get MIM_I2C.PREG, k) }
    if ack then (((c.put MIM_STATE.BAND b).modMim fun m => { m with code := k })).mimFlag 4 else (c.mimFlag 7).fault 1 0x07 0x58 0x3E 0x58

/-- MIM_FRAME_BOUNDARY (R421): the frame that ends here has driven its rows, and staged settings take effect; a batch that is still not exchanged has
missed its blank (R428). `ack` and `again` tell whether a contrast write and its repeat are acknowledged. Where no frame has run (R417), the next one
is prepared. -/
def execMimFrameBoundary (ack again : Bool) (now : Time) (s : State) : Host.Outcome State Fault Refusal := s.on fun c =>
  let c := c.arrive now
  if !c.mimRun then c
  else
    let c := (c.mimDriven (if c.mim.frameAt.isSome then c.get MIM_TIM0.VACT else 0)).doIf c.mim.frameAt.isSome fun c =>
      (c.incWrap MIM_FRAME.CNT).mimFlag 0
    let c := c.mimTiles.doIf (c.upd.assets = 4 || c.mim.queue.any (·.step == 3)) (·.mimFlag 3)
    let c := c.modMim fun m => { m with
      old := [], swapped := false, first := false, rows := 0, frameAt := some (c.t + c.mimBlankNs)
      queue := m.queue.map fun q => if q.step = 2 then { q with step := 3 } else q }
    let c := c.modUpd fun u => if u.assets = 3 then { u with assets := 4 } else u
    (c.mimBand (ack || again)).ovShow.ovStarts

/-! ### Temperature bands -/

/-- The highest band whose threshold less `h` the reading reaches. -/
def Chip.mimBandOf (c : Chip) (t h : Int) : Nat := (List.range 8).foldl (fun b k => if 1 ≤ k && c.mimThr k - h ≤ t then k else b) 0

/-- MIM_SENSOR_READING (R431, R433): none when the transfer failed. -/
def execMimSensorReading (r : Option (BitVec 16)) (now : Time) (s : State) : Host.Outcome State Fault Refusal := s.on fun c =>
  let c := c.arrive now
  if !c.mimRun then c
  else match r with
    | some v =>
      let b := c.get MIM_STATE.BAND
      let up := c.mimBandOf v.toInt 0
      let down := c.mimBandOf v.toInt 512
      let n := if b < up then up else if down < b then down else b
      ((c.put MIM_TEMP.TEMP v.toNat).put MIM_TEMP.PEND n).modMim fun m => { m with fails := 0 }
    | none =>
      let c := c.modMim fun m => { m with fails := m.fails + 1 }
      if c.mim.fails = 3 then ((c.mimFlag 6).fault 1 0x07 0x58 0x3B 0x58).put MIM_TEMP.PEND (c.get MIM_SENS.FAILBAND) else c

/-! ### Crack detection and memory errors -/

/-- CRACK_STEP (R434): the two samples of a step. -/
def execCrackStep (s0 s1 : Bool) (now : Time) (s : State) : Host.Outcome State Fault Refusal := s.on fun c =>
  let c := c.arrive now
  if !c.flag MIM_CTL.CRKEN then c
  else
    let x := c.mim.lfsr
    let b := x.getLsbD 14 ^^ x.getLsbD 13
    let errs := (s0 != b).toNat + (s1 != !b).toNat
    let c := (c.incSat MIM_CRK.ERRCNT errs).modMim fun m =>
      { m with lfsr := (x <<< 1) ||| BitVec.ofNat 15 b.toNat, cracked := if errs = 0 then 0 else m.cracked + 1 }
    if c.mim.cracked < 3 || c.bitOf MIM_STAT.FLAGS 5 then c
    else ((c.mimUpToNow).mimFlag 5).fault 1 0x07 0x58 0x3A 0x58 .sys

/-- Software clears bits of MIM_STAT; a CRACK cleared counts its steps anew (R434). -/
def Chip.mimStatClear (c : Chip) (v : Word) : Chip :=
  let c := if v.getLsbD 5 && c.bitOf MIM_STAT.FLAGS 5 then (c.mimUpToNow).modMim fun m => { m with cracked := 0 } else c
  c.put MIM_STAT.FLAGS (c.get MIM_STAT.FLAGS &&& (0x3FF - (v.toNat % 1024)))

/-- The scrubber has rewritten a word of the engine's memories (R436): in the mimic tables the 1 KiB around it is reloaded from the asset image in
use. -/
def Chip.mimMemErr (c : Chip) (a : Nat) : Chip :=
  let b := a / 1024 * 1024
  let c := if 0x3B000000 ≤ a then c.stBytes b ((c.upd.assetsNow.drop (b - 0x3B000000)).take 1024) else c
  (c.mimFlag 9).wr MIM_MEMERR.reg (BitVec.ofNat 32 a)

end Sys2Proof.Machine
end

