-- ==== Sys2Proof/Machine/P256.lean ====
section
/-! DEFINITION. Verification of ECDSA signatures on curve P-256 (R459, R460; the curve and the check are FIPS 186-5, PRESUMED, log entry 5). -/

namespace Sys2Proof.Machine

/-- The prime of the field. -/
def p256P : Nat := 0xFFFFFFFF00000001000000000000000000000000FFFFFFFFFFFFFFFFFFFFFFFF
/-- The order of the base point. -/
def p256N : Nat := 0xFFFFFFFF00000000FFFFFFFFFFFFFFFFBCE6FAADA7179E84F3B9CAC2FC632551
/-- The constant of the curve equation. -/
def p256B : Nat := 0x5AC635D8AA3A93E7B3EBBD55769886BC651D06B0CC53B0F63BCE3C3E27D2604B
/-- The base point. -/
def p256G : Nat × Nat :=
  (0x6B17D1F2E12C4247F8BCE6E563A440F277037D812DEB33A0F4A13945D898C296,
   0x4FE342E2FE1A7F9B8EE7EB4A7C0F9E162BCE33576B315ECECBB6406837BF51F5)

/-- `b ^ e` modulo `m`, by the low `n` bits of `e`. -/
def powMod (m : Nat) : Nat → Nat → Nat → Nat
  | 0, _, _ => 1 % m
  | n + 1, b, e => let r := powMod m n (b * b % m) (e / 2); if e % 2 = 1 then r * b % m else r

/-- The inverse modulo a prime of 256 bits. -/
def invMod (m a : Nat) : Nat := powMod m 256 (a % m) (m - 2)

/-- The sum of two points; none is the point at infinity. -/
def p256Add : Option (Nat × Nat) → Option (Nat × Nat) → Option (Nat × Nat)
  | none, q => q
  | q, none => q
  | some (x1, y1), some (x2, y2) =>
    if x1 = x2 && (y1 + y2) % p256P = 0 then none
    else
      let l := if x1 = x2 then (3 * x1 * x1 + (p256P - 3)) * invMod p256P (2 * y1) % p256P
        else (y2 + p256P - y1) * invMod p256P (x2 + p256P - x1) % p256P
      let x3 := (l * l + 2 * p256P - x1 - x2) % p256P
      some (x3, (l * (x1 + p256P - x3) + p256P - y1) % p256P)

/-- A multiple of a point, by the low `n` bits of the factor. -/
def p256Mul : Nat → Nat → Option (Nat × Nat) → Option (Nat × Nat)
  | 0, _, _ => none
  | n + 1, k, q => let r := p256Mul n (k / 2) (p256Add q q); if k % 2 = 1 then p256Add r q else r

/-- A point lies on the curve. -/
def p256On (q : Nat × Nat) : Bool :=
  q.1 < p256P && q.2 < p256P && q.2 * q.2 % p256P == (q.1 * q.1 * q.1 + (p256P - 3) * q.1 + p256B) % p256P

/-- A big-endian number. -/
def beNum (l : List Byte) : Nat := l.foldl (fun n b => 256 * n + b.toNat) 0

/-- The signature `sig` (r, then s) of a message verifies against the public key `key` (x, then y). -/
def ecdsaOk (key msg sig : List Byte) : Bool :=
  let q := (beNum (key.take 32), beNum (key.drop 32))
  let r := beNum (sig.take 32)
  let s := beNum (sig.drop 32)
  if r = 0 || s = 0 || p256N ≤ r || p256N ≤ s || !p256On q then false
  else
    let w := invMod p256N s
    match p256Add (p256Mul 256 (beNum (sha256 msg) * w % p256N) (some p256G)) (p256Mul 256 (r * w % p256N) (some q)) with
    | some (x, _) => x % p256N == r
    | none => false

end Sys2Proof.Machine
end

