-- ==== Sys2Proof/Machine/Check.lean ====
section
/-! DEFINITION. The configuration check at the entry to RUN (R26, R124, R172, R222, R230, R284, R454), which the load of a change
package shares (R195). -/

namespace Sys2Proof.Machine

/-- A count of the configured tasks of a kind and SUB code. -/
def Chip.kindCount (c : Chip) (kind sub : Nat) : Nat :=
  (c.configured.filter fun t => c.kind t == kind && c.get (SCN_TCFG.SUB t) == sub).length

/-- Table 5.1. -/
def Chip.kindsOk (c : Chip) : Bool :=
  (c.configured.filter fun t => c.kind t == kCYC).length ≤ 16 && (List.range 4).all (fun u => c.kindCount kERR u ≤ 1) &&
    (List.range 2).all (fun u => c.kindCount kSTART u ≤ 1) &&
    c.configured.all fun t =>
      let u := c.get (SCN_TCFG.SUB t)
      c.kind t ≤ 4 && (c.kind t == kERR || (c.kind t == kSTART && u ≤ 1) || u == 0)

/-- SEL of an event source is in range (Table 5.2). -/
def selOk (src sel : Nat) : Bool :=
  match src with
  | 0 => sel == 0
  | 1 | 2 => sel < 0x10000
  | 3 => sel < 32
  | 4 => sel < 0x400
  | 5 => sel < 0x80
  | _ => false

/-- The field ranges of a task's descriptor (SCN and SHD registers, R55, R68). -/
def Chip.rangesOk (c : Chip) (t : Fin 32) : Bool :=
  let k := c.kind t
  let per := c.get (SCN_TPERIOD.PERIOD t)
  let ph := c.get (SCN_TPHASE.PHASE t)
  let time : Bool :=
    if k == kCYC then 250 ≤ per && per ≤ 10000000 && ph < per
    else if k == kEVT then per ≤ 10000000 && ph == 0
    else per == 0 && ph == 0
  let src := c.get (SCN_TEVT.SRC t)
  let sel := c.get (SCN_TEVT.SEL t)
  let entry := c.get (SCN_TENTRY.ENTRY t)
  let d := c.get (SCN_TIBD.IBD t)
  let b := c.get (SCN_TIBB.IBB t)
  let lo := c.get (SCN_TSTKLO.FLOOR t)
  let hi := c.get (SCN_TSTKHI.TOP t)
  let pd := c.get (SHD_TPDBASE.BASE t)
  let pdn := c.get (SHD_TPDLEN.LEN t)
  let pb := c.get (SHD_TPBBASE.BASE t)
  let pbn := c.get (SHD_TPBLEN.LEN t)
  time && (if k == kEVT then selOk src sel else src == 0 && sel == 0) && 1 ≤ c.get (SCN_TCFG.LEDGMAX t) &&
    (entry % 4 == 0 && 0x10000000 ≤ entry && entry < 0x10300000) && (d % 8 == 0 && 0x20000000 ≤ d && d < 0x20300000) &&
    (b % 8 == 0 && 0x400000 ≤ b && b < 0xA00000) &&
    (lo % 8 == 0 && hi % 8 == 0 && 0x20000000 ≤ lo && lo < hi && hi < 0x20300000) &&
    (pd % 8 == 0 && pdn % 8 == 0 && (pdn == 0 || (0x20000000 ≤ pd && pd + pdn ≤ 0x20300000))) &&
    (pb % 64 == 0 && pbn % 64 == 0 && (pbn == 0 || (0x400000 ≤ pb && pb + pbn ≤ 0xA00000))) &&
    (c.flag (SHD_TCFG.PAIROK t) || !c.flag (SHD_TCFG.PAIRINIT t)) && c.get (SHD_TCFG.JMAX t) ≤ 4096

/-- The partition mask of a task on a ring, as the descriptor gives it. -/
def Chip.partMask (c : Chip) (t : Fin 32) (r : Fin 4) : Nat :=
  match r.val with
  | 0 => c.get (SCN_TPART0.STN t)
  | 1 => c.get (SCN_TPART1.STN t)
  | 2 => c.get (SCN_TPART2.STN t)
  | _ => c.get (SCN_TPART3.STN t)

/-- The partition rule (R135): stations below the configured count, in at most one partition, and none for other kinds. -/
def Chip.partsOk (c : Chip) : Bool :=
  (List.finRange 4).all fun r =>
    c.configured.all fun t =>
      c.partMask t r < 2 ^ c.get (STN_STATE.NSTN r) && (c.kind t == kCYC || c.partMask t r == 0) &&
        c.configured.all fun u => u == t || c.partMask t r &&& c.partMask u r == 0

/-- JMAX of a task, 0 unless it may run PAIRED. -/
def Chip.jmaxOf (c : Chip) (t : Fin 32) : Nat := if c.flag (SHD_TCFG.PAIROK t) then c.get (SHD_TCFG.JMAX t) else 0

/-- The largest of a function over a list. -/
def maxOver {α : Type} (f : α → Nat) (l : List α) : Nat := l.foldl (fun n a => max n (f a)) 0

/-- The largest sum of JMAX along a pre-emption chain of a logical engine (R172): one task of each priority, of the error tasks at most
ERR_EXEC above one other, and a start-up task alone. The error tasks share one priority (R284). -/
def Chip.chainMax (c : Chip) (e : Fin 16) : Nat :=
  let on := c.configured.filter fun t => c.leOf t == e
  let errs := on.filter fun t => c.kind t == kERR
  let pair := maxOver c.jmaxOf (errs.filter fun t => c.get (SCN_TCFG.SUB t) == 1) +
    maxOver c.jmaxOf (errs.filter fun t => c.get (SCN_TCFG.SUB t) != 1)
  let level (p : Nat) : Nat :=
    max (maxOver c.jmaxOf (on.filter fun t => (c.kind t == kCYC || c.kind t == kEVT) && c.get (SCN_TCFG.PRIO t) == p))
      (if errs.any fun t => c.get (SCN_TCFG.PRIO t) == p then pair else 0)
  max ((List.range 32).map level).sum (maxOver c.jmaxOf (on.filter fun t => c.kind t == kSTART))

/-- The journal rule (R172), the ledger rule (R156) and the placement of the error tasks (R284). -/
def Chip.enginesOk (c : Chip) : Bool :=
  (c.configured.all fun t => !c.flag (SHD_TCFG.PAIROK t) || c.get (SHD_TCFG.JMAX t) != 0) &&
    ((List.finRange 16).all fun e => c.chainMax e ≤ 4096 &&
      ((c.configured.filter fun t => c.leOf t == e).map fun t => c.get (SCN_TCFG.LEDGMAX t)).sum ≤ 512) &&
    ((c.configured.filter fun t => c.kind t == kERR).all fun t => (c.configured.filter fun t => c.kind t == kERR).all fun u =>
      c.leOf t == c.leOf u && c.get (SCN_TCFG.PRIO t) == c.get (SCN_TCFG.PRIO u))

/-- The check of a descriptor set: 0, 0x03 for a task on an unmapped engine (R26), or 0x04 (R124). -/
def Chip.checkTasks (c : Chip) : Nat :=
  if c.configured.any fun t => (c.physOf (c.leOf t)).isNone then 3
  else if c.kindsOk && c.configured.all c.rangesOk && c.partsOk && c.enginesOk then 0 else 4

/-- The payload length L of a station's slot in bytes (R219). -/
def Chip.slotLen (c : Chip) (r : Fin 4) (s : Fin 32) : Nat :=
  4 * max (c.get (STN_SCFG.DOB r s) + c.get (STN_SCFG.AOW r s)) (c.get (STN_SCFG.DIB r s) + c.get (STN_SCFG.AIW r s))

/-- The stations of a ring. -/
def Chip.stations (c : Chip) (r : Fin 4) : List (Fin 32) := (List.finRange 32).filter fun s => s < c.get (STN_STATE.NSTN r)

/-- T_frame in nanoseconds (R222), at `ns` per byte. -/
def Chip.tFrame (c : Chip) (r : Fin 4) (ns : Nat := 8) : Nat := ns * (26 + ((c.stations r).map fun s => 12 + c.slotLen r s).sum)

/-- The rule of R222 with a round-trip delay in units of 8 ns. -/
def Chip.cycleOk (c : Chip) (r : Fin 4) (rtd : Nat) : Bool :=
  c.tFrame r + 16 * rtd + 1000 * c.get (STN_LAT.ACWIN r) + 2000 ≤ 1000 * c.get (STN_CYC.CYCLE r)

/-- The settings of a configured ring: R222, R230 and the paralleled groups (R232). -/
def Chip.ringOk (c : Chip) (r : Fin 4) : Bool :=
  c.get (STN_STATE.NSTN r) == 0 ||
    (c.cycleOk r (c.get (STN_LAT.RTD r)) &&
      ((c.stations r).all fun s => !c.flag (STN_SCFG.PULSEN r s) ||
        (match c.image with
          | some i => spGet 0 i.sec.pulse (32 * r.val + s.val) + 2 ≤ c.get (STN_CYC.CYCLE r)
          | none => true)) &&
      (List.finRange 64).all fun g => !c.flag (STN_PGCFG.VALID r g) ||
        (c.get (STN_PGCFG.NM1 r g) != 0 && c.get (STN_PGCFG.LEADER r g) + c.get (STN_PGCFG.NM1 r g) ≤ 511))

/-- The retentive layout fits the retentive area of 128 KiB (R454). -/
def Chip.retainOk (c : Chip) : Bool :=
  match c.image with
  | some i => (i.sec.retain.map (·.2)).sum ≤ 131072
  | none => true

/-- CFGERR of the configuration check at the entry to RUN, apart from R48: 0, 3 or 4, in the order of R124. -/
def Chip.checkRun (c : Chip) : Nat :=
  let t := c.checkTasks
  if t ≠ 0 then t
  else if (List.finRange 4).all c.ringOk && c.retainOk then 0 else 4

end Sys2Proof.Machine
end

