-- ==== Sys2Proof/Machine/Olc.lean ====
section
/-! DEFINITION. The online change controller: loading and activating change packages (R192 to R207, R212, R213) and the commands of
the force table (R208 to R211). -/

namespace Sys2Proof.Machine

/-! ### New descriptors -/

/-- The task whose descriptor the register at an address belongs to: SCN_TCFG to SCN_TPART3 and the RO registers of SHD. -/
def descTask (a : Nat) : Option (Fin 32) :=
  (List.finRange 32).find? fun t =>
    (SCN_TCFG.reg t ≤ a && a ≤ SCN_TPART3.reg t) || a == SHD_TCFG.reg t || (SHD_TPDBASE.reg t ≤ a && a ≤ SHD_TPBLEN.reg t)

/-- The task runs PAIRED after an activation that leaves it this mode register (R199). -/
def Chip.pairedNext (c : Chip) (t : Fin 32) (added : Bool) : Bool :=
  if added then c.flag (SHD_TCFG.PAIRINIT t) else c.flag (SHD_TMODE.MODE t) && c.flag (SHD_TCFG.PAIROK t)

/-- The descriptor set of a package is loaded, and each changed task takes its mode (R199). -/
def Chip.loadDesc (c : Chip) (regs : List (Nat × Word)) (mask : Word) : Chip :=
  let old := c
  let c := c.forIn (regs.filter fun r => (descTask r.1).isSome) fun r c => c.wr r.1 r.2
  c.forFin 32 fun t c =>
    if !mask.getLsbD t || c.kind t == 0 then c
    else
      let m := c.pairedNext t (old.kind t == 0)
      ((c.putB (SHD_TMODE.MODE t) m).putB (SHD_TSTAT.CUR t) m).warmStop t

/-! ### Migration -/

/-- A range of `n` units lies inside another. -/
def within (a n lo hi : Nat) : Bool := lo ≤ a && a + n ≤ hi
/-- `n` bytes in the primary data store. -/
def inData (a n : Nat) : Bool := within a n 0x20000000 0x20300000
/-- `n` bits in the marker and instance-bit areas. -/
def inBits (a n : Nat) : Bool := within a n 0x30000 0xA00000

/-- The 16-byte entries of a migration map (Table 7.3). -/
def migEntries (l : List Byte) : List MigEntry :=
  let w (i : Nat) : Word := wordOf ((l.drop (4 * i)).take 4)
  (List.range (l.length / 16)).map fun i =>
    let v := (w (4 * i + 1)).toNat
    { id := w (4 * i), action := v % 16, fromSz := v / 16 % 4, toSz := v / 64 % 4, count := v / 256, src := w (4 * i + 2), dst := w (4 * i + 3) }

/-- A migration-map entry obeys R198, with `init` bytes of initial values. -/
def migOk (init : Nat) (m : MigEntry) : Bool :=
  let s := m.src.toNat
  let d := m.dst.toNat
  let n := m.count
  let plain := m.fromSz == 0 && m.toSz == 0
  1 ≤ n && n < 2 ^ 24 &&
    match m.action with
    | 1 => plain && n % 8 == 0 && s % 8 == 0 && d % 8 == 0 && inData s n && inData d n
    | 2 | 3 => m.fromSz < m.toSz && m.toSz ≤ 3 && inData s (n * 2 ^ m.fromSz) && inData d (n * 2 ^ m.toSz)
    | 4 => plain && n % 8 == 0 && s % 8 == 0 && d % 8 == 0 && s + n ≤ init && inData d n
    | 5 => plain
    | 6 => plain && s % 8 == 0 && d % 8 == 0 && inBits s n && inBits d n
    | 7 => plain && inBits d n
    | 8 => plain
    | _ => false

/-- A byte of the protected storage of a task that runs PAIRED. -/
def Chip.protAny (c : Chip) (a : Nat) : Bool :=
  (List.finRange 32).any fun t => c.kind t != 0 && c.flag (SHD_TSTAT.CUR t) && c.protData t a
/-- A bit of the protected storage of a task that runs PAIRED. -/
def Chip.protBitAny (c : Chip) (b : Nat) : Bool :=
  (List.finRange 32).any fun t => c.kind t != 0 && c.flag (SHD_TSTAT.CUR t) && c.protBit t b

/-- The units that an entry writes (Table 7.4), twice those in protected storage (R199), under the descriptors in force. -/
def Chip.migUnits (c : Chip) (m : MigEntry) : Nat :=
  let n := m.count
  let u := match m.action with
    | 1 | 4 => n / 8
    | 2 | 3 => (n * 2 ^ m.toSz + 7) / 8
    | 6 | 7 => (n + 63) / 64
    | _ => 0
  let prot := match m.action with
    | 6 | 7 => c.protBitAny m.dst.toNat
    | _ => c.protAny m.dst.toNat
  if prot then 2 * u else u

/-- T_MIG in units of 0.5 ns (R200). -/
def Chip.tMig (c : Chip) (l : List MigEntry) : Nat := 2000 + 10 * l.length + 5 * (l.map c.migUnits).sum

/-- A migrated value of `n` bytes is stored, with its complement in protected storage (R199). -/
def Chip.migStore (c : Chip) (a n v : Nat) : Chip :=
  let c := c.storeOne ⟨.data, a, n, BitVec.ofNat 64 v⟩
  if c.protAny a then (c.st (a + 0x300000) n (~~~(BitVec.ofNat 64 v : Long)).toNat).clean (a + 0x300000) n else c
/-- A migrated bit is stored, with its complement in protected storage. -/
def Chip.migBit (c : Chip) (b : Nat) (v : Bool) : Chip :=
  let c := c.stBit b v
  if c.protBitAny b then c.stBit (b + 0x600000) (!v) else c

/-- A value of `n` bytes, sign- or zero-extended to 64 bits. -/
def extend (signed : Bool) (n v : Nat) : Nat :=
  if signed && v.testBit (8 * n - 1) then 2 ^ 64 - 2 ^ (8 * n) + v else v

/-- One entry of the migration map executes (R198). A DISCARD is recorded by its ID in the event recorder, and by ID and COUNT in the controller
(log entry 112: the spec names no register that shows COUNT). -/
def Chip.migrate1 (c : Chip) (init : List Byte) (m : MigEntry) : Chip :=
  let s := m.src.toNat
  let d := m.dst.toNat
  match m.action with
  | 1 => c.forIn (List.range (m.count / 8)) fun i c => c.migStore (d + 8 * i) 8 (c.ld (s + 8 * i) 8)
  | 2 | 3 =>
    let f := 2 ^ m.fromSz
    let t := 2 ^ m.toSz
    c.forIn (List.range m.count) fun i c => c.migStore (d + t * i) t (extend (m.action == 2) f (c.ld (s + f * i) f))
  | 4 => c.forIn (List.range (m.count / 8)) fun i c =>
      c.migStore (d + 8 * i) 8 (((List.range 8).map fun j => (init.getD (s + 8 * i + j) 0).toNat * 2 ^ (8 * j)).sum)
  | 6 => c.forIn (List.range m.count) fun i c => c.migBit (d + i) (c.ldBit (s + i))
  | 7 => c.forIn (List.range m.count) fun i c => c.migBit (d + i) (m.src.getLsbD 0)
  | 5 | 8 => (((c.incWrap OLC_DISCNT.CNT).set1 OLC_STAT.DISC).post 0x002 m.id).modOlc fun o => { o with discs := o.discs ++ [(m.id, m.count)] }
  | _ => c

/-! ### Forces at an activation -/

/-- A force is dropped (R210). -/
def Chip.forceDrop (c : Chip) (id : Word) (rsn : Nat) : Chip :=
  let c := (((c.wr OLC_FDID.reg id).put OLC_FDRSN.FDRSN rsn).incSat OLC_FDRSN.CNT).set1 OLC_STAT.FDROP
  let c := c.post 0x001 id
  if c.flag OLC_CTL.HDBEN then c.c2hSet (1 <<< c.get OLC_CTL.HDB) else c

/-- Every entry is resolved against the new symbol directory (R210); a change staged for an entry that has no owner now takes effect (R209). -/
def Chip.forceResolve (c : Chip) (syms : List Symbol) : Chip :=
  let c := c.modOlc fun o => { o with syms := syms }
  let l := c.olc.forces
  let c := (c.modOlc fun o => { o with forces := [] }).forIn l fun f c =>
    match syms.find? (·.id == f.sym.id) with
    | none => c.forceDrop f.sym.id 1
    | some y =>
      if y.space ≠ f.sym.space ∨ y.size ≠ f.sym.size then c.forceDrop f.sym.id 2
      else c.modOlc fun o => { o with forces := o.forces ++ [{ f with sym := y, owner := c.forceOwner y }] }
  (c.forceEffect fun f => f.owner.isNone).fcnt

/-! ### The exchange -/

/-- A task of the new set that the activation changed (R193, R143): FIRST_SCAN is set and the halves of its protected storage agree;
an added one starts anew, its first release at least 100 µs later (R202), and a removed one leaves its slot unused. -/
def Chip.changed (c : Chip) (t : Fin 32) (wasUnused : Bool) : Chip :=
  if c.kind t == 0 then
    ((c.modTask t fun k => { Task.zero with outDone := k.outDone }).wr (SCN_TSTAT.reg t) 0).wr (SHD_TSTAT.reg t) 0
  else
    let c := c.modTask t fun k => { k with first := true }
    let c := if c.flag (SHD_TSTAT.CUR t) then c.pairStorage t else c
    if wasUnused then
      let c := c.modTask t fun k => { k with outDone := false, lastRel := none, holdOff := c.tb + 100000 }
      let c := ((c.wr (SCN_TSCAN.reg t) 0).wr (SCN_TMAX.reg t) 0).putB (SCN_TSTAT.ACT t) c.scanning
      if c.kind t == kCYC then c.set1 (SCN_TSTAT.SUBST t) else c
    else c

/-- The pages of the active code half count as written when the halves exchange while a resync copies them (R275). -/
def Chip.markCode (c : Chip) : Chip :=
  if c.hsb.resync.isSome then c.forIn (List.range 0x300) fun i c => c.mark (0x10000000 + 4096 * i) else c

/-- The steps of R201: the map is executed, the force table resolved, and code halves, descriptors, build ID and sequence number change
in one handshake. -/
def Chip.exchange (c : Chip) : Chip :=
  match c.olc.pkg with
  | none => c
  | some p =>
    let old := c
    let mask := c.olc.chgMask
    let c := c.loadDesc p.regs mask
    let c := (c.forIn (migEntries p.map) fun m c => c.migrate1 p.init m).forceResolve p.syms
    let c := c.swapHalves.markCode
    let c := c.forFin 32 fun t c => if mask.getLsbD t then c.changed t (old.kind t == 0) else c
    let c := (((c.wr OLC_RUNIDL.reg (c.rd OLC_STGIDL.reg)).wr OLC_RUNIDH.reg (c.rd OLC_STGIDH.reg)).wr OLC_STGIDL.reg 0).wr OLC_STGIDH.reg 0
    let c := ((c.incWrap OLC_ACTSEQ.SEQ).set1 OLC_STAT.ACTDONE).put OLC_STATE.STATE 5
    let c := { c with image := c.image.map fun (i : Image) => { i with sec := { i.sec with retain := p.retain } } }
    c.modOlc fun o => { o with pkg := none, digest := o.pkgDigest, hold := false, fwd := none }

/-- No task has an activation (R202), and no TOKEN of one that the active unit had released before its hold waits. -/
def Chip.noActivation (c : Chip) : Bool :=
  c.configured.all fun t => !(c.task t).live && !(c.task t).reexec && (c.task t).old.isNone && (c.phase t == 0 || c.phase t == 6) &&
    !(c.mode == mFOLLOW && (c.task t).token.any fun k => k.ts.toNat ≤ c.olc.holdAt.toNat)

/-- ALLTASK_EXCHANGE (R202): with no activation left, the exchange takes place, and the releases held begin, late. -/
def execAlltaskExchange (now : Time) (s : State) : Host.Outcome State Fault Refusal := s.on fun c =>
  let c := c.arrive now
  if !c.olc.hold || c.get OLC_STATE.STATE ≠ 3 || !c.noActivation then c
  else c.exchange.forFin 32 fun t c => if c.mode == mFOLLOW then c.followStart t else if c.kind t == kCYC then c.lateStart t else c

/-! ### Loading -/

/-- A portion of 4 KiB of the active code half is copied into the staging half (R194). -/
def Chip.copyCode (c : Chip) (k : Nat) : Chip :=
  let a := 0x10000000 + 4096 * k
  let d := a + 0x300000
  let act := c.mem.filter fun e => a ≤ e.1 && e.1 < a + 4096
  let lo := c.mem.filter fun e => e.1 < d
  let hi := c.mem.filter fun e => d + 4096 ≤ e.1
  { c with mem := lo ++ act.map (fun e => (e.1 + 0x300000, e.2)) ++ hi }

/-- OLC_LDSRC names management memory, the host window or the xSPI window. -/
def srcOk (a n : Nat) : Bool :=
  a % 8 == 0 && (within a n 0x3C000000 0x3C0A0000 || within a n 0x38000000 0x38080000 || within a n 0x70000000 0x90000000)

/-- A little-endian word of the package in the internal buffer (Table 7.1). -/
def Chip.pkgW (c : Chip) (o : Nat) : Nat := (wordOf ((c.olc.buf.drop o).take 4)).toNat
/-- Two words of it. -/
def Chip.pkgL (c : Chip) (o : Nat) : Long := BitVec.ofNat 64 (c.pkgW o + 2 ^ 32 * c.pkgW (o + 4))

/-- The portions of the copies of R194: those of the code half, then those of the package. -/
def loadCode : Nat := 768
/-- The bytes of the package that LOAD copies: OLC_LDLEN, at most the longest package. -/
def Chip.loadLen (c : Chip) : Nat := min (c.get OLC_LDLEN.LEN) 0x400000

/-- A portion of a LOAD is admitted and copied, and the next one asks for its own admission (R194). What lies beyond the two copies are the
portions of the code segments, which OLC_LOAD_COMPLETE writes. -/
def Chip.loadPortion (c : Chip) : Chip :=
  let k := c.olc.portions
  let c :=
    if k < loadCode then c.copyCode k
    else
      let o := 4096 * (k - loadCode)
      let l := c.ldBytes (c.get OLC_LDSRC.SRC + o) (min 4096 (c.loadLen - o))
      c.modOlc fun m => { m with buf := m.buf ++ l }
  ((c.modOlc fun m => { m with portions := k + 1 }).turnEnd 4 .olc).turnAsk 4 .olc

/-- The portions that a LOAD of these sections takes. -/
def Chip.loadPortions (c : Chip) (p : PkgSections) : Nat :=
  loadCode + (c.loadLen + 4095) / 4096 + (p.code.map fun g => (g.2.length + 4095) / 4096).sum

/-- The header of Table 7.1 is valid (LDERR 1), and the TASK of a task package names a task (DESIGN CHOICE, log entry 135: R195 gives no code for that). -/
def Chip.pkgHeaderOk (c : Chip) : Bool :=
  let n := c.pkgW 8
  srcOk (c.get OLC_LDSRC.SRC) n && c.pkgW 0 == 0x4B47504F && c.pkgW 4 == 1 && n % 8 == 0 && 64 ≤ n && n ≤ 0x400000 &&
    n == c.get OLC_LDLEN.LEN && c.pkgW 0x20 % 256 ≤ 1 && (c.pkgW 0x20 % 256 == 1 || c.pkgW 0x20 / 256 % 256 < 32)

/-- A range of the data store or of the bits holds storage of a symbol that belongs to another task. -/
def foreign (syms : List Symbol) (t : Fin 32) (bits : Bool) (a n : Nat) : Bool :=
  syms.any fun y => y.owner != t &&
    (if bits then (y.space == 4 || y.space == 5) && overlap a n y.loc 1 else y.space == 6 && overlap a n y.loc (2 ^ y.size))

/-- A migration-map entry names storage of another owner (LDERR 6). -/
def migForeign (old new : List Symbol) (t : Fin 32) (m : MigEntry) : Bool :=
  let s := m.src.toNat
  let d := m.dst.toNat
  ((old ++ new).any fun y => y.id == m.id && y.owner != t) ||
    match m.action with
    | 1 => foreign old t false s m.count || foreign new t false d m.count
    | 2 | 3 => foreign old t false s (m.count * 2 ^ m.fromSz) || foreign new t false d (m.count * 2 ^ m.toSz)
    | 4 => foreign new t false d m.count
    | 6 => foreign old t true s m.count || foreign new t true d m.count
    | 7 => foreign new t true d m.count
    | _ => false

/-- A task package stays within its scope (R192, LDERR 6): its task's code range and descriptor, without kind, logical engine, priority,
period, phase and partition. -/
def Chip.scopeOk (c n : Chip) (p : PkgSections) (t : Fin 32) : Bool :=
  (p.code.all fun s => within s.1 s.2.length p.codeLo p.codeHi) && ((migEntries p.map).all fun m => !migForeign c.olc.syms p.syms t m) &&
    (p.regs.all fun r => descTask r.1 == some t) && n.kind t == c.kind t && n.get (SCN_TCFG.SUB t) == c.get (SCN_TCFG.SUB t) &&
    n.leOf t == c.leOf t && n.get (SCN_TCFG.PRIO t) == c.get (SCN_TCFG.PRIO t) &&
    n.rd (SCN_TPERIOD.reg t) == c.rd (SCN_TPERIOD.reg t) && n.rd (SCN_TPHASE.reg t) == c.rd (SCN_TPHASE.reg t) &&
    (List.finRange 4).all fun r => n.partMask t r == c.partMask t r

/-- LDERR of a package (Table 7.2); 0 when it is accepted. -/
def Chip.ldErr (c : Chip) (p : PkgSections) : Nat :=
  let map := migEntries p.map
  if !c.pkgHeaderOk then 1
  else if crc32c (c.olc.buf.drop 0x10) ≠ BitVec.ofNat 32 (c.pkgW 12) then 2
  else if c.pkgW 0x10 ≠ c.get OLC_RUNIDL.RUNID ∨ c.pkgW 0x14 ≠ c.get OLC_RUNIDH.RUNID then 3
  else
    let n := c.loadDesc p.regs (BitVec.ofNat 32 (c.pkgW 0x24))
    if n.checkTasks ≠ 0 then 4
    else if map.any (fun m => !migOk p.init.length m) || 2000 * c.get OLC_MIGMAX.MIGMAX < n.tMig map then 5
    else if c.pkgW 0x20 % 256 = 0 && !c.scopeOk n p (Fin.ofNat 32 (c.pkgW 0x20 / 256)) then 6
    else 0

/-- The staged package is forgotten. -/
def Chip.pkgEmpty (c : Chip) : Chip :=
  let c := (((c.put OLC_STATE.STATE 0).wr OLC_STGIDL.reg 0).wr OLC_STGIDH.reg 0).wr OLC_MIGT.reg 0
  (c.clr OLC_ACT.ARMSCOPE).modOlc fun o => { o with pkg := none, chgMask := 0 }

/-- A LOAD command (R194, R195). -/
def Chip.olcLoad (c : Chip) : Chip :=
  let st := c.get OLC_STATE.STATE
  if st == 1 || st == 3 || st == 4 then (c.put OLC_STATE.LDERR 7).set1 OLC_STAT.ERR
  else ((c.pkgEmpty.put OLC_STATE.STATE 1).modOlc fun o => { o with portions := 0, buf := [] }).turnAsk 4 .olc

/-- OLC_LOAD_COMPLETE (R194, R195, R200): once every portion has been admitted. -/
def execOlcLoadComplete (p : PkgSections) (now : Time) (s : State) : Host.Outcome State Fault Refusal := s.on fun c =>
  let c := c.arrive now
  if c.get OLC_STATE.STATE ≠ 1 || c.olc.portions < c.loadPortions p then c
  else
    let c := c.turnEnd 4 .olc
    let e := c.ldErr p
    if e ≠ 0 then (((c.put OLC_STATE.LDERR e).set1 OLC_STAT.ERR).put OLC_STATE.STATE 0).modOlc fun o => { o with buf := [] }
    else
      let mask : Word := BitVec.ofNat 32 (c.pkgW 0x24)
      let t := ((c.loadDesc p.regs mask).tMig (migEntries p.map) + 19) / 20
      let c := ((c.wr OLC_STGIDL.reg (BitVec.ofNat 32 (c.pkgW 0x18))).wr OLC_STGIDH.reg (BitVec.ofNat 32 (c.pkgW 0x1C))).put
        OLC_ACT.ARMSCOPE (c.pkgW 0x20 % 256)
      let c := c.forIn p.code fun g c => if within g.1 g.2.length 0x10000000 0x10300000 then c.stBytes (g.1 + 0x300000) g.2 else c
      let c := c.modOlc fun o => { o with
        pkg := some p, pkgTask := Fin.ofNat 32 (c.pkgW 0x20 / 256), chgMask := mask, pkgDigest := c.pkgL 0x28,
        pkgCrc := BitVec.ofNat 32 (c.pkgW 12), buf := [] }
      ((c.put OLC_MIGT.MIGT t).put OLC_STATE.STATE 2).set1 OLC_STAT.LDDONE

/-! ### Activating -/

/-- An activation is refused with an ACTERR code (R204). -/
def Chip.actRefuse (c : Chip) (e : Nat) : Chip := (c.put OLC_STATE.ACTERR e).set1 OLC_STAT.ERR

/-- The pivot task of the staged package (R197); none for an all-task package without cyclic task. -/
def Chip.pivotOf (c : Chip) : Option (Fin 32) :=
  if c.flag OLC_ACT.ARMSCOPE then c.configured.find? fun t => c.kind t == kCYC else some c.olc.pkgTask

/-- The partner condition of R212: it is in FOLLOW and holds the same package staged. -/
def Chip.partnerStaged (c : Chip) : Bool :=
  c.hsb.partner.any (fun r => r.mode == mFOLLOW) && c.rd OLC_PSTGL.reg == c.rd OLC_STGIDL.reg &&
    c.rd OLC_PSTGH.reg == c.rd OLC_STGIDH.reg && c.hsb.pstgCrc == c.olc.pkgCrc

/-- An activation is armed for a scan number: it waits for its activation point, or has reached it when the pivot task has no activation and is not
cyclic (R197). The number is latched here (DESIGN CHOICE, log entry 129: a later write of OLC_ACTSCAN does not move the activation point). -/
def Chip.arm (c : Chip) (n : Word) : Chip :=
  let c := (c.put OLC_STATE.STATE 3).modOlc fun o => { o with actScan := n }
  match c.pivotOf with
  | none => c.modOlc fun o => { o with hold := true, holdAt := c.tb }
  | some t =>
    let c := c.modOlc fun o => { o with pivot := t }
    if c.kind t != kCYC && !(c.task t).live then c.actPoint t else c

/-- An ACTIVATE command (R197, R204, R212). -/
def Chip.olcActivate (c : Chip) : Chip :=
  let num := match c.pivotOf with
    | some t => c.boundaryNum t
    | none => 0
  let cyc := c.pivotOf.any fun t => c.kind t == kCYC
  let scan := c.get OLC_ACTSCAN.SCAN
  if c.mode != mRUN && c.mode != mSTOP then c.actRefuse 3
  else if c.get OLC_STATE.STATE ≠ 2 then c.actRefuse 1
  else if c.mode == mSTOP then c.exchange
  else if cyc && scan ≠ 0 && scan < num.toNat then c.actRefuse 2
  else if c.pairMember && !c.partnerStaged then c.actRefuse 4
  else
    let n : Word := if scan = 0 || !cyc then num else BitVec.ofNat 32 scan
    let t := c.pivotOf.getD 0
    let later := cyc && !(2 ≤ c.phase t && n = c.scanNum t)
    let c := c.doIf c.leading fun c =>
      if later then c.modOlc fun o => { o with fwd := some n } else c.send (.stage t OLC_CMD.reg 0x5A3C0003 n)
    c.arm n

/-- DISARM: from ARMED to STAGED. A partner that has been told of the activation is told of this too (DEDUCED, log entry 113). -/
def Chip.olcDisarm (c : Chip) : Chip :=
  if c.get OLC_STATE.STATE == 3 then
    let c := c.doIf (c.leading && c.olc.fwd.isNone) fun c => c.send (.stage (c.pivotOf.getD 0) OLC_CMD.reg 0x5A3C0002 0)
    (c.put OLC_STATE.STATE 2).modOlc fun o => { o with hold := false, fwd := none }
  else c

/-- A DISARM by an agent; on a standby in FOLLOW it is ignored and recorded, as ACTIVATE is (R255; log entry 113). -/
def Chip.olcDisarmCmd (c : Chip) (w : Cmd) : Chip :=
  if c.mode == mFOLLOW then (c.refuse w.agent true OLC_CMD.reg).answer [] else c.olcDisarm

/-- DISCARD: to EMPTY, refused while LOADING, ARMED or MIGRATING. -/
def Chip.olcDiscard (c : Chip) : Chip :=
  let st := c.get OLC_STATE.STATE
  if st == 1 || st == 3 || st == 4 then c else c.pkgEmpty

/-- A command written to OLC_CMD with its key; a standby's refusal is recorded (R255). -/
def Chip.olcCmd (c : Chip) (w : Cmd) (f : Chip → Chip) : Chip :=
  (c.arrive w.now).allow (isMc w.agent || isHost w.agent) w.agent OLC_CMD.reg fun c =>
    if OLC_CMD.KEY.of w.value = 0x5A3C then f c else c

/-- OLC_LOAD. -/
def execOlcLoad (w : Cmd) (s : State) : Host.Outcome State Fault Refusal := s.on fun c => c.olcCmd w (·.olcLoad)
/-- OLC_DISARM (R204). -/
def execOlcDisarm (w : Cmd) (s : State) : Host.Outcome State Fault Refusal := s.on fun c => c.olcCmd w fun c => c.olcDisarmCmd w
/-- ACTIVATE, which the guard refuses to the standby's own agents (R212). -/
def Chip.olcActivateCmd (c : Chip) (w : Cmd) : Chip :=
  (c.doIf (c.mode == mFOLLOW) fun c => (c.refuse w.agent true OLC_CMD.reg).denied w.agent 0).olcActivate
/-- OLC_CMD is written; other codes are ignored. -/
def Chip.olcCmdWrite (c : Chip) (w : Cmd) : Chip := c.olcCmd w fun c =>
  match OLC_CMD.CMD.of w.value with
  | 1 => c.olcLoad
  | 2 => c.olcDisarmCmd w
  | 3 => c.olcActivateCmd w
  | 4 => c.olcDiscard
  | _ => c
/-- OLC_ACTIVATE. -/
def execOlcActivate (w : Cmd) (s : State) : Host.Outcome State Fault Refusal := s.on fun c =>
  c.olcCmd w fun c => c.olcActivateCmd w
/-- OLC_DISCARD (R196). -/
def execOlcDiscard (w : Cmd) (s : State) : Host.Outcome State Fault Refusal := s.on fun c => c.olcCmd w (·.olcDiscard)

/-! ### The force table -/

/-- CLEAR ALL: each entry at its own owner's boundary (R209). -/
def Chip.forceClearAll (c : Chip) : Chip := c.forIn (c.olc.forces.map (·.sym.id)) fun id c => c.forceClear id

/-- A command written to OLC_FCMD with its key; the standby refuses it with FERR 3, and the guard records it (R212, R255). -/
def Chip.forceCmd (c : Chip) (w : Cmd) (f : Chip → Chip) : Chip :=
  (c.arrive w.now).allow (isMc w.agent || isHost w.agent) w.agent OLC_FCMD.reg fun c =>
    if OLC_FCMD.KEY.of w.value ≠ 0x5A3C then c
    else if c.mode == mFOLLOW then ((c.refuse w.agent true OLC_FCMD.reg).denied w.agent 0).forceRefuse 3
    else f c

/-- The ID of the next force command. -/
def Chip.forceId (c : Chip) : Word := c.rd OLC_FID.reg
/-- The value of the next SET. -/
def Chip.forceVal (c : Chip) : Long := c.rd OLC_FVALH.reg ++ c.rd OLC_FVALL.reg

/-- FORCE_SET. -/
def execForceSet (w : Cmd) (s : State) : Host.Outcome State Fault Refusal := s.on fun c =>
  c.forceCmd w fun c => c.forceSet c.forceId c.forceVal
/-- FORCE_CLEAR. -/
def execForceClear (w : Cmd) (s : State) : Host.Outcome State Fault Refusal := s.on fun c =>
  c.forceCmd w fun c => c.forceClear c.forceId
/-- FORCE_CLEAR_ALL. -/
def execForceClearAll (w : Cmd) (s : State) : Host.Outcome State Fault Refusal := s.on fun c => c.forceCmd w (·.forceClearAll)

end Sys2Proof.Machine
end

