-- ==== Sys2Proof/Machine/Nvs.lean ====
section
/-! DEFINITION. The parameter store (R374 to R392): parameter records in two banks, wear-spread counters, the flush areas and
passwords. Its contents are the window at 0x6000_0000; an erased cell reads as unlisted memory, which no format of the store takes as
valid. -/

namespace Sys2Proof.Machine

/-- Change the parameter store. -/
def Chip.modNvs (c : Chip) (f : Nvs → Nvs) : Chip := { c with nvs := f c.nvs }

/-- The partition of a window offset (Table 14.2). -/
def nvsPart (o : Nat) : Nat :=
  if o < 0x28000 then 0 else if o < 0x38000 then 1 else if o < 0x68000 then 2 else if o < 0x70000 then 3 else 4

/-- The number of the cell at a window address (R374). -/
def cellOf (a : Nat) : Nat := (a - 0x60000000) / 8

/-- Cells are erased. -/
def Chip.eraseNvs (c : Chip) (o n : Nat) : Chip :=
  { c with
    mem := c.mem.filter fun e => !(0x60000000 + o ≤ e.1 && e.1 < 0x60000000 + o + n)
    nvs := { c.nvs with bad := c.nvs.bad.filter fun k => !(o ≤ 8 * k && 8 * k < o + n) } }

/-- Cells come to read with an uncorrectable error, and so as erased ones do (R375; DESIGN CHOICE, log entry 138), and the writes of some
come to fail. -/
def Chip.cells (c : Chip) (k : Cells) : Chip :=
  { c with
    mem := c.mem.filter fun e => !(0x60000000 ≤ e.1 && e.1 < 0x60080000 && k.bad.contains (cellOf e.1))
    nvs := { c.nvs with bad := c.nvs.bad ++ k.bad, stuck := c.nvs.stuck ++ k.stuck } }

/-- Some cell of the range reads with an uncorrectable error. -/
def Chip.cellsBad (c : Chip) (a n : Nat) : Bool := c.nvs.bad.any fun k => a < 0x60000000 + 8 * k + 8 && 0x60000000 + 8 * k < a + n

/-- A cell takes a value. -/
def Chip.cellPut (c : Chip) (a v : Nat) : Chip := (c.st a 8 v).modNvs fun n => { n with bad := n.bad.filter (· != cellOf a) }

/-- A cell holds an unstated value (R375, R376). -/
def Chip.cellFree (c : Chip) (a : Nat) : Chip :=
  let (lo, c) := c.freeW
  let (hi, c) := c.freeW
  c.cellPut a (lo.toNat + 2 ^ 32 * hi.toNat)

/-- Cell writes in their order, addresses and values: at the first one that fails its read-back twice they end, and that cell holds an unstated
value (R375; log entry 92). -/
def Chip.cellSeq (c : Chip) : List (Nat × Nat) → Bool × Chip
  | [] => (true, c)
  | e :: l => if c.nvs.stuck.contains (cellOf e.1) then (false, c.cellFree e.1) else (c.cellPut e.1 e.2).cellSeq l

/-- A cell write failed its read-back twice (R375). -/
def Chip.nvsVerr (c : Chip) (part : Nat) : Chip := (c.set1 NVS_STAT.VERR).fault 1 0x0D part 0x55

/-- Cell writes in a partition, of which one that fails is told (R375); whether all succeeded comes first. -/
def Chip.cellsPut (c : Chip) (part : Nat) (l : List (Nat × Nat)) : Bool × Chip :=
  let (ok, c) := c.cellSeq l
  (ok, if ok then c else c.nvsVerr part)

/-- A read found an uncorrectable error (R375). -/
def Chip.nvsEcc (c : Chip) (part : Nat) : Chip := c.fault 1 0x0D part 0x57

/-- Cells are read: an uncorrectable error among them is a fault (R375). -/
def Chip.noteCells (c : Chip) (a n : Nat) : Chip := if c.cellsBad a n then c.nvsEcc (nvsPart (a - 0x60000000)) else c

/-! ### Records -/

/-- The bank offset of a record's slot, and its LEN where the table gives it (R378). -/
def Chip.recSlot (c : Chip) (r : Nat) : Option (Nat × Option Nat) :=
  if r < 8 then some (64 * r, none)
  else match c.nvs.recTab.find? (·.1 == r) with
    | some (_, o, n) => some (o, some n)
    | none => none

/-- The window address of a copy. -/
def copyAt (bank ofs : Nat) : Nat := 0x60000000 + 0x14000 * bank + ofs

/-- LEN of a copy as its header gives it. -/
def Chip.copyLen (c : Chip) (bank ofs : Nat) : Nat := c.ld (copyAt bank ofs) 2
/-- SEQ of a copy. -/
def Chip.copySeq (c : Chip) (bank ofs : Nat) : Nat := c.ld (copyAt bank ofs + 4) 4
/-- The data of a copy. -/
def Chip.copyData (c : Chip) (bank ofs : Nat) : List Byte := c.ldBytes (copyAt bank ofs + 16) (c.copyLen bank ofs)

/-- Some cell of a copy reads as invalid. A copy whose LEN the table does not give is read as far as a chip record reaches (R378). -/
def Chip.copyBad (c : Chip) (bank : Nat) (slot : Nat × Option Nat) : Bool :=
  c.cellsBad (copyAt bank slot.1) (16 + slot.2.getD (min 48 (c.copyLen bank slot.1)))

/-- A copy is valid (R380). -/
def Chip.copyOk (c : Chip) (bank r : Nat) (slot : Nat × Option Nat) : Bool :=
  let a := copyAt bank slot.1
  let n := c.copyLen bank slot.1
  (match slot.2 with
    | some m => n == m
    | none => n ≤ 48) && !c.copyBad bank slot &&
    (c.ldB (a + 2)).toNat == r && c.ldB (a + 3) == 0xA5 &&
    crc32c (c.ldBytes a 8 ++ c.copyData bank slot.1) == BitVec.ofNat 32 (c.ld (a + 8) 4)

/-- The chosen copy of a record (R380), and whether the sequence numbers leave it open. -/
def Chip.chosen (c : Chip) (r : Nat) (slot : Nat × Option Nat) : Option Nat × Bool :=
  match c.copyOk 0 r slot, c.copyOk 1 r slot with
  | true, false => (some 0, false)
  | false, true => (some 1, false)
  | false, false => (none, false)
  | true, true =>
    let d := (c.copySeq 1 slot.1 + 2 ^ 32 - c.copySeq 0 slot.1) % 2 ^ 32
    if d = 0 ∨ d = 2 ^ 31 then (some 0, true) else (some (if d < 2 ^ 31 then 1 else 0), false)

/-- A choice that the sequence numbers leave open is a DEGRADE fault (R380). -/
def Chip.noteSeqEq (c : Chip) (eq : Bool) : Chip := if eq then (c.set1 NVS_STAT.SEQEQ).fault 1 0x0D 0 0x54 else c

/-- Both copies of a record are read (R375, R380): what the choice tells. -/
def Chip.recNotes (c : Chip) (r : Nat) (slot : Nat × Option Nat) : Chip :=
  (if c.copyBad 0 slot || c.copyBad 1 slot then c.nvsEcc 0 else c).noteSeqEq (c.chosen r slot).2

/-- The first header cell of a copy (Table 14.3): LEN, REC, MARK and SEQ. -/
def headCell (r seq len : Nat) : Nat := len + 2 ^ 16 * r + 0xA5000000 + 2 ^ 32 * seq

/-- The cell writes of a new copy in their order (R381). -/
def copyCells (bank r ofs seq : Nat) (data : List Byte) : List (Nat × Nat) :=
  let a := copyAt bank ofs
  let h := headCell r seq data.length
  [(a + 8, 0)] ++ (List.range ((data.length + 7) / 8)).map (fun i => (a + 16 + 8 * i, recField data (8 * i) 8)) ++
    [(a, h), (a + 8, (crc32c ((List.range 8).map (fun i => BitVec.ofNat 8 (h / 2 ^ (8 * i))) ++ data)).toNat)]

/-- The bank and SEQ of a new copy (R381): the bank that does not hold the chosen copy, and the next SEQ. -/
def Chip.nextCopy (c : Chip) (r : Nat) (slot : Nat × Option Nat) : Nat × Nat :=
  match (c.chosen r slot).1 with
  | some b => (1 - b, (c.copySeq b slot.1 + 1) % 2 ^ 32)
  | none => (0, 1)

/-- The slot of a chip record (R378). -/
def chipSlot (r : Nat) : Nat × Option Nat := (64 * r, none)

/-- A chip record is written by the hardware itself: a write that fails leaves the chosen copy (R375, R381). -/
def Chip.chipRec (c : Chip) (r : Nat) (data : List Byte) : Chip :=
  let (b, q) := c.nextCopy r (chipSlot r)
  ((c.recNotes r (chipSlot r)).cellsPut 0 (copyCells b r (64 * r) q data)).2

/-- A chip record is read. -/
def Chip.chipNotes (c : Chip) (r : Nat) : Chip := c.recNotes r (chipSlot r)

/-- The data of a chip record; empty when it has no valid copy. -/
def Chip.chipRecData (c : Chip) (r : Nat) : List Byte :=
  match (c.chosen r (chipSlot r)).1 with
  | some b => c.copyData b (64 * r)
  | none => []

/-! ### Passwords -/

/-- Agents that passwords bind, and that may write the NVS block. -/
def Chip.nvsWriter (c : Chip) (a : AgentId) : Bool := isMc a || isHost a || c.isDebug a 2

/-- The address of a password. -/
def pwAddr (p : Nat) (write : Bool) : Nat := 0x6006A000 + 16 * p + 8 * write.toNat

/-- An access of an agent to a partition is open to it (R389 to R391). -/
def Chip.pwOpen (c : Chip) (a : AgentId) (p : Nat) (write : Bool) : Bool :=
  !c.bitOf NVS_PWSTAT.LOCKD p && (c.ld (pwAddr p write) 8 == 0 || c.nvs.unlocked.contains (a.toNat, p, write))

/-- The password registers clear, and PWERR and FAILS report the entry. -/
def Chip.pwEnd (c : Chip) (p err : Nat) : Chip :=
  (((c.wr NVS_PWL.reg 0).wr NVS_PWH.reg 0).put NVS_PWSTAT.PWERR err).put NVS_PWSTAT.FAILS (c.nvs.fails.toList.getD p 0)

/-- The password in NVS_PWL and NVS_PWH. -/
def Chip.pwEntry (c : Chip) : Nat := (c.rd NVS_PWL.reg).toNat + 2 ^ 32 * (c.rd NVS_PWH.reg).toNat

/-- OP 0 of NVS_PWSEL (R390, R391). -/
def Chip.pwEnter (c : Chip) (w : Cmd) : Chip :=
  c.allow (c.nvsWriter w.agent) w.agent NVS_PWSEL.reg fun c =>
    let p := NVS_PWSEL.PART.of w.value
    let k := w.value.getLsbD 4
    let c := c.noteCells (pwAddr p k) 8
    if 5 ≤ p || c.bitOf NVS_PWSTAT.LOCKD p then c.pwEnd p 3
    else if c.pwEntry = c.ld (pwAddr p k) 8 then
      (c.modNvs fun n => { n with fails := n.fails.setIfInBounds p 0,
                                  unlocked := if n.unlocked.contains (w.agent.toNat, p, k) then n.unlocked
                                    else n.unlocked ++ [(w.agent.toNat, p, k)] }).pwEnd p 0
    else
      let f := c.nvs.fails.toList.getD p 0 + 1
      let c := (c.modNvs fun n => { n with fails := n.fails.setIfInBounds p f }).pwEnd p 1
      if f < 3 then c else ((c.setBit NVS_PWSTAT.LOCKD p).set1 NVS_STAT.LOCKD).fault 1 0x0D p 0x56

/-- OP 1 of NVS_PWSEL (R392). -/
def Chip.pwChange (c : Chip) (w : Cmd) : Chip :=
  c.allow (c.nvsWriter w.agent) w.agent NVS_PWSEL.reg fun c =>
    let p := NVS_PWSEL.PART.of w.value
    let k := w.value.getLsbD 4
    if 5 ≤ p || c.bitOf NVS_PWSTAT.LOCKD p then c.pwEnd p 3
    else if c.nvs.unlocked.contains (w.agent.toNat, p, k) && c.grantFor w.agent 5 p k.toNat then
      ((c.grantUse.pwEnd p 0).cellsPut 3 [(pwAddr p k, c.pwEntry)]).2
    else c.pwEnd p 2

/-- NVS_PW_ENTER. -/
def execNvsPwEnter (w : Cmd) (s : State) : Host.Outcome State Fault Refusal := s.on fun c => (c.arrive w.now).pwEnter w
/-- NVS_PW_CHANGE. -/
def execNvsPwChange (k : Cells) (w : Cmd) (s : State) : Host.Outcome State Fault Refusal := s.on fun c => ((c.arrive w.now).cells k).pwChange w

/-! ### Record commands -/

/-- A command of the store is refused with CMDERR. -/
def Chip.nvsErr (c : Chip) (e : Nat) : Chip := (c.put NVS_CMDSTAT.CMDERR e).set1 NVS_STAT.ERR

/-- A command written to NVS_CMD: key, then BUSY. -/
def Chip.nvsCmd (c : Chip) (code : Nat) (w : Cmd) (f : Chip → Chip) : Chip :=
  (c.arrive w.now).allow (c.nvsWriter w.agent) w.agent NVS_CMD.reg fun c =>
    if NVS_CMD.KEY.of w.value ≠ 0x4E5F then c.put NVS_CMDSTAT.CMDERR 1
    else
      let c := c.put NVS_CMDSTAT.LASTCMD code
      if c.flag NVS_CMDSTAT.BUSY then c.nvsErr 2 else f c

/-- A data address in management memory or the host window, a multiple of 8 (R381). -/
def dataAddrOk (a n : Nat) : Bool :=
  a % 8 == 0 && ((0x3C000000 ≤ a && a + n ≤ 0x3C0A0000) || (0x38000000 ≤ a && a + n ≤ 0x38080000))

/-- A record command is checked and accepted (R378, R381, R389). -/
def Chip.nvsAccept (c : Chip) (code : Nat) (w : Cmd) : Chip :=
  let r := NVS_CMD.REC.of w.value
  match if r < 8 then none else c.recSlot r with
  | none => c.nvsErr 3
  | some (_, n) =>
    let a := c.get NVS_RADDR.ADDR
    if code ≠ 3 && !dataAddrOk a (n.getD 0) then c.nvsErr 4
    else if !c.pwOpen w.agent 0 (code != 2) then c.nvsErr 6
    else (((c.put NVS_CMDSTAT.CMDERR 0).set1 NVS_CMDSTAT.BUSY).modNvs fun m => { m with job := some ⟨code, r, a, w.agent⟩ }).turnAsk 0 .store

/-- NVS_WRITE (R381). -/
def execNvsWrite (w : Cmd) (s : State) : Host.Outcome State Fault Refusal := s.on fun c => c.nvsCmd 1 w fun c => c.nvsAccept 1 w
/-- NVS_READ (R382). -/
def execNvsRead (w : Cmd) (s : State) : Host.Outcome State Fault Refusal := s.on fun c => c.nvsCmd 2 w fun c => c.nvsAccept 2 w
/-- NVS_INVAL (R382). -/
def execNvsInval (w : Cmd) (s : State) : Host.Outcome State Fault Refusal := s.on fun c => c.nvsCmd 3 w fun c => c.nvsAccept 3 w
/-- RELOCK, for the writing agent (R390). -/
def Chip.relock (c : Chip) (ag : AgentId) : Chip :=
  (c.put NVS_CMDSTAT.CMDERR 0).modNvs fun n => { n with unlocked := n.unlocked.filter (·.1 != ag.toNat) }
/-- NVS_RELOCK. -/
def execNvsRelock (w : Cmd) (s : State) : Host.Outcome State Fault Refusal := s.on fun c => c.nvsCmd 4 w fun c => c.relock w.agent

/-- A record command reports (NVS_RRES, NVS_RSEQ). -/
def Chip.nvsReport (c : Chip) (n bank status seq : Nat) : Chip :=
  let c := (((c.put NVS_RRES.LEN n).put NVS_RRES.BANK bank).put NVS_RRES.STATUS status).put NVS_RSEQ.SEQ seq
  ((c.set1 NVS_STAT.DONE).clr NVS_CMDSTAT.BUSY).modNvs (fun m => { m with job := none }) |>.storeEnd

/-- The cell writes of the record command in hand (R381, R382). -/
def Chip.jobCells (c : Chip) : List (Nat × Nat) :=
  match c.nvs.job.bind fun j => (c.recSlot j.record).map fun s => (j, s) with
  | none => []
  | some (j, slot) => match j.cmd with
    | 1 => let (b, q) := c.nextCopy j.record slot; copyCells b j.record slot.1 q (c.ldBytes j.addr (slot.2.getD 0))
    | 3 => [(copyAt 0 slot.1 + 8, 0), (copyAt 1 slot.1 + 8, 0)]
    | _ => []

/-- NVS_RECORD_CMD_COMPLETE (R375, R380 to R383): the command finishes. -/
def execNvsRecordCmdComplete (bad stuck : List Nat) (now : Time) (s : State) : Host.Outcome State Fault Refusal := s.on fun c =>
  let c := (c.arrive now).cells ⟨bad, stuck⟩
  match c.nvs.job with
  | none => c
  | some j =>
    match c.recSlot j.record with
    | none => c
    | some slot =>
      if !c.turnHas 0 .store then c
      else
        let n := slot.2.getD 0
        match j.cmd with
        | 2 =>
          let c := c.recNotes j.record slot
          match (c.chosen j.record slot).1 with
          | some b => (c.stBytes j.addr (c.copyData b slot.1)).nvsReport n b 1 (c.copySeq b slot.1)
          | none => c.nvsReport n 0 2 0
        | 1 =>
          let (b, q) := c.nextCopy j.record slot
          let (ok, c) := (c.recNotes j.record slot).cellsPut 0 c.jobCells
          c.nvsReport n b (if ok then 1 else 3) q
        | _ =>
          let (ok, c) := c.cellsPut 0 c.jobCells
          c.nvsReport n 0 (if ok then 1 else 3) 0

/-! ### Counters -/

/-- VALUE of a cell of a counter, if the cell is valid (R384). -/
def Chip.cellVal (c : Chip) (k j : Nat) : Option Nat :=
  let a := 0x60028000 + 0x200 * k + 8 * j
  let v := c.ld a 6
  if c.ld (a + 6) 2 = (crc32c (c.ldBytes a 6)).toNat % 2 ^ 16 ∧ v % 64 = j then some v else none

/-- The value of a counter (R384). -/
def Chip.cntVal (c : Chip) (k : Nat) : Nat := ((List.range 64).filterMap (c.cellVal k)).foldl max 0

/-- The address of cell `j` of a counter (R384). -/
def cntCell (k j : Nat) : Nat := 0x60028000 + 0x200 * k + 8 * j

/-- The content of a counter cell of a value (R384): VALUE and its CHK. -/
def cntWord (v : Nat) : Nat := v + 2 ^ 48 * ((crc32c ((List.range 6).map fun i => BitVec.ofNat 8 (v / 2 ^ (8 * i)))).toNat % 2 ^ 16)

/-- The cell write of an INC fails (R385): its cell holds an unstated value that leaves the counter its value. -/
def Chip.cntFail (c : Chip) (k : Nat) : Chip :=
  let d := c.cellFree (cntCell k ((c.cntVal k + 1) % 64))
  if d.cntVal k = c.cntVal k then d else c

/-- INC of a counter (R384 to R386). -/
def Chip.cntInc (c : Chip) (w : Cmd) : Chip :=
  c.allow (c.nvsWriter w.agent) w.agent NVS_CNTINC.reg fun c =>
    let k := NVS_CNTINC.CNT.of w.value
    let v := c.cntVal k
    if NVS_CNTINC.KEY.of w.value ≠ 0x4E5F then c
    else if c.nvs.worn.contains k then c.nvsErr 5
    else if !c.pwOpen w.agent 1 true then c.nvsErr 6
    else
      let c := c.noteCells (cntCell k 0) 0x200
      let a := cntCell k ((v + 1) % 64)
      if v = 2 ^ 48 - 1 then c.set1 NVS_STAT.SAT
      else if c.nvs.stuck.contains (cellOf a) then
        (((c.cntFail k).nvsVerr 1).set1 NVS_STAT.WORN).modNvs fun n => { n with worn := n.worn ++ [k] }
      else (c.cellPut a (cntWord (v + 1))).modNvs fun n => { n with inc := some (a, c.ld a 8, c.tb) }

/-- NVS_CNTINC. -/
def execNvsCntinc (k : Cells) (w : Cmd) (s : State) : Host.Outcome State Fault Refusal := s.on fun c => ((c.arrive w.now).cells k).cntInc w

/-- A read of NVS_CNTL latches NVS_CNTH (R384). -/
def Chip.cntRead (c : Chip) : Word × Chip :=
  let k := c.get NVS_CNTSEL.CNT
  let c := c.noteCells (cntCell k 0) 0x200
  let v := c.cntVal k
  let hi := v / 2 ^ 32 + 2 ^ 16 * (v == 2 ^ 48 - 1).toNat + 2 ^ 17 * (c.nvs.worn.contains k).toNat
  (BitVec.ofNat 32 v, c.wr NVS_CNTH.reg (BitVec.ofNat 32 hi))

/-- NVS_CNTL_READ. -/
def execNvsCntlRead (r : CounterRead) (now : Time) (s : State) : Host.Outcome State Fault Refusal := s.on fun c =>
  let c := (c.arrive now).cells ⟨r.bad, []⟩
  if c.cutOff r.agent then c.unreached
  else if !c.mayRead r.agent NVS_CNTL.reg || c.loadBars r.agent NVS_CNTL.reg then (c.refuse r.agent false NVS_CNTL.reg).denied r.agent 4
  else
    let (v, c) := c.cntRead
    c.answerW v

/-! ### Flush areas -/

/-- An area is to be erased: its units wait for their admissions one by one (R371, R376, R388). -/
def Chip.eraseArea (c : Chip) (o units : Nat) : Chip :=
  let part := nvsPart o
  (c.modNvs fun n => { n with erasing := (n.erasing.filter fun e => nvsPart e.1 != part || (part == 2 && (e.1 < 0x58000) != (o < 0x58000))) ++
    [(o, units)] }).turnAsk 0 .store

/-- The retentive area is disarmed and its erase begins (R388). -/
def Chip.armRetentive (c : Chip) : Chip := ((c.clr NVS_STAT.RARM).chipRec 1 (List.replicate 32 0)).eraseArea 0x38000 32

/-- The tail area's erase begins, after its tail is consumed (R388). -/
def Chip.armTail (c : Chip) : Chip := (c.clr NVS_STAT.TARM).eraseArea 0x58000 16

/-- An admission of the store erases one unit, where no writer of cells waits for it; the last unit of an area holds it until its own event
(R376; DESIGN CHOICE, log entry 139). -/
def Chip.storeGranted (c : Chip) : Chip :=
  match c.nvs.erasing with
  | (o, n + 2) :: l =>
    if c.cellWriter then c else ((c.eraseNvs o 4096).modNvs fun m => { m with erasing := (o + 4096, n + 1) :: l }).storeEnd
  | _ => c

/-- The last unit of the area that lies at the window offsets `lo` to `hi` is admitted, and the first to be erased. -/
def Chip.lastUnit (c : Chip) (lo hi : Nat) : Bool :=
  c.turnHas 0 .store && match c.nvs.erasing with
    | (o, 1) :: _ => lo ≤ o && o < hi
    | _ => false

/-- The last unit of an area is erased. -/
def Chip.unitDone (c : Chip) : Chip :=
  match c.nvs.erasing with
  | (o, _) :: l => (c.eraseNvs o 4096).modNvs fun n => { n with erasing := l }
  | [] => c

/-- RETENTIVE_AREA_ARMED (R388). -/
def execRetentiveAreaArmed (now : Time) (s : State) : Host.Outcome State Fault Refusal := s.on fun c =>
  let c := c.arrive now
  if c.lastUnit 0x38000 0x58000 then (c.unitDone.set1 NVS_STAT.RARM).storeEnd else c

/-- TAIL_AREA_ARMED (R388). -/
def execTailAreaArmed (now : Time) (s : State) : Host.Outcome State Fault Refusal := s.on fun c =>
  let c := c.arrive now
  if c.lastUnit 0x58000 0x68000 then (c.unitDone.set1 NVS_STAT.TARM).storeEnd else c

/-! ### Defect map -/

/-- The cell write of the first defect-map entry that waits, where a field entry is free (R304). -/
def Chip.mapCells (c : Chip) : List (Nat × Nat) :=
  match c.flt.pendMap.head?, c.mapFree with
  | some v, some k => [(0x60068000 + 8 * k, v.toNat)]
  | _, _ => []

/-- DEFECT_MAP_ENTRY_WRITE (R304): after its grant a waiting entry is written by one cell write. -/
def execDefectMapEntryWrite (k : Cells) (now : Time) (s : State) : Host.Outcome State Fault Refusal := s.on fun c =>
  let c := (c.arrive now).cells k
  match c.flt.pendMap with
  | [] => c
  | v :: l =>
    if !c.turnHas 0 .store then c
    else
      let e := c.mapCells
      let free := c.mapFree
      let (ok, c) := ((c.modFlt fun f => { f with pendMap := l }).storeEnd).cellsPut 3 e
      match free with
      | some j => if ok then let c := c.modFlt fun f => { f with field := spIns j v f.field }; c.put FLT_DMSTAT.NVCNT c.flt.field.length else c
      | none => c

/-- CLEAR of a field entry under the two-party agreement (R306); the map in force stays until the next LOAD. -/
def Chip.dmClear (c : Chip) (w : Cmd) : Chip :=
  c.allow (isMc w.agent || isHost w.agent) w.agent FLT_DMCMD.reg fun c =>
    let k := FLT_DMCMD.ENTRY.of w.value
    if FLT_DMCMD.KEY.of w.value ≠ 0x7E51 then c
    else if c.grantFor w.agent 3 0 k then
      let (ok, c) := (c.grantUse).cellsPut 3 [(0x60068000 + 8 * k, 0)]
      if ok then let c := c.modFlt fun f => { f with field := spDel k f.field }; c.put FLT_DMSTAT.NVCNT c.flt.field.length else c
    else (c.refuse w.agent true FLT_DMCMD.reg).denied w.agent 0

/-- FLT_DM_CLEAR. -/
def execFltDmClear (w : Cmd) (s : State) : Host.Outcome State Fault Refusal := s.on fun c => (c.arrive w.now).dmClear w

/-! ### Keys -/

/-- The cell writes of the first key that waits, where its digest agrees (R479). -/
def Chip.keyCells (c : Chip) : List (Nat × Nat) :=
  match c.grd.keyJobs with
  | [] => []
  | r :: _ =>
    let key := c.ldBytes (recField r 8 4) 64
    if sha256 key = (r.drop 12).take 32 then
      (List.range 8).map fun i => (0x6006A080 + 64 * (recField r 1 1 % 4) + 8 * i, recField key (8 * i) 8)
    else []

/-- KEY_SLOT_WRITE (R479): after its grant, an agreed key is checked against the digest of its record and written to its slot. -/
def execKeySlotWrite (now : Time) (s : State) : Host.Outcome State Fault Refusal := s.on fun c =>
  let c := c.arrive now
  match c.grd.keyJobs with
  | [] => c
  | _ :: l =>
    if !c.turnHas 0 .store then c
    else
      let e := c.keyCells
      let (ok, c) := ((c.modGrd fun g => { g with keyJobs := l }).storeEnd).cellsPut 3 e
      if e.isEmpty then c.setBit GRD_STAT.FLAGS 5 else if ok then c.grdNote 0x5E else c

end Sys2Proof.Machine
end

