-- ==== Sys2Proof/Machine/Rec.lean ====
section
/-! DEFINITION. The event recorder's commands and events (R352 to R372): posting, closing, draining to the Carousel and the keep area,
reading, and the commissioning reset. -/

namespace Sys2Proof.Machine

/-! ### Posting and closing -/

/-- The agent of a posting pair (R356). -/
def postAgent (k : Fin 3) : AgentId := if k = 0 then 0x01 else if k = 1 then 0x02 else 0x40

/-- A post by software (R356). -/
def Chip.softPost (c : Chip) (k : Fin 3) (w : Cmd) : Chip :=
  c.allow (w.agent == postAgent k) w.agent (REC_POSTCODE.reg k) fun c =>
    let code := w.value.toNat % 4096
    if code < 0x200 || c.codeType code = 0 then c.incSat REC_DROP.NCFG else c.feedPost code (c.rd (REC_POSTVAL.reg k))

/-- RECORDER_POST (R356). -/
def execRecorderPost (k : Fin 3) (w : Cmd) (s : State) : Host.Outcome State Fault Refusal := s.on fun c => (c.arrive w.now).softPost k w

/-- RECORDER_ACCUMULATE (R357). -/
def execRecorderAccumulate (now : Time) (s : State) : Host.Outcome State Fault Refusal := s.on fun c =>
  let c := c.arrive now
  if c.rcd.stopped then c else c.accumHead.getD c

/-- No post of a code that was stamped before an instant waits in the feed (R358). -/
def Chip.feedClear (c : Chip) (code t : Nat) : Bool := !c.rcd.feed.any fun p => p.code == code && p.stamp.toNat < t

/-- RECORD_INTERVAL_CLOSE (R358, R360): the record closes at the end of its interval, where no early close falls before it (R359). -/
def execRecordIntervalClose (code : Fin 4096) (now : Time) (s : State) : Host.Outcome State Fault Refusal := s.on fun c =>
  let c := c.arrive now
  match c.rcd.opens.find? (·.code == code.val) with
  | none => c
  | some o =>
    let d := c.closeDue o
    if o.deferred.isSome || c.rcd.stopped || c.t < d || c.nextClose o < d || !c.feedClear code d then c else c.closeRec o 0 false d

/-- RECORD_EARLY_CLOSE (R359). -/
def execRecordEarlyClose (code : Fin 4096) (now : Time) (s : State) : Host.Outcome State Fault Refusal := s.on fun c =>
  let c := c.arrive now
  match c.rcd.opens.find? (·.code == code.val) with
  | none => c
  | some o =>
    match o.early, c.earlyDue o with
    | some (reason, _), some d =>
      if o.deferred.isSome || c.rcd.stopped || c.t < d || c.closeDue o ≤ d || !c.feedClear code d then c else c.closeRec o reason true d
    | _, _ => c

/-- RECORD_DEFERRED_CLOSE (R360): the close takes place once the queue has room, and every earlier post has been accumulated (R358). A close
that waited for NEXTSEQ or for a COMMISSION and finds the queue full is deferred by R360. Those of SAFE-HOLD take place in code order (R367). -/
def execRecordDeferredClose (code : Fin 4096) (now : Time) (s : State) : Host.Outcome State Fault Refusal := s.on fun c =>
  let c := c.arrive now
  match c.rcd.opens.find? (·.code == code.val) with
  | none => c
  | some o =>
    match o.deferred with
    | none => c
    | some (reason, early, _) =>
      if reason = 4 && c.rcd.opens.any (fun p => p.code < o.code && p.deferred.any (·.1 == 4)) then c
      else if !c.rcd.known || c.rcd.comm.isSome || c.rcd.stopped then c
      else if 1024 ≤ c.rcd.queue.length then c.closeRec o reason early c.t
      else if !c.feedClear code c.t then c
      else
        let c := c.closeRec o reason early c.t
        if c.rcd.stopping then c.drainGo true else c

/-! ### Draining -/

/-- RECORDER_DRAIN_START (R363): the periodic drain; a changed DRAINPER takes effect after it. -/
def execRecorderDrainStart (now : Time) (s : State) : Host.Outcome State Fault Refusal := s.on fun c =>
  let c := c.arrive now
  if c.mode == mLOAD || c.mode == mINTER || c.rcd.stopped || c.t < c.rcd.drainAt.toNat then c
  else
    let p := max 1 (c.get REC_CTL.DRAINPER)
    let c := c.modRec fun r => { r with drainAt := c.tb + BitVec.ofNat 64 (r.period * 1000000000), period := p }
    c.drainGo false

/-- The drain goes on to its next sector, or ends (R363). -/
def Chip.drainNext (c : Chip) : Chip :=
  let c := (c.turnEnd 1 .recorder).modRec fun r => { r with retried := false }
  if (c.rcd.drain.bind c.drainHead).isSome then c.turnAsk 1 .recorder else (c.modRec fun r => { r with drain := none }).recStop

/-- The words that the Carousel slots of a sector take: those of the queued records, what the Carousel holds of the same sector, and
zeros. -/
def Chip.sectorSlots (c : Chip) (sec : Nat) : List (Nat × List Word) :=
  (List.range 8).map fun i =>
    let seq := 8 * sec + i
    let slot := c.carSlot seq
    match c.rcd.queue.find? (·.seq == seq) with
    | some q => (slot, q.words)
    | none => (slot, if seq < c.get REC_NEXTSEQ.SEQ then spGet (List.replicate 16 0) c.rcd.carousel slot else List.replicate 16 0)

/-- RECORDER_SECTOR_WRITTEN (R363): a sector write completes, or fails, as one beyond the capacity of the eMMC does (R13); a failed one is
retried once. -/
def execRecorderSectorWritten (ok : Bool) (now : Time) (s : State) : Host.Outcome State Fault Refusal := s.on fun c =>
  let c := c.arrive now
  match c.rcd.drain.bind c.drainHead with
  | none => c
  | some q =>
    if !c.turnHas 1 .recorder then c
    else
      let sec := q.seq / 8
      if !ok || !c.emmcHas (c.carSlot (8 * sec) / 8) 1 then
        if c.rcd.retried then
          let c := (c.turnEnd 1 .recorder).modRec fun r => { r with retried := false, drain := none }
          (c.set1 REC_STAT.EMMCERR).fault 1 0x07 0x5C 0x3C 0x5C
        else c.modRec fun r => { r with retried := true }
      else
        let full := c.sectorFull sec
        let slots := c.sectorSlots sec
        let c := c.modRec fun r =>
          { r with
            carousel := slots.foldl (fun l e => spSet (List.replicate 16 0) e.1 e.2 l) r.carousel
            queue := (r.queue.map fun p => if p.seq / 8 = sec then { p with inCar := full, part := !full } else p).filter
              fun p => !(p.inCar && p.inKeep) }
        c.qcnt.drainNext

/-- The cell writes of a record in the keep area. -/
def keepCells (q : RecQ) : List (Nat × Nat) :=
  (List.range 8).map fun i => (0x60070000 + 64 * q.seq + 8 * i, recField (bytesOfWords q.words) (8 * i) 8)

/-- KEEP_AREA_WRITTEN (R364, R375): the first record that the keep area still lacks is written, or its write fails. -/
def execKeepAreaWritten (k : Cells) (now : Time) (s : State) : Host.Outcome State Fault Refusal := s.on fun c =>
  let c := (c.arrive now).cells k
  match c.rcd.queue.find? fun q => !q.inKeep with
  | none => c
  | some q =>
    if !c.turnHas 0 .store then c
    else
      let (ok, c) := c.cellsPut 4 (keepCells q)
      if ok then
        let c := c.modRec fun r =>
          { r with queue := (r.queue.map fun p => if p.seq = q.seq then { p with inKeep := true } else p).filter fun p => !(p.inCar && p.inKeep) }
        let c := if q.seq = 1023 then (c.set1 REC_STAT.KEEPFULL).modRec fun r => { r with keepClosed := true } else c
        (c.qcnt.storeEnd).recStop
      else (c.fault 1 0x07 0x5C 0x3D 0x5C).storeEnd

/-! ### Start and tail -/

/-- A stored record is valid (R365): its CRC agrees and its EPOCH is current. -/
def Chip.recValid (c : Chip) (w : List Word) : Bool :=
  w.length == 16 && crc32c (bytesOfWords (w.take 15)) == w.getD 15 0 && (w.getD 0 0).toNat / 2 ^ 24 == c.rcd.epoch

/-- The records of the Carousel (R363). -/
def Chip.carRecords (c : Chip) : List (List Word) :=
  (c.rcd.carousel.filter fun e => c.carSlot 0 ≤ e.1 && e.1 < c.carSlot 0 + 262144).map (·.2)

/-- The records of the tail to restore that are valid (R365, R368). -/
def Chip.tailRecords (c : Chip) : List (List Word) := (c.rcd.tail.getD []).filter c.recValid

/-- RECORDER_NEXTSEQ_FOUND (R365, R368): after the entry to STOP from LOAD, EPOCH and NEXTSEQ become known. The records of a valid tail join the
queue, from which they are written as any other (R363, R364). -/
def execRecorderNextseqFound (now : Time) (s : State) : Host.Outcome State Fault Refusal := s.on fun c =>
  let c := c.arrive now
  if c.mode == mLOAD || c.rcd.known then c
  else
    let c := c.chipNotes 0
    let e := ((c.chipRecData 0).getD 0 0).toNat
    let c := (c.put REC_CAR.EPOCH e).modRec fun r => { r with epoch := e }
    let seq (w : List Word) : Nat := (w.getD 1 0).toNat
    let next := (((c.carRecords.filter c.recValid) ++ c.tailRecords).map fun w => seq w + 1).foldl max 0
    let l := c.tailRecords.map fun w => (⟨seq w, w, false, false, 1024 ≤ seq w⟩ : RecQ)
    let c := (c.put REC_NEXTSEQ.SEQ next).modRec fun r =>
      { r with known := true, keepClosed := r.keepClosed || 1024 ≤ next, queue := l ++ r.queue }
    let c := if l.any fun q => !q.inKeep then c.turnAsk 0 .store else c
    c.qcnt.drainGo true

/-- Records of the tail still wait for one of their writes. -/
def Chip.tailWaits (c : Chip) : Bool :=
  c.rcd.queue.any fun q => !((q.inCar || q.part) && q.inKeep) && c.tailRecords.any fun w => (w.getD 1 0).toNat == q.seq

/-- TAIL_RESTORE_COMPLETE (R368): the power-fail tail is written, and marked consumed. -/
def execTailRestoreComplete (now : Time) (s : State) : Host.Outcome State Fault Refusal := s.on fun c =>
  let c := c.arrive now
  if c.rcd.tail.isNone || c.mode == mLOAD || !c.rcd.known || c.tailWaits then c
  else
    let n := c.tailRecords.length
    let c := (c.modRec fun r => { r with tail := none }).chipRec 2 ((c.chipRecData 2).take 8 ++ [1, 0, 0, 0, 0, 0, 0, 0])
    ((c.set1 REC_STAT.TAILREST).post 0x009 (BitVec.ofNat 32 n)).armTail

/-! ### Commands -/

/-- A command written to REC_CMD. -/
def Chip.recCmd (c : Chip) (code : Nat) (w : Cmd) (f : Chip → Chip) : Chip :=
  (c.arrive w.now).allow (isMc w.agent || isHost w.agent) w.agent REC_CMD.reg fun c =>
    if REC_CMD.KEY.of w.value ≠ 0x2E5D then c.put REC_CMDSTAT.CMDERR 1
    else
      let c := c.put REC_CMDSTAT.LASTCMD code
      if c.rcd.stopped then c.put REC_CMDSTAT.CMDERR 2
      else if c.rcd.comm.isSome then c.put REC_CMDSTAT.CMDERR 3
      else f (c.put REC_CMDSTAT.CMDERR 0)

/-- REC_DRAIN. -/
def execRecDrain (w : Cmd) (s : State) : Host.Outcome State Fault Refusal := s.on fun c => c.recCmd 1 w fun c => c.drainGo true
/-- REC_CLOSEALL. -/
def execRecCloseall (w : Cmd) (s : State) : Host.Outcome State Fault Refusal := s.on fun c => c.recCmd 2 w fun c => c.closeAll 3

/-- COMMISSION begins under its agreement (R371). -/
def Chip.commission (c : Chip) (a : AgentId) : Chip :=
  if c.grantFor a 4 0 0 then
    ((c.grantUse).modRec fun r => { r with opens := [], queue := [], drain := none, comm := some c.tb }).qcnt.eraseArea 0x70000 16
  else ((c.put REC_CMDSTAT.CMDERR 4).refuse a true REC_CMD.reg).denied a 0

/-- REC_COMMISSION. -/
def execRecCommission (w : Cmd) (s : State) : Host.Outcome State Fault Refusal := s.on fun c => c.recCmd 3 w fun c => c.commission w.agent

/-- COMMISSION_COMPLETE (R371): the last unit of the keep area is erased, and EPOCH goes on from the stored one. -/
def execCommissionComplete (now : Time) (s : State) : Host.Outcome State Fault Refusal := s.on fun c =>
  let c := c.arrive now
  if c.rcd.comm.isNone || !c.lastUnit 0x70000 0x80000 then c
  else
    let e := (((c.chipRecData 0).getD 0 0).toNat + 1) % 256
    let c := c.unitDone.chipRec 0 (BitVec.ofNat 8 e :: List.replicate 7 0)
    let c := ((c.put REC_CAR.EPOCH e).put REC_NEXTSEQ.SEQ 0).set1 REC_STAT.COMMDONE
    (c.modRec fun r => { r with epoch := e, comm := none, known := true, keepClosed := false }).storeEnd

/-! ### Reading -/

/-- A fetch starts (R369, R370). -/
def Chip.fetch (c : Chip) (a : AgentId) (seq : Word) : Chip :=
  let c := ((c.wr REC_RDSEQ.reg seq).put REC_RDSTAT.OWNER a.toNat).incWrap REC_RDSTAT.RDGEN
  (c.clr REC_RDSTAT.READY).modRec fun r => { r with fetching := true }

/-- A write to REC_RDSEQ. -/
def Chip.rdseqWrite (c : Chip) (w : Cmd) : Chip :=
  c.allow (isMc w.agent || isHost w.agent) w.agent REC_RDSEQ.reg fun c => c.fetch w.agent w.value

/-- REC_RDSEQ_WRITE. -/
def execRecRdseqWrite (w : Cmd) (s : State) : Host.Outcome State Fault Refusal := s.on fun c => (c.arrive w.now).rdseqWrite w

/-- STATUS and words of a record asked for (R369); `ok` says that the eMMC read succeeds. -/
def Chip.lookup (c : Chip) (ok : Bool) : Nat × List Word :=
  let seq := c.get REC_RDSEQ.SEQ
  if c.flag REC_RDCTL.SRC then
    let w := (List.range 16).map fun i => (BitVec.ofNat 32 (c.ld (0x60070000 + 64 * seq + 4 * i) 4) : Word)
    if 1024 ≤ seq || w.all (· == 0) then (2, []) else if c.recValid w then (1, w) else (4, [])
  else match c.rcd.queue.find? (·.seq == seq) with
    | some q => (1, q.words)
    | none =>
      if !c.rcd.known || c.get REC_NEXTSEQ.SEQ ≤ seq then (2, [])
      else if !ok || !c.emmcHas (c.carSlot seq / 8) 1 then (5, [])
      else
        let w := spGet (List.replicate 16 0) c.rcd.carousel (c.carSlot seq)
        if !c.recValid w then (4, []) else if (w.getD 1 0).toNat = seq then (1, w) else (3, [])

/-- The record asked for comes from the Carousel. -/
def Chip.fromCarousel (c : Chip) : Bool := !c.flag REC_RDCTL.SRC && !c.rcd.queue.any fun q => q.seq == c.get REC_RDSEQ.SEQ

/-- RECORD_FETCH_COMPLETE (R369): in INTERMISSION and from the flush on the eMMC is not read (R449, R453). -/
def execRecordFetchComplete (ok : Bool) (now : Time) (s : State) : Host.Outcome State Fault Refusal := s.on fun c =>
  let c := c.arrive now
  if !c.rcd.fetching || (c.fromCarousel && (c.mode == mINTER || c.flushing)) then c
  else
    let (st, w) := c.lookup ok
    let c := if c.fromCarousel then { c with pins := { c.pins with emmcUsed := true } } else c
    let c := if c.flag REC_RDCTL.SRC && c.get REC_RDSEQ.SEQ < 1024 then c.noteCells (0x60070000 + 64 * c.get REC_RDSEQ.SEQ) 64 else c
    let c := c.forFin 16 fun j c => c.wr (REC_RDWIN.reg j) (w.getD j 0)
    ((c.put REC_RDSTAT.STATUS st).set1 REC_RDSTAT.READY).modRec fun r => { r with fetching := false }

/-- A read of REC_RDWIN15 (R369): with AUTO the cursor advances and the next fetch starts. -/
def Chip.win15 (c : Chip) (a : AgentId) : Word × Chip :=
  let v := c.rd (REC_RDWIN.reg 15)
  (v, if c.flag REC_RDCTL.AUTO then c.fetch a (c.rd REC_RDSEQ.reg + 1) else c)

/-- REC_RDWIN15_AUTO_READ. -/
def execRecRdwin15AutoRead (agent : AgentId) (now : Time) (s : State) : Host.Outcome State Fault Refusal := s.on fun c =>
  let c := c.arrive now
  if c.cutOff agent then c.unreached
  else if !c.mayRead agent (REC_RDWIN.reg 15) || c.loadBars agent (REC_RDWIN.reg 15) then (c.refuse agent false (REC_RDWIN.reg 15)).denied agent 4
  else
    let (v, c) := c.win15 agent
    c.answerW v

end Sys2Proof.Machine
end

