-- ==== Sys2Proof/Machine/Rings.lean ====
section
/-! DEFINITION. Station rings: cyclic frames, breaks, dropouts, enumeration and acyclic transactions (R214 to R241, R501 to R503). -/

namespace Sys2Proof.Machine

/-- Bit `s` of a set of stations becomes `v`. -/
def bput (b : BitVec 32) (s : Nat) (v : Bool) : BitVec 32 :=
  let m := (1 : BitVec 32) <<< s
  if v then b ||| m else b &&& ~~~m

/-! ### Cycles -/

/-- The state of a ring (Table 8.5). -/
def Chip.rstate (c : Chip) (r : Fin 4) : Nat := c.get (STN_LAT.STATE r)

/-- The cycle time in ns: CYCLE, or IMCYC on the ring that INTERMISSION keeps awake (R221, R241). -/
def Chip.cycleNs (c : Chip) (r : Fin 4) : Nat :=
  if c.mode == mINTER then 1000000 * c.get (STN_CYC.IMCYC r) else 1000 * c.get (STN_CYC.CYCLE r)

/-- The latest return of a frame after S(c), in ns (R225, R226); in INTERMISSION a byte takes 80 ns (R241). -/
def Chip.frameNs (c : Chip) (r : Fin 4) : Nat := c.tFrame r (if c.mode == mINTER then 80 else 8) + 16 * c.get (STN_LAT.RTD r)

/-- The term of R231 beside S(c), in ns. -/
def Chip.cycleLag (c : Chip) (r : Fin 4) : Nat := c.frameNs r + 1000

/-- The capability word of a station (Table 8.6): that of the configuration, which an admitted station shows too (R228), and else the one that it
has reported. -/
def Chip.capOf (c : Chip) (r : Fin 4) (s : Fin 32) : Word :=
  match c.image.bind fun (i : Image) => i.sec.idents.find? (·.1 == 32 * r.val + s.val) with
  | some e => e.2.2
  | none => c.rd (STN_SCAP.reg r s)

/-- A station samples only when it is told to (R230). -/
def Chip.pulsed (c : Chip) (r : Fin 4) (s : Fin 32) : Bool := (c.capOf r s).getLsbD 1 && c.flag (STN_SCFG.PULSEN r s)

/-- Cycle `n` is a target cycle of the station (R231). -/
def Chip.isTarget (c : Chip) (r : Fin 4) (s : Fin 32) (n : Nat) : Bool :=
  match c.ownerOf (32 * r.val + s.val) with
  | none => true
  | some t =>
    let cyc := c.cycleNs r
    if !c.scanning || c.get (SCN_TPERIOD.PERIOD t) < c.get (STN_CYC.CYCLE r) then true
    else match c.nextRelease t (n * cyc + c.cycleLag r) with
      | none => true
      | some rel => rel < (n + 1) * cyc + c.cycleLag r

/-! ### Outputs -/

/-- In the transition from RUN to STOP, task `t` has no scan left to finish (R30). -/
def Chip.lastScanDone (c : Chip) (t : Fin 32) : Bool :=
  c.flag SYS_MODE.TRANS && c.get SYS_MODE.TARGET == mSTOP && !(c.task t).live && (c.task t).old.isNone && c.phase t == 0

/-- The outputs of station index `k` are substituted (R30, R229). -/
def Chip.substituted (c : Chip) (k : Nat) : Bool :=
  c.mode == mSTOP || c.mode == mSAFE || c.mode == mINTER ||
    (match c.ownerOf k with
      | none => true
      | some t => c.flag (SCN_TSTAT.SUBST t) || !(c.task t).outDone || c.lastScanDone t)

/-- Steps 1 and 2 of R229 for one station: the values sent replace those of the cycle before. -/
def Chip.outStation (c : Chip) (r : Fin 4) (s : Fin 32) : Chip :=
  let k := 32 * r.val + s.val
  let sub := c.substituted k
  let c := c.doIf sub (·.subNote r s)
  let b := (List.range (c.get (STN_SCFG.DOB r s))).foldl (fun l g =>
    let i := 16 * k + g
    imgSet i (if sub then c.subBits32 r s true g (imgGet l i) else imgGet c.img.txB i) l) c.img.outB
  let w := (List.range (c.get (STN_SCFG.AOW r s))).foldl (fun l j =>
    let i := 64 * k + j
    imgSet i (if sub then c.subWord r s true j (imgGet l i) else imgGet c.img.txW i) l) c.img.outW
  c.modImg fun m => { m with outB := b, outW := w }

/-- Step 3 of R229 for one group (R232, R233): every member takes the leader's value, or its substitute while an ACT group is faulted;
`old` holds the values sent in the cycle before. -/
def Chip.outGroup (c : Chip) (r : Fin 4) (old : List (Nat × Word)) (contiguous : Bool) (g : Fin 64) : Chip :=
  if !c.flag (STN_PGCFG.VALID r g) then c
  else
    let s := c.get (STN_PGCFG.STATION r g)
    let lead := c.get (STN_PGCFG.LEADER r g)
    let c := c.doIf (c.flag (STN_PGCFG.ACT r g) && c.pgf r g) (·.subNote r s)
    let at_ (l : List (Nat × Word)) (ch : Nat) : Bool := (imgGet l (16 * (32 * r.val + s) + ch / 32)).getLsbD (ch % 32)
    let v := if c.flag (STN_PGCFG.ACT r g) && c.pgf r g then c.subBit r s true lead (at_ old lead) else at_ c.img.outB lead
    let base := 512 * (32 * r.val + s)
    let b := (List.range (c.get (STN_PGCFG.NM1 r g) + 1)).foldl (fun l i => imgSetBit (base + lead + i) v l) c.img.outB
    let q := c.ring r
    let n := if q.constFor[g] = 0 || q.leader[g] != v || !contiguous then 1 else min 16 (q.constFor[g] + 1)
    (c.modImg fun m => { m with outB := b }).modRing r fun q => { q with constFor := q.constFor.set g n, leader := q.leader.set g v }

/-- The slots that ask for a sample in the next cycle (R230): target cycles, and stations that missed theirs. -/
def Chip.prepNext (c : Chip) (r : Fin 4) (n : Nat) : BitVec 32 :=
  (c.stations r).foldl (fun b s => if c.pulsed r s && c.isTarget r s (n + 1) then bput b s true else b) (c.ring r).prep

/-! ### Dropout, rejoin and groups -/

/-- INST of a station, 0x1F for the ring as a whole (Table 10.2). -/
def ringInst (r : Fin 4) (s : Nat) : Nat := 2 ^ 8 * r.val + s
/-- The station of an acyclic slot. -/
def Chip.acStation (c : Chip) (r : Fin 4) (t : Fin 64) : Nat := c.get ⟨acAddr r t 0, 12, 8⟩

/-- STN_DROP and its copy in STN_SSTAT. -/
def Chip.putDrop (c : Chip) (r : Fin 4) (s : Fin 32) (v : Bool) : Chip :=
  (if v then c.setBit (STN_DROP.DROP r) s else c.clrBit (STN_DROP.DROP r) s).putB (STN_SSTAT.DROP r s) v

/-- A station drops out (R234), whose fault is raised with those of the same handshake; on the ring that INTERMISSION keeps awake, that wakes the
chip (R241). -/
def Chip.dropout (c : Chip) (r : Fin 4) (s : Fin 32) : Chip :=
  let c := (c.putDrop r s true).set1 (STN_STAT.DROPE r)
  let c := c.forIn ((c.acPending r).filter fun t => c.acStation r t = s) fun t c => c.acDone r t 5
  let c := c.modRing r fun q => { q with rejoin := q.rejoin.set s 0 }
  (c.post 0x003 (BitVec.ofNat 32 (32 * r.val + s.val))).doIf (c.asleep && c.pwr.kept == some r) (·.wake 1)

/-- The fault of a dropout (R234, Table 8.8). -/
def Chip.dropFault (c : Chip) (r : Fin 4) (s : Fin 32) : Chip :=
  c.fault 1 0x03 (ringInst r s) 0x20 (iosAgent r false)
    (.io r (BitVec.ofNat 32 (0x20 + 2 ^ 8 * s.val + 2 ^ 13 * r.val)) (c.tb.setWidth 32))

/-- The fault of a paralleled group (R233, Table 8.8). -/
def Chip.groupFault (c : Chip) (r : Fin 4) (g : Fin 64) : Chip :=
  let s := c.get (STN_PGCFG.STATION r g)
  c.fault 1 0x03 (ringInst r s) 0x21 (iosAgent r false)
    (.io r (BitVec.ofNat 32 (0x21 + 2 ^ 8 * s + 2 ^ 13 * r.val + 2 ^ 15 * g.val)) (c.tb.setWidth 32))

/-- A fault of the ring as a whole (Table 10.2). -/
def Chip.ringFault (c : Chip) (r : Fin 4) (odd : Bool) : Chip := c.fault 1 0x03 (ringInst r 0x1F) 0 (iosAgent r odd)

/-- The faults that a ring has raised in one handshake since `old`, in ascending INST (R290): those of the stations that `out` selects, each with its
groups, then those of the ring, as many as `n` says. -/
def Chip.ringFaults (c old : Chip) (r : Fin 4) (out : Fin 32 → Bool) (odd : Bool) (n : Nat) : Chip :=
  let c := c.forFin 32 fun s c =>
    let c := c.doIf (out s && c.bitOf (STN_DROP.DROP r) s && !old.bitOf (STN_DROP.DROP r) s) (·.dropFault r s)
    c.forFin 64 fun g c => c.doIf (c.get (STN_PGCFG.STATION r g) = s.val && c.pgf r g && !old.pgf r g) (·.groupFault r g)
  c.forIn (List.range n) fun _ c => c.ringFault r odd

/-- A slot of the cycle is valid or missed: MISS, CRCERR, and the dropout at MISSLIM (R234). -/
def Chip.countSlot (c : Chip) (r : Fin 4) (ok : BitVec 32) (s : Fin 32) : Chip :=
  if ok.getLsbD s then c.put (STN_SSTAT.MISS r s) 0
  else
    let c := (c.incSat (STN_SSTAT.MISS r s)).incSat (STN_SSTAT.CRCERR r s)
    if c.get (STN_SCFG.MISSLIM r s) ≤ c.get (STN_SSTAT.MISS r s) && !c.bitOf (STN_DROP.DROP r) s then c.dropout r s else c

/-- The words of `l` that lie among the `n` from word `i` are written into an image. -/
def imgTake (l : List (Nat × Word)) (i n : Nat) (m : List (Nat × Word)) : List (Nat × Word) :=
  (l.filter fun e => i ≤ e.1 && e.1 < i + n).foldl (fun m e => imgSet e.1 e.2 m) m

/-- A dropped station rejoins after four consecutive valid cycles with a matching PCHK (R235, R503): not while its identity differs, and
not before an enumeration of the ring has been accepted (R502). The inputs of the cycle that completes the rejoin replace the substitutes. -/
def Chip.countRejoin (c : Chip) (r : Fin 4) (y : Cyc) (ok : BitVec 32) (s : Fin 32) : Chip :=
  if !c.bitOf (STN_DROP.DROP r) s then c
  else
    let n := if ok.getLsbD s && y.pchk.getLsbD s && !c.flag (STN_SSTAT.CFGMIS r s) && (c.ring r).enumerated then (c.ring r).rejoin[s] + 1 else 0
    if 4 ≤ n then
      let k := 32 * r.val + s.val
      let c := c.modImg fun m => { m with curB := imgTake y.newB (16 * k) 16 m.curB, curW := imgTake y.newW (64 * k) 64 m.curW }
      ((c.putDrop r s false).set1 (STN_STAT.REJOIN r)).modRing r fun q => { q with rejoin := q.rejoin.set s 0, joined := bput q.joined s true }
    else c.modRing r fun q => { q with rejoin := q.rejoin.set s n }

/-- The feedback check of a paralleled group (R233). -/
def Chip.checkGroup (c : Chip) (r : Fin 4) (ok : BitVec 32) (g : Fin 64) : Chip :=
  let s := c.get (STN_PGCFG.STATION r g)
  let k := 32 * r.val + s
  if !c.flag (STN_PGCFG.VALID r g) || !ok.getLsbD s || c.dropped k || c.pgf r g ||
      (c.ring r).constFor[g] ≤ c.get (STN_PGCFG.FBDLY r g) then c
  else
    let fb (i : Nat) : Bool :=
      let ch := c.get (STN_PGCFG.FBBASE r g) + i
      (imgGet c.img.curB (16 * k + ch / 32)).getLsbD (ch % 32)
    if (List.range (c.get (STN_PGCFG.NM1 r g) + 1)).all fun i => fb i == (c.ring r).leader[g] then c
    else
      let c := if g.val < 32 then c.setBit (STN_PGF0.PGF r) g else c.setBit (STN_PGF1.PGF r) (g - 32)
      (c.set1 (STN_STAT.PGFE r)).post 0x004 (BitVec.ofNat 32 (64 * r.val + g.val))

/-! ### Breaks -/

/-- A break is declared (R225): the ring is SPLIT from the next cycle. -/
def Chip.declareBreak (c : Chip) (r : Fin 4) : Chip :=
  let c := ((c.put (STN_LAT.STATE r) 4).set1 (STN_STAT.BREAK r)).modRing r fun q => { q with lnk := 0 }
  c.post 0x005 (BitVec.ofNat 32 r.val)

/-- BRKPOS and B0NONE. -/
def Chip.setBrk (c : Chip) (r : Fin 4) (k : Option Nat) : Chip :=
  match k with
  | some n => (c.clr (STN_LAT.B0NONE r)).put (STN_LAT.BRKPOS r) n
  | none => (c.set1 (STN_LAT.B0NONE r)).put (STN_LAT.BRKPOS r) 0

/-- A measured RTD may come into force (R502). -/
def Chip.rtdOk (c : Chip) (r : Fin 4) (rtd : Nat) : Bool := !c.scanning || c.cycleOk r rtd

/-! ### Acyclic window -/

/-- The link or leg that reaches a station (R226, R240). -/
def Chip.legOf (c : Chip) (r : Fin 4) (s : Nat) : Nat :=
  if c.rstate r = 4 && (c.flag (STN_LAT.B0NONE r) || c.get (STN_LAT.BRKPOS r) < s) then 1 else 0

/-- Whether a queued request joins the window: `t0` and `t1` are the times used on each link, and a link whose next request does not fit is
closed by a time beyond the window. A station with 4 requests outstanding is passed over (R240). -/
def Chip.acSend (c : Chip) (r : Fin 4) (t : Fin 64) (t0 t1 : Nat) : Nat × Nat × Chip :=
  let s := c.acStation r t
  let win := 1000 * c.get (STN_LAT.ACWIN r)
  let dur := 8 * (22 + c.get ⟨acAddr r t 0, 23, 16⟩)
  let leg := c.legOf r s
  let used := if leg = 0 then t0 else t1
  if 4 ≤ ((c.ring r).sent.filter fun e => c.acStation r e.1 = s).length then (t0, t1, c)
  else if win < used + dur then (if leg = 0 then (win + 1, t1, c) else (t0, win + 1, c))
  else
    let c := c.modRing r fun q => { q with acq := q.acq.filter (· != t), sent := q.sent ++ [(t, q.lastCyc)] }
    if leg = 0 then (t0 + dur, t1, c) else (t0, t1 + dur, c)

/-- The acyclic window of a cycle (R240): queued requests go in submission order while they fit. None in INTERMISSION (R241). -/
def Chip.acWindow (c : Chip) (r : Fin 4) : Chip :=
  if c.mode == mINTER then c
  else ((c.ring r).acq.foldl (fun (x : Nat × Nat × Chip) t => x.2.2.acSend r t x.1 x.2.1) (0, 0, c)).2.2

/-! ### The end of a cycle -/

/-- The published image of a partition that no cyclic task scans (R16). -/
def Chip.refreshed (c : Chip) (k : Nat) : Bool :=
  match c.ownerOf k with
  | none => true
  | some t => !c.scanning || (c.physOf (c.leOf t)).isNone || (c.eng (c.leOf t)).halted

/-- Publish the inputs and the values sent of the stations that no task scans (R16). -/
def Chip.refreshPub (c : Chip) (r : Fin 4) : Chip :=
  let l := ((c.stations r).map fun s => 32 * r.val + s.val).filter c.refreshed
  if l.isEmpty then c
  else (c.forIn l fun k c => (c.pubIn k c.img.rxB c.img.rxW).pubOut k c.img.outB c.img.outW).published

/-- The end of a cycle under a state in which it was split (R226, R227). The wrapping stations are the last one on the link 0 leg and the last one on
the link 1 leg; where the break lies beside the chip there is only one. Cycles count in which the same stations have said LNKOK (log entry 55). -/
def Chip.splitEnd (c : Chip) (r : Fin 4) (y : Cyc) : Chip :=
  let leg0 := (c.stations r).filter fun (s : Fin 32) => y.ok0.getLsbD s.val
  let leg1 := (c.stations r).filter fun (s : Fin 32) => y.ok1.getLsbD s.val && !y.ok0.getLsbD s.val
  let c := c.setBrk r (leg0.getLast?.map Fin.val)
  let wrapping := leg0.getLast?.toList ++ leg1.head?.toList
  let both := !wrapping.isEmpty && wrapping.all fun s => y.wrap.getLsbD s.val && y.lnkok.getLsbD s.val
  c.modRing r fun q => { q with lnk := if !both then 0 else if wrapping = q.wraps then q.lnk + 1 else 1, wraps := wrapping }

/-- The sources of event tasks that watch an I bit of the ring (Table 5.2): each input that has changed since the cycle before fires them. -/
def Chip.bitSources (c : Chip) (r : Fin 4) : Chip :=
  let at_ (l : List (Nat × Word)) (b : Nat) : Bool := (imgGet l (b / 32)).getLsbD (b % 32)
  let watch := (List.finRange 32).filterMap fun (t : Fin 32) =>
    let b := c.get (SCN_TEVT.SEL t)
    if c.kind t == kEVT && (c.get (SCN_TEVT.SRC t) == 1 || c.get (SCN_TEVT.SRC t) == 2) && b / 16384 == r.val then some b else none
  let c := c.forIn watch.dedup fun b c =>
    match at_ c.img.lastB b, at_ c.img.rxB b with
    | false, true => c.srcFires 1 b
    | true, false => c.srcFires 2 b
    | _, _ => c
  c.modImg fun m => { m with lastB := (c.stations r).foldl (fun l s =>
    (List.range 16).foldl (fun l g => let i := 16 * (32 * r.val + s.val) + g; imgSet i (imgGet m.rxB i) l) l) m.lastB }

/-- What the end of a cycle does to the ring's own state (R225, R226, R502), and the faults of the ring as a whole that it raises. A MON frame that
came late has set L1FAIL, and its return has cleared it. -/
def Chip.cycleState (c : Chip) (r : Fin 4) (y : Cyc) : Nat × Chip :=
  if y.split then (0, c.splitEnd r y)
  else if !y.ret0 then (1, c.declareBreak r)
  else
    let c := c.doIf (y.monMiss && !y.mon) (·.set1 (STN_STAT.L1FAIL r))
    if !y.repair then (y.monMiss.toNat, c)
    else
      let c := c.modRing r fun q => { q with lnk := 0 }
      if c.rtdOk r y.rtd then (y.monMiss.toNat, ((c.put (STN_LAT.STATE r) 3).put (STN_LAT.RTD r) y.rtd).clr (STN_LAT.B0NONE r))
      else (y.monMiss.toNat + 1, c.set1 (STN_STAT.RTDERR r))

/-- The inputs of a cycle are complete (R226): missed slots, dropouts and rejoins, group checks, the faults of all of them (R290), the receive image
and the event sources that it fires, the published image and the acyclic window. -/
def Chip.cycleEnd (c : Chip) (r : Fin 4) (y : Cyc) : Chip :=
  let c := c.modRing r fun q => { q with cyc := none, prep := 0 }
  let old := c
  let ok : BitVec 32 := if !y.split && !y.ret0 then 0 else y.ok0 ||| y.ok1
  let (n, c) := (c.put (STN_CYCNO.CYCNO r) y.num).cycleState r y
  let st := c.stations r
  let c := c.forIn st fun s c => c.countSlot r ok s
  let lim := st.foldl (fun n s => min n (c.get (STN_SCFG.MISSLIM r s))) 15
  let c := if c.rstate r ≠ 5 && !st.isEmpty && st.all fun s => lim ≤ c.get (STN_SSTAT.MISS r s) then
      (c.put (STN_LAT.STATE r) 5).modRing r fun q => { q with lostAt := c.tb }
    else c
  let c := c.forIn st fun s c =>
    if c.pulsed r s && c.isTarget r s y.num && !(ok.getLsbD s && y.fresh.getLsbD s) then
      (c.incSat (STN_SSTAT.STALE r s)).modRing r fun q => { q with prep := bput q.prep s true }
    else c
  let c := c.forIn st fun s c => c.countRejoin r y ok s
  let c := c.forFin 64 fun g c => c.checkGroup r ok g
  let c := c.ringFaults old r (fun _ => true) false n
  let c := c.forIn st fun s c => c.rxTake (32 * r.val + s.val)
  ((c.bitSources r).refreshPub r).acWindow r

/-- RING_CYCLE_START (R221, R224, R229 to R232): at S(c) the frame leaves with the transmit image as it stands. A staged ACTO takes effect. -/
def execRingCycleStart (r : Fin 4) (now : Time) (s : State) : Host.Outcome State Fault Refusal := s.on fun c =>
  let c := c.arrive now
  let p := c.cycleNs r
  let st := c.rstate r
  if p = 0 || now.toNat % p ≠ 0 || !(st = 3 || st = 4 || st = 5) then c
  else
    let c := match (c.ring r).cyc with
      | some y => c.cycleEnd r y
      | none => c
    let c := c.updRing r
    let st := c.rstate r
    let c := match c.staged.find? (·.1 == STN_CTL.reg r) with
      | some (_, w) => { c.put (STN_CTL.ACTO r) ((STN_CTL.ACTO r).of w) with staged := spDel (STN_CTL.reg r) c.staged }
      | none => c
    let n := now.toNat / p
    let q := c.ring r
    let prep := c.prepNext r n
    let contiguous := n == q.lastCyc + 1
    let old := c.img.outB
    let c := c.forIn (c.stations r) fun s c => c.outStation r s
    let c := c.forFin 64 fun g c => c.outGroup r old contiguous g
    let repair := st == 4 && 64 ≤ q.lnk
    let y : Cyc := { num := n, split := st ≠ 3 && !repair, repair, ret0 := false, mon := false, ok0 := 0, ok1 := 0, fresh := 0, wrap := 0,
                     lnkok := 0, pchk := 0, rtd := 0, monMiss := false, newB := [], newW := [] }
    c.modRing r fun q => { q with cyc := some y, lastCyc := n, prep }

/-! ### Returned frames -/

/-- A valid slot's flags (STN_DIAGB, STN_SSTAT): DIAG is a source of event tasks (Table 5.2), and on the awake ring it wakes the chip (R241). -/
def Chip.noteSlot (c : Chip) (r : Fin 4) (s : Fin 32) (x : RingSlot) : Chip :=
  let c := c.doIf (x.diag && c.asleep && c.pwr.kept == some r) (·.wake 1)
  let c := if x.diag && !c.bitOf (STN_DIAGB.DIAG r) s then
      ((c.setBit (STN_DIAGB.DIAG r) s).set1 (STN_STAT.DIAGS r)).srcFires 5 (32 * r.val + s.val)
    else if x.diag then c else c.clrBit (STN_DIAGB.DIAG r) s
  c.putB (STN_SSTAT.WRAP r s) x.wrap

/-- A valid slot's inputs are taken (R219, R226): link 0 comes before link 1. Those of a dropped station wait for its rejoin, since HOLD keeps the
last value before the dropout (R235, Table 8.7). -/
def Chip.takeSlot (c : Chip) (r : Fin 4) (leg : Fin 2) (y : Cyc) (s : Fin 32) (x : RingSlot) : Cyc × Chip :=
  if leg.val = 1 && y.ok0.getLsbD s then ({ y with ok1 := bput y.ok1 s true }, c)
  else
    let k := 32 * r.val + s.val
    let b := (List.range (c.get (STN_SCFG.DIB r s))).map fun g => (16 * k + g, x.bits.getD g 0)
    let w := (List.range (c.get (STN_SCFG.AIW r s))).map fun i => (64 * k + i, x.words.getD i 0)
    let out := c.dropped k
    let good := match c.image with
      | some i => (i.sec.pchk.find? (·.1 == k)).all fun e => e.2 == x.pchk
      | none => false
    let y := { y with
      ok0 := if leg.val = 0 then bput y.ok0 s true else y.ok0
      ok1 := if leg.val = 1 then bput y.ok1 s true else y.ok1
      fresh := bput y.fresh s x.fresh, wrap := bput y.wrap s x.wrap, lnkok := bput y.lnkok s x.lnkok, pchk := bput y.pchk s good,
      newB := if out then y.newB ++ b else y.newB, newW := if out then y.newW ++ w else y.newW }
    let c := if out then c else c.modImg fun m => { m with curB := imgTake b (16 * k) 16 m.curB, curW := imgTake w (64 * k) 64 m.curW }
    (y, c.noteSlot r s x)

/-- CYC_FRAME_RETURN (R216, R217, R220, R226): `leg` is the link that the header names. A closed frame without EOF, or with WRAP in any
slot, counts as missed for every station (R225). -/
def execCycFrameReturn (r : Fin 4) (leg : Fin 2) (f : RingFrame) (now : Time) (s : State) : Host.Outcome State Fault Refusal := s.on fun c =>
  let c := c.arrive now
  match (c.ring r).cyc with
  | none => c
  | some y =>
    if f.type ≠ 1 || f.abort || (leg.val = 1 && !y.split) then c
    else
      let good := (c.stations r).filterMap fun s => match f.slots[s.val]? with
        | some x => if f.hcrcOk && x.crcOk && x.valid && x.station = s then some (s, x) else none
        | none => none
      if y.split then
        let (y, c) := good.foldl (fun (a : Cyc × Chip) g => a.2.takeSlot r leg a.1 g.1 g.2) (y, c)
        c.modRing r fun q => { q with cyc := some y }
      else if !f.eof || f.slots.any (·.wrap) then c.forIn good fun g c => c.noteSlot r g.1 g.2
      else
        let (y, c) := good.foldl (fun (a : Cyc × Chip) g => a.2.takeSlot r leg a.1 g.1 g.2) (y, c)
        let c := c.modRing r fun q => { q with cyc := some { y with ret0 := true, rtd := f.rtd } }
        c.forIn good fun g c => c.rxTake (32 * r.val + g.1.val)

/-- RING_CYCLE_INPUTS_COMPLETE (R225, R226): a closed frame has returned, or the latest instant of its return has come. -/
def execRingCycleInputsComplete (r : Fin 4) (now : Time) (s : State) : Host.Outcome State Fault Refusal := s.on fun c =>
  let c := c.arrive now
  match (c.ring r).cyc with
  | some y => if (!y.split && y.ret0) || y.num * c.cycleNs r + c.frameNs r ≤ c.t then c.cycleEnd r y else c
  | none => c

/-- MON_FRAME_RETURNED (R225). -/
def execMonFrameReturned (r : Fin 4) (now : Time) (s : State) : Host.Outcome State Fault Refusal := s.on fun c =>
  let c := (c.arrive now).clr (STN_STAT.L1FAIL r)
  c.modRing r fun q => { q with cyc := q.cyc.map fun y => { y with mon := true } }

/-- MON_FRAME_CHECK (R225): a MON frame goes out on link 1 in CLOSED only, and is due 0.2 µs and two round trips after S(c). Whether it alone
has failed shows when the cyclic frame has returned. -/
def execMonFrameCheck (r : Fin 4) (now : Time) (s : State) : Host.Outcome State Fault Refusal := s.on fun c =>
  let c := c.arrive now
  match (c.ring r).cyc with
  | some y =>
    if y.split || y.mon || c.flag (STN_STAT.L1FAIL r) || c.t < y.num * c.cycleNs r + 200 + 16 * c.get (STN_LAT.RTD r) then c
    else if y.ret0 then (c.set1 (STN_STAT.L1FAIL r)).ringFault r false
    else c.modRing r fun q => { q with cyc := some { y with monMiss := true } }
  | none => c

/-! ### Enumeration -/

/-- RING_LINKS_ALIGNED (R225); a training waits for its admission (R445). -/
def execRingLinksAligned (r : Fin 4) (now : Time) (s : State) : Host.Outcome State Fault Refusal := s.on fun c =>
  let c := c.arrive now
  if c.rstate r = 1 && !c.turn.any fun a => a.cls == 5 && a.who == .ring r && !a.admitted then
    (c.put (STN_LAT.STATE r) 2).turnEnd 5 (.ring r)
  else c

/-- RING_LOST_RETRAIN (R227). -/
def execRingLostRetrain (r : Fin 4) (now : Time) (s : State) : Host.Outcome State Fault Refusal := s.on fun c =>
  let c := c.arrive now
  if c.rstate r = 5 && (c.ring r).lostAt.toNat + 100000000 ≤ c.t then
    c.retrain r
  else c

/-- A station that enumeration does not admit (R503): it is dropped out, without an event if it has never taken part. -/
def Chip.notAdmitted (c : Chip) (r : Fin 4) (s : Fin 32) : Chip :=
  if c.bitOf (STN_DROP.DROP r) s then c
  else if (c.ring r).joined.getLsbD s then c.dropout r s
  else c.putDrop r s true

/-- Enumeration handles a station (R228, R503): an admitted one takes part at once when it is new, and rejoins under R235 when it was dropped. -/
def Chip.admitStation (c : Chip) (r : Fin 4) (l : List StnIdent) (s : Fin 32) : Chip :=
  match l.find? (·.s == s), c.image with
  | some x, some im =>
    let k := 32 * r.val + s.val
    let same := (im.sec.idents.find? (·.1 == k)).all fun e => e.2.1 == x.type && e.2.2 == x.cap
    let c := (c.wr (STN_SCAP.reg r s) x.cap).putB (STN_SSTAT.CFGMIS r s) (!same)
    if same && (im.sec.pchk.find? (·.1 == k)).all fun e => e.2 == x.pchk then
      if c.bitOf (STN_DROP.DROP r) s then c else c.modRing r fun q => { q with joined := bput q.joined s true }
    else c.notAdmitted r s
  | _, _ => c.notAdmitted r s

/-- ENUMERATION_COMPLETE (R228, R501 to R503): RTD of a broken ring is half the round trip of the longer leg, rounded up to 8 ns. With a refused RTD
the ring admits no station and goes on as LOST until its next
enumeration (DESIGN CHOICE, log entry 14). -/
def execEnumerationComplete (r : Fin 4) (e : EnumReport) (now : Time) (s : State) : Host.Outcome State Fault Refusal := s.on fun c =>
  let c := c.arrive now
  if c.rstate r ≠ 2 then c
  else
    let c := c.modRing r fun q => { q with ready := true, rejoin := Vector.replicate 32 0, lnk := 0, cyc := none, prep := 0 }
    let old := c
    let st := c.stations r
    let rtd := if e.broken then (max e.leg0 e.leg1 + 15) / 16 else e.link0
    if c.rtdOk r rtd then
      let c := (c.put (STN_LAT.RTD r) rtd).modRing r fun q => { q with enumerated := true }
      let c := (c.forIn st fun s c => c.admitStation r e.idents s).ringFaults old r (fun s => (old.ring r).joined.getLsbD s) true 0
      let c := c.forIn st fun s c => c.rxTake (32 * r.val + s.val)
      if e.broken then (c.setBrk r e.brkpos).put (STN_LAT.STATE r) 4 else (c.clr (STN_LAT.B0NONE r)).put (STN_LAT.STATE r) 3
    else
      let c := ((c.set1 (STN_STAT.RTDERR r)).forIn st fun s c => c.notAdmitted r s).ringFaults old r (fun s => (old.ring r).joined.getLsbD s) true 1
      let c := c.forIn st fun s c => c.rxTake (32 * r.val + s.val)
      (c.put (STN_LAT.STATE r) 5).modRing r fun q => { q with enumerated := false, lostAt := c.tb }

/-! ### Acyclic transactions -/

/-- A write to STN_AQSUB (R239). -/
def Chip.aqSubmit (c : Chip) (r : Fin 4) (w : Cmd) : Chip :=
  c.allow (isMc w.agent || isHost w.agent) w.agent (STN_AQSUB.reg r) fun c =>
    if !w.value.getLsbD 6 then c
    else
      let t : Fin 64 := Fin.ofNat 64 w.value.toNat
      if c.get (acStatus r t) = 1 then c.put (STN_STATE.AQERR r) 1
      else
        let c := (c.put (STN_STATE.AQERR r) 0).put (acOwner r t) w.agent.toNat
        let op := c.get ⟨acAddr r t 0, 7, 0⟩
        if 1 ≤ op && op ≤ 6 && c.acStation r t < c.get (STN_STATE.NSTN r) && c.get ⟨acAddr r t 0, 23, 16⟩ ≤ 112 then
          (c.put (acStatus r t) 1).modRing r fun q => { q with acq := q.acq ++ [t] }
        else c.acDone r t 6

/-- STN_AQSUB_SUBMIT (R239). -/
def execStnAqsubSubmit (r : Fin 4) (w : Cmd) (s : State) : Host.Outcome State Fault Refusal := s.on fun c => (c.arrive w.now).aqSubmit r w

/-- Response data replaces the request data of a slot. -/
def Chip.acData (c : Chip) (r : Fin 4) (t : Fin 64) (l : List Byte) : Chip :=
  c.forIn ((l.take 112).zipIdx) fun b c =>
    let i := b.2 % 4
    c.put ⟨acAddr r t (4 + b.2 / 4), 8 * i + 7, 8 * i⟩ b.1.toNat

/-- ACR_RECEIVED (R240). -/
def execAcrReceived (r : Fin 4) (tag : Fin 64) (a : AcrFrame) (now : Time) (s : State) : Host.Outcome State Fault Refusal := s.on fun c =>
  let c := c.arrive now
  if !a.ok || a.station ≠ c.acStation r tag || !(c.ring r).sent.any (·.1 == tag) then c
  else
    let c := (c.acData r tag a.data).put (acRlen r tag) (min a.data.length 112)
    match a.serr with
    | some e => (c.put (acSerr r tag) e).acDone r tag 3
    | none => c.acDone r tag 2

/-- ACYCLIC_TIMEOUT (R240). -/
def execAcyclicTimeout (r : Fin 4) (tag : Fin 64) (now : Time) (s : State) : Host.Outcome State Fault Refusal := s.on fun c =>
  let c := c.arrive now
  match (c.ring r).sent.find? (·.1 == tag) with
  | some (_, n) => if n + c.get (STN_CTL.ACTO r) ≤ (c.ring r).lastCyc then c.acDone r tag 4 else c
  | none => c

end Sys2Proof.Machine
end

