-- ==== Sys2Proof/Machine/Restart.lean ====
section
/-! DEFINITION. COLD and WARM restarts (R47 to R51, R133, R159, R189, R501): the checks before them and what they initialise. -/

namespace Sys2Proof.Machine

/-! ### The flush record -/

/-- Record 1 (Table 14.5), when it is valid and its byte count is not 0: digest, bytes written, CRC, TB and TIME_VALID. -/
def Chip.flushHead (c : Chip) : Option (Nat × Nat × Word × Time × Bool) :=
  let l := c.chipRecData 1
  let n := recField l 8 4
  if 32 ≤ l.length && n ≠ 0 then
    some (recField l 0 8, n, BitVec.ofNat 32 (recField l 12 4), BitVec.ofNat 64 (recField l 16 8), (recField l 24 4).testBit 0)
  else none

/-- The flush record, when it is valid (R387): digest, bytes written, TB and TIME_VALID. -/
def Chip.flushRec (c : Chip) : Option (Nat × Nat × Time × Bool) :=
  match c.flushHead with
  | some (d, n, crc, tb, valid) => if crc32c (c.ldBytes 0x60038000 n) == crc then some (d, n, tb, valid) else none
  | none => none

/-- The check of R48 reads record 1 and the retentive area (R375, R380). -/
def Chip.flushNotes (c : Chip) : Chip := (c.chipNotes 1).noteCells 0x60038000 ((c.flushHead.map (·.2.1)).getD 0)

/-- A WARM restart is possible (R48). -/
def Chip.warmOk (c : Chip) : Bool :=
  match c.flushRec with
  | some (d, _, _, _) => c.image.isSome && BitVec.ofNat 64 d == c.olc.digest
  | none => false

/-- The retentive ranges take the bytes of the retentive area in order (R47). -/
def Chip.restoreRanges (c : Chip) (src : Nat) : List (Nat × Nat) → Chip
  | [] => c
  | (a, n) :: l => ((c.stBytes a (c.ldBytes src n)).clean a n).restoreRanges (src + n) l

/-- Timer stamps of retentive instances are rebased (R49): each START moves by a difference. -/
def Chip.rebaseTimers (c : Chip) (l : List Word) (d : Time) : Chip :=
  c.forIn l fun a c => (c.st a.toNat 8 (BitVec.ofNat 64 (c.ld a.toNat 8) + d).toNat).clean a.toNat 8

/-- The WARM restore (R47, R49). -/
def Chip.warmRestore (c : Chip) : Chip :=
  match c.flushRec, c.image with
  | some (_, _, tb, valid), some im =>
    let c := c.restoreRanges 0x60038000 im.sec.retain
    if !im.rebase && valid && !c.flag RTC_STATE.TIMEINV then c else c.rebaseTimers im.sec.timers (c.tb - tb)
  | _, _ => c

/-! ### Initialisation -/

/-- A task slot at the entry to RUN (R143, R159, R185, R189): it starts in the mode of PAIRINIT with nothing under way. -/
def Chip.initTask (c : Chip) (t : Fin 32) : Chip :=
  let k := c.kind t
  let pair := k != 0 && c.flag (SHD_TCFG.PAIRINIT t)
  let c := c.modTask t fun _ => { Task.zero with
    first := k != 0,
    drops := #v[c.rd (STN_DROP.reg 0), c.rd (STN_DROP.reg 1), c.rd (STN_DROP.reg 2), c.rd (STN_DROP.reg 3)] }
  let c := (((c.wr (SCN_TSCAN.reg t) 0).wr (SCN_TMAX.reg t) 0).put (SCN_TSTAT.ABNCNT t) 0).put (SCN_TSTAT.PHASE t) 0
  let c := c.clr (SCN_TSTAT.HELD t)
  let c := (c.putB (SCN_TSTAT.ACT t) (k != 0)).putB (SCN_TSTAT.SUBST t) (k == kCYC)
  let c := ((c.wr (SHD_TSTAT.reg t) 0).putB (SHD_TSTAT.CUR t) pair).putB ⟨SHD_TMODE.reg t, 0, 0⟩ pair
  let c := { c with staged := spDel (SHD_TMODE.reg t) c.staged }
  if pair then c.pairStorage t else c

/-- The working Q image takes the substitute values (Table 2.6, R236). -/
def Chip.initQ (c : Chip) : Chip :=
  c.forFin 4 fun r c => c.forIn (c.stations r) fun s c =>
    let k := 32 * r.val + s.val
    let c := (c.subNote r s).forIn (List.range (c.get (STN_SCFG.DOB r s))) fun g c =>
      c.stBits32 (0x10000 + 32 * (16 * k + g)) (c.subBits32 r s true g (imgGet c.img.outB (16 * k + g)))
    c.forIn (List.range (c.get (STN_SCFG.AOW r s))) fun i c =>
      (c.modImg fun m => { m with wQ := imgSet (64 * k + i) (c.subWord r s true i (imgGet c.img.outW (64 * k + i))) m.wQ }).markWords imgWorkQ (64 * k + i) 1

/-- Every force entry is cleared, and each is recorded (R47, R210). -/
def Chip.clearForces (c : Chip) : Chip :=
  ((c.forIn c.olc.forces fun f c => c.post 0x001 f.sym.id).modOlc fun o => { o with forces := [] }).fcnt

/-- Initial values from the image, and on COLD the edge previous-state bits of retentive instances cleared (Table 2.6). -/
def Chip.initData (c : Chip) (warm : Bool) : Chip :=
  match c.image with
  | some im =>
    let c := c.forIn im.sec.data fun d c => (c.stBytes d.1 d.2).clean d.1 d.2.length
    if warm then c else c.forIn im.sec.edges fun b c => c.stBit b false
  | none => c

/-- The start-up task of a kind: 0 COLD_START, 1 WARM_START. -/
def Chip.startTask (c : Chip) (warm : Bool) : Option (Fin 32) :=
  c.configured.find? fun t => c.kind t == kSTART && c.get (SCN_TCFG.SUB t) == warm.toNat

/-- RUN is entered by a restart (R47, R133): state is initialised, and the start-up task is released or the anchor fixed. -/
def Chip.restart (c : Chip) (warm : Bool) (reason : Nat) : Chip :=
  let c := c.clearForces.initData warm
  let c := if warm then c.flushNotes.warmRestore else c
  let c := c.initQ.armRetentive
  let c := c.forFin 32 fun t c => c.initTask t
  let c := c.enterMode mRUN reason
  let st := c.startTask warm
  let c := c.modSys fun y => { y with inited := true, warm := warm, runReq := none, start := none, startup := st, anchored := false }
  let c := (if c.pairMember then c.put HSB_STATE.ROLE 1 else c).updateGates
  match st with
  | some t => c.beginActivation t c.tb 0 0 0 0
  | none => c.fixAnchor

/-! ### The checks -/

/-- Every configured ring is ready (R501). -/
def Chip.ringsReady (c : Chip) : Bool :=
  (List.finRange 4).all fun r => c.get (STN_STATE.NSTN r) == 0 || (c.ring r).ready

/-- CMDERR of a command (SYS_CMDSTAT). -/
def Chip.cmdErr (c : Chip) (e : Nat) : Chip := c.put SYS_CMDSTAT.CMDERR e

/-- A RUN command or start mode is refused for its condition; a transition that it had begun ends. A start mode of the image that still
waits for the rings is not touched (R501). -/
def Chip.runRefused (c : Chip) : Chip :=
  let c := (c.cmdErr 4).modSys fun y => { y with runReq := none }
  if c.get SYS_MODE.TARGET == mRUN then (c.clr SYS_MODE.TRANS).clr SYS_MODE.TARGET else c

/-! ### The interlock -/

/-- ILK_IN has been released for a time in ns (R262). -/
def Chip.ilkReleased (c : Chip) (ns : Nat) : Bool := c.hsb.relSince.any fun t => t.toNat + ns ≤ c.t

/-- Neither heartbeat path is valid. -/
def Chip.pathsLost (c : Chip) : Bool := !c.flag HSB_LINK.P1OK && !c.flag HSB_LINK.P2OK

/-- No line fault and no pair-identity error bars a claim (R262). -/
def Chip.claimClean (c : Chip) : Bool := !c.flag HSB_ILK.INFLT && !c.flag HSB_ILK.OUTFLT && !c.flag HSB_STAT.PAIRIDERR

/-- The conditions of a start claim beside the request itself (R262). -/
def Chip.startClaimOk (c : Chip) : Bool :=
  c.claimClean && c.ilkReleased 50000 && !c.pins.fence &&
    (c.pathsLost || c.hsb.partner.any fun r => (r.mode == mLOAD || r.mode == mSTOP || r.mode == mSAFE) && !r.claim)

/-- A restart is asked for (R37, R48, R124, R501): the rings must be ready and the configuration check must pass; a pair member then claims
the interlock first, or stays in STOP and requests resync. A start mode answers in CMDERR as a command does, also where it is accepted
(DESIGN CHOICE, log entry 97: the spec gives its CMDERR for a refusal alone). -/
def Chip.askRun (c : Chip) (warm : Bool) (reason : Nat) : Chip :=
  let c := if reason = 2 then c.modSys fun y => { y with start := none } else c
  if !c.ringsReady || c.flushing then c.runRefused
  else
    let e := c.checkRun
    if e ≠ 0 then (c.put SYS_BOOTSTAT.CFGERR e).runRefused
    else if warm && !c.warmOk then (c.flushNotes.put SYS_BOOTSTAT.CFGERR 6).runRefused
    else if !c.pairMember || c.get HSB_STATE.CLM == 2 then (c.restart warm reason).cmdErr 0
    else if c.get HSB_STATE.CLM == 0 && c.startClaimOk then
      ((c.cmdErr 0).beginTrans mRUN).modSys fun y => { y with runReq := some (warm, reason) }
    else c.runRefused.wantRs

end Sys2Proof.Machine
end

