-- ==== Sys2Proof/Machine/Pwr.lean ====
section
/-! DEFINITION. Power feeds, the Turnstile, INTERMISSION and the power-fail flush (R438 to R456). -/

namespace Sys2Proof.Machine

/-! ### Feeds -/

/-- AGOOD or BGOOD. -/
def goodFld (f : Fin 2) : Fld := if f = 0 then PWR_FEED.AGOOD else PWR_FEED.BGOOD
/-- CORESRC, IOSRC or SDSRC. -/
def srcFld (d : Fin 3) : Fld := if d = 0 then PWR_FEED.CORESRC else if d = 1 then PWR_FEED.IOSRC else PWR_FEED.SDSRC
/-- The feed of a domain. -/
def Chip.feedOf (c : Chip) (d : Fin 3) : Fin 2 := Fin.ofNat 2 (c.get (srcFld d))
/-- A feed is good. -/
def Chip.feedGood (c : Chip) (f : Fin 2) : Bool := c.flag (goodFld f)

/-- ENV follows its conditions (R443). -/
def Chip.envUpdate (c : Chip) : Chip :=
  let t := ((c.rd PWR_TEMP.reg).setWidth 16).toInt
  c.putB PWR_FEED.ENV (((List.finRange 3).all fun d => c.feedGood (c.feedOf d)) && -640 ≤ t && t ≤ 2000)

/-- A domain switches to a feed (R439, R440). -/
def Chip.switchTo (c : Chip) (d : Fin 3) (f : Fin 2) : Chip :=
  ((c.put (srcFld d) f.val).set1 PWR_STAT.SWITCH).modPwr fun p => { p with left := p.left.set d (f.val != c.get PWR_CTL.PREF) }

/-- Every domain that draws from a lost feed switches to the other where that is good (R439). -/
def Chip.feedsFollow (c : Chip) : Chip :=
  (c.forFin 3 fun d c =>
    let f := c.feedOf d
    if !c.feedGood f && c.feedGood (1 - f) then c.switchTo d (1 - f) else c).envUpdate

/-- A feed is declared lost or good: the picture of the feeds and the domains follow (R438, R439). The supervisor goes on so while the chip holds
itself halted after a flush; without core power the next POWER_ON_RESET gives the picture (DESIGN CHOICE, log entry 141). -/
def Chip.declareFeed (c : Chip) (f : Fin 2) (good : Bool) : Chip :=
  if good then (((c.set1 (goodFld f)).set1 PWR_STAT.FEEDREST).modPwr fun p => { p with goodAt := p.goodAt.set f c.tb }).feedsFollow
  else (((c.clr (goodFld f)).set1 PWR_STAT.FEEDLOST).modPwr fun p => { p with diffs := 0 }).feedsFollow

/-- FEED_LOST (R438, R439, R442). -/
def execFeedLost (f : Fin 2) (now : Time) (s : State) : Host.Outcome State Fault Refusal := s.onHeld fun c =>
  let c := c.arrive now
  if c.sys.held = .power || !c.feedGood f then c
  else let c := c.declareFeed f false; if c.sys.held = .no then c.degradeSys 0x0A 0 0x50 else c

/-- FEED_GOOD (R438, R439, R442). -/
def execFeedGood (f : Fin 2) (now : Time) (s : State) : Host.Outcome State Fault Refusal := s.onHeld fun c =>
  let c := c.arrive now
  if c.sys.held = .power || c.feedGood f then c
  else let c := c.declareFeed f true; if c.sys.held = .no then c.fault 0 0x0A 0 0x52 else c

/-- AUTO_RETURN (R440). -/
def execAutoReturn (d : Fin 3) (now : Time) (s : State) : Host.Outcome State Fault Refusal := s.on fun c =>
  let c := c.arrive now
  let f : Fin 2 := Fin.ofNat 2 (c.get PWR_CTL.PREF)
  if c.flag PWR_CTL.AUTORET && c.pwr.left[d] && c.feedOf d ≠ f && c.feedGood f && c.pwr.goodAt[f].toNat + 100000000 ≤ c.t then
    (c.switchTo d f).envUpdate
  else c

/-- FEED_COMPARE (R441): the difference of the VCORE feeds in mV. -/
def execFeedCompare (mv : Nat) (now : Time) (s : State) : Host.Outcome State Fault Refusal := s.on fun c =>
  let c := c.arrive now
  if !c.feedGood 0 || !c.feedGood 1 then c
  else
    let c := (c.put PWR_FEED.DIFF (min 255 mv)).modPwr fun p => { p with diffs := if 30 < mv then p.diffs + 1 else 0 }
    if c.pwr.diffs < 3 || c.flag PWR_STAT.FEEDMM then c else (c.set1 PWR_STAT.FEEDMM).degradeSys 0x0A 0 0x51

/-- TEMP_SENSOR_UPDATE (R443). -/
def execTempSensorUpdate (tj : BitVec 16) (now : Time) (s : State) : Host.Outcome State Fault Refusal := s.on fun c =>
  ((c.arrive now).put PWR_TEMP.TJ tj.toNat).envUpdate

/-! ### Turnstile -/

/-- Where a bank of the configuration image lies (Table 2.4). -/
def cfgBank (b : Nat) : Nat := 0x70200000 + 0x800000 * b

/-- One burst of the converted image (R46): first the bank is erased, so that its header is gone, then the body is programmed in portions of
4 KiB, and last the header of 64 bytes (the size of a burst is DESIGN CHOICE, log entry 101). -/
def Chip.convBurst (c : Chip) (v : Conv) : Chip :=
  let a := cfgBank v.bank
  let n := (v.image.length + 4095) / 4096
  let c :=
    if v.bursts = 0 then { c with mem := c.mem.filter fun e => !(a ≤ e.1 && e.1 < a + 0x800000) }
    else if v.bursts ≤ n then
      let lo := max 64 (4096 * (v.bursts - 1))
      c.stBytes (a + lo) ((v.image.take (4096 * v.bursts)).drop lo)
    else c.stBytes a (v.image.take 64)
  let c := (c.modSys fun y => { y with conv := if v.bursts ≤ n then some { v with bursts := v.bursts + 1 } else none }).turnEnd 0 .xspi
  if c.sys.conv.isSome || c.upd.job.isSome then c.turnAsk 0 .xspi else c

/-- A write to PWR_BUDGET (R446). -/
def Chip.budget (c : Chip) (w : Cmd) : Chip :=
  (c.arrive w.now).allow (isMc w.agent || isHost w.agent) w.agent PWR_BUDGET.reg fun c =>
    if !budgetOk w.value then c.set1 PWR_STAT.BUDERR
    else if c.flag PWR_BUDGET.LK then c
    else c.wr PWR_BUDGET.reg (w.value &&& 0x87FF07FF)

/-- PWR_BUDGET_WRITE. -/
def execPwrBudgetWrite (w : Cmd) (s : State) : Host.Outcome State Fault Refusal := s.on fun c => c.budget w

/-! ### INTERMISSION -/

/-- The ring that stays awake (R241): the lowest one with IMKEEP. -/
def Chip.keptRing (c : Chip) : Option (Fin 4) := (List.finRange 4).find? fun r => c.flag (STN_CTL.IMKEEP r)

/-- The entry to INTERMISSION begins (R449): its conditions answer CMDERR. -/
def Chip.intermission (c : Chip) : Chip :=
  if !c.turnHeld.turn.isEmpty || c.get PWR_WAKEEN.EN = 0 then c.cmdErr 4
  else
    let c := ((c.cmdErr 0).beginTrans mINTER).modPwr fun p => { p with wakeEn := c.get PWR_WAKEEN.EN, kept := c.keptRing, wake := none }
    match c.pwr.kept with
    | some r => c.doIf (c.get (STN_STATE.NSTN r) ≠ 0) (·.retrain r)
    | none => c

/-- INTERMISSION_ENTRY_COMPLETE (R241, R449): the other rings go down, and so do lane 1 of the sync link
and the mimic engine (R417). Transactions that are pending in a ring that goes down end with STATUS 7 (DESIGN CHOICE, log entry 137: R241 gives the status of
a closing gate only). A wake that came meanwhile begins the exit (R36). -/
def execIntermissionEntryComplete (now : Time) (s : State) : Host.Outcome State Fault Refusal := s.on fun c =>
  let c := c.arrive now
  let k := c.pwr.kept
  if c.mode != mSTOP || !c.asleep || (k.any fun r => c.get (STN_LAT.STATE r) == 1) then c
  else
    let c := c.forFin 4 fun r c =>
      if some r = k then c
      else ((c.forIn (c.acPending r) fun t c => c.acDone r t 7).put (STN_LAT.STATE r) 0).modRing r fun g => { g with cyc := none }
    let c := ((c.mimStop.clr HSB_LINK.LANE1).linkRest true).enterMode mINTER 1
    if c.pwr.wake.isSome then c.beginTrans mSTOP else c

/-- WAKE_SOURCE (R450). -/
def execWakeSource (k : Fin 5) (now : Time) (s : State) : Host.Outcome State Fault Refusal := s.on fun c => (c.arrive now).wake k

/-- INTERMISSION_EXIT_COMPLETE (R363, R451). -/
def execIntermissionExitComplete (now : Time) (s : State) : Host.Outcome State Fault Refusal := s.on fun c =>
  let c := c.arrive now
  if c.mode != mINTER || c.pwr.wake.isNone then c
  else (((c.enterStop 7).set1 PWR_STAT.WOKE).modPwr fun p => { p with wake := none }).drainGo true

/-! ### Power-fail flush -/

/-- Both feeds have been declared lost. -/
def Chip.feedsLost (c : Chip) : Bool := !c.feedGood 0 && !c.feedGood 1

/-- POWER_FAIL_TRIGGER (R452, R453): once since power-good. The parameter store alone completes what it has begun. -/
def execPowerFailTrigger (pin : Bool) (now : Time) (s : State) : Host.Outcome State Fault Refusal := s.on fun c =>
  let c := c.arrive now
  if c.flushing || c.pins.pfailLow || !(pin || c.feedsLost) then c
  else
    let c := (c.modPwr fun p => { p with flush := some c.tb }).endTasks
    let c := if c.pairMember then c.releaseClaim else c.updateGates
    let c := c.modSys fun y => { y with conv := none }
    { c with turn := c.turn.filter fun a => a.admitted && a.cls == 0 && a.who == .store,
             rcd := { c.rcd with drain := none, stopped := true } }

/-- The bytes of the retentive layout (R454). -/
def Chip.retentive (c : Chip) : List Byte := match c.image with
  | some im => im.sec.retain.flatMap fun e => c.ldBytes e.1 e.2
  | none => []

/-- A number as little-endian bytes. -/
def leBytes : Nat → Nat → List Byte
  | 0, _ => []
  | n + 1, v => BitVec.ofNat 8 v :: leBytes n (v / 256)

/-- The retentive area and record 1 (R50, R387, R388, R454). -/
def Chip.flushRetentive (c : Chip) : Chip :=
  if !c.flag NVS_STAT.RARM || !c.sys.inited then c
  else
    let l := c.retentive
    let c := ((c.stBytes 0x60038000 l).clr NVS_STAT.RARM).set1 PWR_FLUSH.RETW
    c.chipRec 1 (leBytes 8 c.olc.digest.toNat ++ leBytes 4 l.length ++ bytesOfWords [crc32c l] ++ leBytes 8 c.t ++
      leBytes 4 (!c.flag RTC_STATE.TIMEINV).toNat ++ leBytes 4 0)

/-- The tail area and record 2 (R368, R388). -/
def Chip.flushTail (c : Chip) : Chip :=
  let q := c.rcd.queue.map (·.words)
  if !c.flag NVS_STAT.TARM then c.set1 NVS_STAT.TAILLOST
  else
    let l := q.flatMap bytesOfWords
    let c := ((c.stBytes 0x60058000 l).clr NVS_STAT.TARM).set1 PWR_FLUSH.TAILW
    c.chipRec 2 (leBytes 4 q.length ++ bytesOfWords [crc32c l] ++ leBytes 8 0)

/-- FLUSH_COMPLETE (R453 to R455), once the parameter store has completed what it had begun: the chip then holds itself halted. -/
def execFlushComplete (now : Time) (s : State) : Host.Outcome State Fault Refusal := s.on fun c =>
  let c := c.arrive now
  match c.pwr.flush with
  | none => c
  | some t =>
    if c.turnHas 0 .store then c
    else
      let c := ((c.flushRetentive.flushTail).put PWR_FLUSH.TIME (min 65535 ((c.t - t.toNat) / 1000))).set1 PWR_FLUSH.DONE
      c.modSys fun y => { y with held := .flushed }

end Sys2Proof.Machine
end

