-- ==== Sys2Proof/Machine/Resets.lean ====
section
/-! DEFINITION. The resets (R38, R376, R402, R413, R455, R489 to R492): what each preserves. -/

namespace Sys2Proof.Machine

/-- Addresses that hold nonvolatile contents: the parameter store and the xSPI device. -/
def nonvolatile (a : Nat) : Bool := (0x60000000 ≤ a && a < 0x60080000) || inXspi a

/-- Registers that every reset of Table 2.3 leaves alone (R402). -/
def backupReg (a : Nat) : Bool := a == RTC_TRIM.reg || a == RTC_ALM.reg || (List.range 16).any fun j => a == RTC_BKP.reg j
/-- Registers that a pin reset preserves beside those (Table 2.3, and where a chapter says so of its own registers): the mismatch record,
the counters that count since power-on reset, the MBX block, and the RTC block; the supervisor's picture of the feeds goes on
(DEDUCED, log entry 22). -/
def pinReg (a : Nat) : Bool :=
  (0x40030000 ≤ a && a < 0x40030030 && a != SHD_LOCK.reg) || (0x400C0000 ≤ a && a < 0x400D0000) || (0x400F0000 ≤ a && a < 0x400F0100) ||
    [SYS_MAPSEQ.reg, SYS_RSTCAUSE.reg, PWR_FEED.reg, PWR_FLUSH.reg, OLC_ACTSEQ.reg, OLC_DISCNT.reg, FLT_CNTA.reg, FLT_CNTB.reg,
      FLT_ECC.reg, FLT_LOGSEQ.reg, GRD_PSEQ.reg, GRD_VCNT.reg].contains a
/-- Fields of other registers that count since power-on reset. -/
def pinFields : List Fld := [OLC_FDRSN.CNT, HSB_ARBSTAT.COUNT, HSB_SYNCSTAT.LLCNT] ++ (List.range 7).map PWR_TSCLS.WMAX

/-- The levels on the interlock lines show in HSB_ILK again after a reset. -/
def Chip.showLines (c old : Chip) : Chip :=
  let c := [HSB_ILK.INT, HSB_ILK.INC, HSB_ILK.INASS, HSB_ILK.INRELD].foldl (fun (c : Chip) f => c.put f (old.get f)) c
  (c.put WDG_STAT.WDILVL (old.get WDG_STAT.WDILVL)).modHsb fun h => { h with relSince := old.hsb.relSince }

/-! ### An operation of the store that a reset or a loss of power meets (R376, R381, R386) -/

/-- The cell writes that may be under way under the admission of the store: one list for each writer that waits. -/
def Chip.storeWrites (c : Chip) : List (List (Nat × Nat)) :=
  [c.jobCells, c.mapCells, c.keyCells, ((c.rcd.queue.find? fun q => !q.inKeep).map keepCells).getD []].filter (!·.isEmpty)

/-- Cell writes are cut off: a part of them, of unstated length, is complete, and where power is lost the next cell holds an unstated value. -/
def Chip.writesCut (c : Chip) (power : Bool) (l : List (Nat × Nat)) : Chip :=
  let (m, c) := c.freeW
  let k := m.toNat % (l.length + 1)
  let c := (c.cellSeq (l.take k)).2
  match power, l[k]? with
  | true, some e => c.cellFree e.1
  | _, _ => c

/-- An erase unit that is under way completes before a reset; where power is lost its cells hold unstated values. -/
def Chip.unitCut (c : Chip) (power : Bool) : Chip :=
  match c.nvs.erasing with
  | [] => c
  | (o, _) :: _ => if power then c.forIn (List.range 512) fun i c => c.cellFree (0x60000000 + o + 8 * i) else c.eraseNvs o 4096

/-- The operation of the store under way when a reset comes completes first, or is cut off by the loss of power (R376). Which of the writers that
wait has begun is unstated. -/
def Chip.storeCut (c : Chip) (power : Bool) : Chip :=
  if !c.turnHas 0 .store then c
  else
    let l := c.storeWrites
    let (n, c) := c.freeW
    match l[n.toNat % l.length]? with
    | some w => c.writesCut power w
    | none => c.unitCut power

/-- An increment within the 2.5 µs that it takes at most (Table 14.6) when power is lost: its cell holds the new value, the old one, or is invalid
(R386). -/
def Chip.incCut (c : Chip) : Chip :=
  match c.nvs.inc with
  | none => c
  | some (a, old, t) =>
    if t.toNat + 2500 < c.t then c
    else
      let (n, c) := c.freeW
      if n.toNat % 3 = 0 then c else if n.toNat % 3 = 1 then c.cellPut a old else c.cells ⟨[cellOf a], []⟩

/-- Power is lost: what the store has under way is cut off. -/
def Chip.powerCut (c : Chip) : Chip := (c.storeCut true).incCut

/-- A reset into LOAD. TB runs on until the boot ROM loads it (R49; DESIGN CHOICE, log entry 21). -/
def Chip.resetTo (c : Chip) (keep : Nat → Bool) (pin : Bool) : Chip :=
  let z := Chip.reset
  let r : Chip := { z with
    tb := c.tb
    regs := c.regs.filter fun e => backupReg e.1 || keep e.1
    staged := c.staged.filter fun e => e.1 == RTC_TRIM.reg
    mem := c.mem.filter fun e => nonvolatile e.1
    free := c.free
    flt := { Flt.zero with fuses := c.flt.fuses, log := if pin then c.flt.log else Flt.zero.log }
    mbx := if pin then c.mbx else Mbx.zero
    rcd := { Rec.zero with carousel := c.rcd.carousel }
    upd := { Upd.zero with digests := c.upd.digests }
    nvs := { Nvs.zero with worn := c.nvs.worn, bad := c.nvs.bad, stuck := c.nvs.stuck }
    rtc :=
      if pin then { c.rtc with vbatSaid := false }
      else { c.rtc with wdayEn := false, vbatSaid := false, ppsAt := none, ppsOn := none, ppsRun := 0, slew := 0, ticks := 0, slews := 0 }
    pins := { c.pins with refclk := true, xspiAt := none, emmcUsed := false }
    pwr := if pin then { Pwr.zero with left := c.pwr.left, goodAt := c.pwr.goodAt } else Pwr.zero }
  let r := if pin then pinFields.foldl (fun (r : Chip) f => r.put f (c.get f)) r else r
  (((r.put RTC_STATE.TIMEINV (c.get RTC_STATE.TIMEINV)).putB HSB_STATE.PID c.pins.pairId).showLines c).linkRest false

/-- A reset that preserves what a pin reset preserves, with its bit of SYS_RSTCAUSE. The store completes first what it has under way (R376), and ENV
shows its conditions again (R443). -/
def Chip.pinReset (c : Chip) (cause : Fld) : Chip := (((c.storeCut false).resetTo pinReg true).set1 cause).envUpdate

/-- POWER_ON_RESET (R38, R489, R491): power-good; while RST_N is low the chip stays in reset. A domain whose preferred feed is not good draws from
the other. With TESTEN high the
chip is in a mode that the spec does not describe (R484). -/
def execPowerOnReset (p : PowerOn) (now : Time) (s : State) : Host.Outcome State Fault Refusal :=
  if p.testen then .fault .testMode
  else s.onHeld fun c =>
    let c := c.arrive now
    if !p.a && !p.b then c
    else
      let c := c.powerCut.resetTo (fun _ => false) false
      let c := { c with pins := { c.pins with pairId := p.pairId, testen := false, pfailLow := p.pfailLow, fence := p.fence } }.putB HSB_STATE.PID p.pairId
      let c := ((c.putB PWR_FEED.AGOOD p.a).putB PWR_FEED.BGOOD p.b).modPwr fun q => { q with goodAt := Vector.replicate 2 c.tb }
      let c := if p.a then c else c.forFin 3 fun d c => (c.put (srcFld d) 1).modPwr fun q => { q with left := q.left.set d true }
      let c := (c.put SYS_RSTCAUSE.POR 1).envUpdate
      if p.rstLow then c.modSys fun y => { y with held := .pin } else c

/-- PIN_RESET (R38), at the rise of RST_N. A chip without power-good stays in its power-on reset, and one that only RST_N has kept in it leaves it
(R491). -/
def execPinReset (now : Time) (s : State) : Host.Outcome State Fault Refusal := s.onHeld fun c =>
  let c := c.arrive now
  if c.sys.held = .power then c
  else if c.sys.held = .pin then c.modSys fun y => { y with held := .no }
  else c.pinReset SYS_RSTCAUSE.PIN

/-- POWER_GOOD_LOST (R490). -/
def execPowerGoodLost (now : Time) (s : State) : Host.Outcome State Fault Refusal := s.onHeld fun c =>
  let c := (c.arrive now).powerCut.resetTo (fun _ => false) false
  c.modSys fun y => { y with held := .power }

/-- WATCHDOG_RESET (R413), once the second period has expired and no erase unit of the store is under way, nor, by the worked example of the
chapter, the write of a defect-map entry. -/
def execWatchdogReset (now : Time) (s : State) : Host.Outcome State Fault Refusal := s.on fun c =>
  let c := c.arrive now
  if !c.wdg.due || (c.turnHas 0 .store && ((!c.cellWriter && !c.nvs.erasing.isEmpty) || !c.flt.pendMap.isEmpty)) then c else c.pinReset SYS_RSTCAUSE.WDG

/-- FLUSH_RECOVERY_RESET (R455): PFAIL_N is high, and both feeds are declared good, which takes their 10 ms (R438). PWR_FLUSH keeps its value. -/
def execFlushRecoveryReset (now : Time) (s : State) : Host.Outcome State Fault Refusal := s.onHeld fun c =>
  let c := c.arrive now
  if c.sys.held ≠ .flushed || !c.feedGood 0 || !c.feedGood 1 then c
  else
    let c := c.pinReset SYS_RSTCAUSE.PFLUSH
    { c with pins := { c.pins with pfailLow := false } }

/-- PFAIL_STARTUP_WAIT_END (R492): the boot ROM's wait ends. -/
def execPfailStartupWaitEnd (now : Time) (s : State) : Host.Outcome State Fault Refusal := s.on fun c =>
  let c := c.arrive now
  { c with pins := { c.pins with pfailLow := false } }

end Sys2Proof.Machine
end

