-- ==== Sys2Proof/Machine/Upd.lean ====
section
/-! DEFINITION. Field update (R457 to R469): banks and their states, writing, activation, the live switch of the firmware, and the Safety
Net. -/

namespace Sys2Proof.Machine

/-! ### Banks -/

/-- MAGIC of a kind (Table 19.1). -/
def kindMagic (k : Nat) : Nat :=
  match k with
  | 0 => 0x4358564F
  | 1 => 0x4D46564F
  | 2 => 0x5153564F
  | 3 => 0x4B4C564F
  | _ => 0x5341564F

/-- The window address and size of a bank (Table 2.4, R457). -/
def bankAt (layout : List BankPlace) (k b : Nat) : Nat × Nat :=
  match k with
  | 0 => (0x70200000 + 0x800000 * b, 0x800000)
  | 1 => (0x70000000 + 0x100000 * b, 0x100000)
  | _ => match layout.find? (·.kind == k) with
    | some p => (0x70000000 + (if b = 0 then p.a else p.b), p.size)
    | none => (0x70000000, 0)

/-- LENGTH, FMT_MINOR, FMT_MAJOR and SEQ of an image at an address (Table 2.5). -/
def Chip.imgLen (c : Chip) (a : Nat) : Nat := c.ld (a + 0x0C) 4
/-- FMT_MINOR. -/
def Chip.imgMinor (c : Chip) (a : Nat) : Nat := c.ld (a + 4) 2
/-- FMT_MAJOR. -/
def Chip.imgMajor (c : Chip) (a : Nat) : Nat := c.ld (a + 6) 2
/-- SEQ. -/
def Chip.imgSeq (c : Chip) (a : Nat) : Nat := c.ld (a + 8) 4

/-- The format of an image is one that this revision takes (R43, R457). -/
def Chip.fmtOk (c : Chip) (k a : Nat) : Bool :=
  let j := c.imgMajor a
  if k = 0 then j == 1 || j == 2 || (j == 3 && c.imgMinor a ≤ 4) else j == 1

/-- A bank is valid, but for revocation (R43, R457). -/
def Chip.bankOk (c : Chip) (layout : List BankPlace) (k b : Nat) : Bool :=
  let (a, size) := bankAt layout k b
  let n := c.imgLen a
  c.ld a 4 == kindMagic k && c.fmtOk k a && 0x14 ≤ n && n ≤ size &&
    c.ld (a + 0x10) 4 == (crc32c (c.ldBytes (a + 0x14) (n - 0x14))).toNat

/-- The bank-state entry of a kind (Table 19.2). -/
def Chip.updEntry (c : Chip) (k : Nat) : Nat :=
  let l := c.chipRecData 3
  ((List.range 4).map fun i => (l.getD (4 * k + i) 0).toNat * 2 ^ (8 * i)).sum

/-- STG, PEND, REV and TRIES of an entry. -/
def entStg (e : Nat) : Nat := e % 4
/-- PEND. -/
def entPend (e : Nat) : Nat := e / 4 % 4
/-- REV. -/
def entRev (e : Nat) : Nat := e / 16 % 4
/-- TRIES. -/
def entTries (e : Nat) : Nat := e / 256 % 256
/-- An entry from its fields. -/
def entry (stg pend rev tries : Nat) : Nat := stg + 4 * pend + 16 * rev + 256 * tries

/-- UPD_BANKS shows the entries. -/
def Chip.banksShow (c : Chip) : Chip := c.forFin 5 fun k c =>
  let e := c.updEntry k
  let b := c.get (UPD_BANKS.INUSE k)
  let c := (c.putB (UPD_BANKS.STG k) ((entStg e).testBit (1 - b))).putB (UPD_BANKS.PEND k) (entPend e != 0)
  (c.putB (UPD_BANKS.REVA k) ((entRev e).testBit 0)).putB (UPD_BANKS.REVB k) ((entRev e).testBit 1)

/-- Record 3 takes an entry. -/
def Chip.putEntry (c : Chip) (k e : Nat) : Chip :=
  (c.chipRec 3 ((List.range 5).flatMap fun j => leBytes 4 (if j = k then e else c.updEntry j))).banksShow

/-- The bank in use of a kind. -/
def Chip.inUse (c : Chip) (k : Nat) : Nat := c.get (UPD_BANKS.INUSE k)

/-- The LAYOUT of the running image. -/
def Chip.layout (c : Chip) : List BankPlace := match c.image with
  | some im => im.sec.layout
  | none => []

/-! ### Commands -/

/-- An operation ends with UPDERR. -/
def Chip.updErr (c : Chip) (e : Nat) : Chip := ((c.put UPD_STATE.UPDERR e).updFlag 2).updShow

/-- Who may write the UPD block. -/
def updWriter (a : AgentId) : Bool := isMc a || isHost a

/-- A write to UPD_CMD under its key. -/
def Chip.updCmd (c : Chip) (w : Cmd) (f : Chip → Chip) : Chip :=
  (c.arrive w.now).allow (updWriter w.agent) w.agent UPD_CMD.reg fun c => if UPD_CMD.KEY.of w.value ≠ 0x1B8D then c else f c

/-- The chip stays in LOAD for want of an image (R41). -/
def Chip.loadWaits (c : Chip) : Bool := c.mode == mLOAD && c.get SYS_BOOTSTAT.CFGERR != 0

/-- The bank that a WRITE targets: the one not in use, or in LOAD an invalid one (R462). -/
def Chip.updTarget (c : Chip) (k : Nat) : Option Nat :=
  if c.loadWaits then
    if 2 ≤ k then none
    else if !c.bankOk c.layout k 0 then some 0
    else if !c.bankOk c.layout k 1 then some 1
    else none
  else some (1 - c.inUse k)

/-- Bytes as the engine reads them, as agent 0x5E: a read that the guard refuses gives zeros (R24, R471). -/
def Chip.updGet (c : Chip) (a n : Nat) : List Byte × Chip :=
  if c.admits 0x5E false a n then (c.ldBytes a n, c) else (List.replicate n 0, c.refusePart 0x5E false a n)

/-- The engine writes bytes as agent 0x5E: a write that the guard refuses is discarded (R24, R471). -/
def Chip.updPut (c : Chip) (a : Nat) (l : List Byte) : Chip :=
  if c.admits 0x5E true a l.length then c.stBytes a l else c.refusePart 0x5E true a l.length

/-- A word of a package. -/
def pkgNum (l : List Byte) (o n : Nat) : Nat := ((List.range n).map fun i => (l.getD (o + i) 0).toNat * 2 ^ (8 * i)).sum

/-- The signature rule (R460); true in the second place when the package is unsigned. -/
def Chip.sigOk (c : Chip) (l : List Byte) : Bool × Bool :=
  let slot (k : Nat) : List Byte := c.ldBytes (0x6006A080 + 64 * k) 64
  let full (k : Nat) : Bool := (slot k).any (· != 0)
  let k := pkgNum l 5 1
  if (List.range 4).any full then (k < 4 && full k && ecdsaOk (slot k) (l.take 64) ((l.drop 64).take 64), false)
  else (k == 0xFF, true)

/-- The checks of a package in the order of Table 19.5: the first that fails. `l` is the header and the image, and `differs` says that its LAYOUT is
not the running image's. -/
def Chip.pkgErr (c : Chip) (k : Nat) (differs : Bool) (l : List Byte) : Nat :=
  let n := pkgNum l 8 4
  let im := (l.drop 128).take n
  let zero (o m : Nat) : Bool := ((l.drop o).take m).all (· == 0)
  if pkgNum l 0 4 ≠ 0x4B505655 || 4 < k || pkgNum l 4 1 ≠ k || n = 0 || n % 4096 ≠ 0 || !zero 6 2 || !zero 0x30 16 then 1
  else if crc32c im != BitVec.ofNat 32 (pkgNum l 0x0C 4) then 2
  else if sha256 im != (l.drop 0x10).take 32 then 3
  else if !(c.sigOk l).1 then 4
  else if c.upd.job.isSome || c.upd.armed.isSome || c.upd.phase = 4 || entPend (c.updEntry k) ≠ 0 || (c.updTarget k).isNone then 5
  else if k = 0 && !c.loadWaits && differs then 6
  else if pkgNum im 0 4 ≠ kindMagic k || (bankAt c.layout k 0).2 < n then 7
  else 0

/-- The package at UPD_SRC in management memory or the host window, when its address is valid and the guard lets agent 0x5E read it. -/
def Chip.pkgRead (c : Chip) : Option (List Byte) × Chip :=
  let a := c.get UPD_SRC.SRC
  let n := 128 + c.ld (a + 8) 4
  if a % 8 = 0 && ((0x3C000000 ≤ a && a + n ≤ 0x3C0A0000) || (0x38000000 ≤ a && a + n ≤ 0x38080000)) then
    if c.admits 0x5E false a n then (some (c.ldBytes a n), c) else (none, c.refusePart 0x5E false a n)
  else (none, c)

/-- A package that has been read is checked, and its WRITE begins (R461, R462): the bank is marked first. `lay` is the LAYOUT of its image; where
UPD_CMD came as a plain write, what it holds is not known. -/
def Chip.updCheck (c : Chip) (k : Nat) (lay : Option (List BankPlace)) (l : List Byte) : Chip :=
  let c := c.noteCells 0x6006A080 256
  let (differs, c) : Bool × Chip := match lay with
    | some y => (y != c.layout, c)
    | none => let (w, c) := c.freeW; (w.getLsbD 0, c)
  match c.pkgErr k differs l, c.updTarget k with
  | 0, some b =>
    let c := (((c.put UPD_STATE.KIND k).put UPD_PROG.BYTES 0).put UPD_STATE.UPDERR 0).doIf (c.sigOk l).2 (·.updFlag 8)
    let t := c.updEntry k
    let c := if c.loadWaits then c.putEntry k (entry (entStg t) (2 ^ b) (entRev t) 0)
      else c.putEntry k (entry (entStg t ||| 2 ^ b) (entPend t) (entRev t) (entTries t))
    (c.updTo fun u => { u with job := some ⟨k, none, b, (l.drop 128).take (pkgNum l 8 4), 0⟩, digests := spIns k ((l.drop 0x10).take 32) u.digests }).turnAsk
      0 .xspi
  | e, _ => c.updErr (if e = 0 then 5 else e)

/-- WRITE (R461): a package in memory is read at once, and one in the eMMC, where the eMMC has its sectors (R13), under admissions. -/
def Chip.updWrite (c : Chip) (k : Nat) (media : List Byte) (lay : Option (List BankPlace)) : Chip :=
  if !c.flag UPD_SRCCFG.EMMC then
    match c.pkgRead with
    | (some l, c) => c.updCheck k lay l
    | (none, c) => c.updErr 9
  else if c.upd.job.isSome then c.updErr 5
  else if !c.emmcHas (c.get UPD_SRC.SRC) ((128 + pkgNum media 8 4 + 511) / 512) then c.updErr 9
  else
    (((c.put UPD_STATE.KIND k).put UPD_STATE.UPDERR 0).updTo fun u => { u with job := some ⟨k, some (media, lay), 0, [], 0⟩ }).turnAsk 1 .update

/-- UPD_WRITE. `media` is what the eMMC holds from its sector on, and `layout` the LAYOUT section of a configuration image. -/
def execUpdWrite (media : List Byte) (layout : List BankPlace) (w : Cmd) (s : State) : Host.Outcome State Fault Refusal := s.on fun c =>
  c.updCmd w fun c => c.updWrite (UPD_CMD.KIND.of w.value) media (some layout)

/-- An admission in the eMMC class reads 32 KiB of a package (DESIGN CHOICE, log entry 147: what one reads is not stated); the last is followed by the
checks. -/
def Chip.updReads (c : Chip) : Chip :=
  match c.upd.job with
  | some j =>
    match j.read with
    | some (media, lay) =>
      let n := 128 + pkgNum media 8 4
      let c := c.turnEnd 1 .update
      if 32768 * (j.burst + 1) < n then (c.modUpd fun u => { u with job := some { j with burst := j.burst + 1 } }).turnAsk 1 .update
      else (c.updTo fun u => { u with job := none }).updCheck j.kind lay (media.take n)
    | none => c.turnEnd 1 .update
  | none => c.turnEnd 1 .update

/-- The bursts that erase a bank, a block of 64 KiB each. -/
def eraseBursts (size : Nat) : Nat := (size + 65535) / 65536

/-- One burst of a WRITE (R461): the blocks of the bank are erased in turn, each within one admission, and the body is programmed from offset 0x1000
upwards in portions of 4 KiB; the admission that follows serves the header and lasts until the WRITE completes (the size of a burst is DESIGN
CHOICE, log entry 147). Each burst passes the guard as agent 0x5E (R471). -/
def Chip.updBurst (c : Chip) (j : UpdJob) : Chip :=
  let (a, size) := bankAt c.layout j.kind j.bank
  let next (c : Chip) : Chip := ((c.modUpd fun u => { u with job := some { j with burst := j.burst + 1 } }).turnEnd 0 .xspi).turnAsk 0 .xspi
  if j.burst < eraseBursts size then
    let lo := a + 65536 * j.burst
    let n := min 65536 (size - 65536 * j.burst)
    next (if c.admits 0x5E true lo n then { c with mem := c.mem.filter fun x => !(lo ≤ x.1 && x.1 < lo + n) } else c.refusePart 0x5E true lo n)
  else
    let lo := 4096 * (j.burst - eraseBursts size + 1)
    if lo < j.image.length then next ((c.updPut (a + lo) ((j.image.drop lo).take 4096)).put UPD_PROG.BYTES lo) else c

/-- The slot of a WRITE that ends is freed; a conversion that waits for it asks for it. -/
def Chip.updFree (c : Chip) : Chip :=
  let c := (c.turnEnd 0 .xspi).updTo fun u => { u with job := none }
  if c.sys.conv.isSome then c.turnAsk 0 .xspi else c

/-- A failed program or verify (R469): the target bank keeps STG and stays invalid. -/
def Chip.updFail (c : Chip) : Chip := (c.updFree.updErr 8).fault 1 0x0B 0 0x5C 0x5E

/-- UPD_WRITE_COMPLETE (R461, R469): the first 4 KiB are programmed with SEQ, and the bank is read back, or a program or the verify fails. -/
def execUpdWriteComplete (ok : Bool) (now : Time) (s : State) : Host.Outcome State Fault Refusal := s.on fun c =>
  let c := c.arrive now
  match c.upd.job with
  | none => c
  | some j =>
    let (a, size) := bankAt c.layout j.kind j.bank
    let n := j.image.length
    if j.read.isSome || c.flushing || c.mode == mINTER then c
    else if !ok then c.updFail
    else if !c.turnHas 0 .xspi || n - 4096 ≠ 4096 * (j.burst - eraseBursts size) then c
    else
      let seq := c.imgSeq (bankAt c.layout j.kind (1 - j.bank)).1 + 1
      let (was, c) := c.updGet a n
      if was.drop 4096 == j.image.drop 4096 && c.admits 0x5E false a n && c.admits 0x5E true a 4096 then
        let c := c.stBytes a (j.image.take 8 ++ leBytes 4 seq ++ (j.image.drop 12).take 4084)
        (c.updFree.put UPD_PROG.BYTES n).updFlag 1
      else (c.refusePart 0x5E true a 4096).updFail

/-! ### Arming -/

/-- The instant of UPD_WHEN (R463). -/
def Chip.updWhen (c : Chip) : Option Time :=
  if c.flag UPD_WHENCFG.SEL then
    let t : Fin 32 := Fin.ofNat 32 (c.get UPD_WHENCFG.TASK)
    if c.kind t == kCYC && c.sys.anchored then
      let a := (c.rd SCN_ANCHORL.reg).toNat + 2 ^ 32 * (c.rd SCN_ANCHORH.reg).toNat + 1000 * c.get (SCN_TPHASE.PHASE t)
      some (BitVec.ofNat 64 (a + c.get UPD_WHENSCAN.SCAN * 1000 * c.get (SCN_TPERIOD.PERIOD t)))
    else none
  else some (c.rd UPD_WHENH.reg ++ c.rd UPD_WHENL.reg)

/-- The switch of a kind is made live: always for kinds 2 to 4, for the firmware when both images fit one area (R463). -/
def Chip.updLive (c : Chip) (k : Nat) : Bool :=
  let len (b : Nat) : Nat := c.imgLen (bankAt c.layout k b).1
  2 ≤ k || (k == 1 && len 0 ≤ 0x50000 && len 1 ≤ 0x50000)

/-- A kind is armed for an instant, and the preload of a live switch begins (R463, R466, R467); that of asset tables waits for an exchange that is
still on its way. -/
def Chip.updSetArmed (c : Chip) (k : Nat) (t : Time) : Chip :=
  let live := c.updLive k
  let c := ((c.put UPD_STATE.KIND k).put UPD_STATE.UPDERR 0).put UPD_AGREE.ACKS 0
  let c := c.updTo fun u =>
    { u with armed := some (k, t), live, ready := !live, agreers := [], agreed := false, assets := if k = 4 && u.assets = 0 then 1 else u.assets }
  if k = 4 then c.mimAsk else c

/-- Some other kind has PEND set. -/
def Chip.otherPend (c : Chip) (k : Nat) : Bool := (List.range 5).any fun j => j != k && entPend (c.updEntry j) != 0

/-- ARM (R463 to R465). The partner of a leading unit receives the instant, the digest and the command as STAGE frames. -/
def Chip.updArm (c : Chip) (k : Nat) (v : Word) : Chip :=
  if c.mode == mFOLLOW || (c.pairMember && c.get HSB_STATE.ROLE ≠ 1) then c.updErr 0x14
  else match c.updWhen with
    | none => c.updErr 0x10
    | some t =>
      if 4 < k || c.upd.armed.isSome || !(entStg (c.updEntry k)).testBit (1 - c.inUse k) || c.otherPend k || t.toNat < c.t + 10000000 then
        c.updErr 0x10
      else
        let c := c.updSetArmed k t
        let c := if c.leading then
            let stage (c : Chip) (a : Nat) (x : Word) : Chip := c.send (.stage 0 a x 0)
            let c := stage (stage c UPD_WHENL.reg (t.setWidth 32)) UPD_WHENH.reg (t.extractLsb' 32 32)
            let c := (beWords 8 (spGet [] c.upd.digests k)).foldl (fun c x => stage c UPD_SRC.reg x) c
            stage c UPD_CMD.reg v
          else c
        if c.flag UPD_CANCFG.EN then
          let pay := [0xB1, BitVec.ofNat 8 k] ++ leBytes 2 (c.get UPD_AGREE.AGREE) ++ bytesOfWords [c.tb.setWidth 32]
          c.canSendFrom (Fin.ofNat 4 (c.get UPD_CANCFG.CANCTL)) (c.get UPD_CANCFG.TXOBJ) pay
        else c

/-- UPD_ARM. -/
def execUpdArm (w : Cmd) (s : State) : Host.Outcome State Fault Refusal := s.on fun c =>
  c.updCmd w fun c => c.updArm (UPD_CMD.KIND.of w.value) w.value

/-- The standby arms what its partner has armed (R465), where its staged bank has the digest that the partner's has: `l` are the words forwarded before
the command. -/
def Chip.updFollow (c : Chip) (v : Word) (l : List (Nat × Word)) : Chip :=
  let last (a : Nat) : Word := ((l.filter (·.1 == a)).getLast?.map (·.2)).getD 0
  let k := UPD_CMD.KIND.of v
  let dig := (l.filter (·.1 == UPD_SRC.reg)).map (·.2)
  if (entStg (c.updEntry k)).testBit (1 - c.inUse k) && (c.upd.digests.any (·.1 == k)) && beWords 8 (spGet [] c.upd.digests k) == dig then
    c.updSetArmed k (last UPD_WHENH.reg ++ last UPD_WHENL.reg)
  else c.lockstepLost 8

/-- An armed activation is cancelled: the preload of asset tables gives its admission or its request back, and overlay commands start again. -/
def Chip.updCancel (c : Chip) : Chip :=
  let tables := c.upd.armed.any (·.1 == 4) && c.upd.assets ≤ 2
  let c := c.updTo fun u => { u with armed := none, ready := false, assets := if tables then 0 else u.assets }
  if !tables then c
  else
    let c := if c.mim.asked = some .tables then (c.turnEnd 3 .mimic).modMim fun m => { m with asked := none } else c
    (c.modMim fun m => { m with portion := 0 }).ovStarts

/-- DISARM (R463). -/
def Chip.updDisarm (c : Chip) : Chip := if c.upd.armed.isSome then c.updCancel else c

/-- UPD_DISARM. -/
def execUpdDisarm (w : Cmd) (s : State) : Host.Outcome State Fault Refusal := s.on fun c => c.updCmd w Chip.updDisarm

/-- The half of its control stores that a kind runs from. -/
def Upd.half (u : Upd) (k : Nat) : Nat := (if k = 2 then u.seqHalf.getLsbD 0 else u.linkHalf.getLsbD 4).toNat

/-- The preload of an armed kind is complete. -/
def Chip.updReady (c : Chip) (f : Upd → Upd) : Chip := (c.updTo fun u => { f u with ready := true }).updFlag 0

/-- UPD_PRELOAD_COMPLETE (R466, R467): the firmware goes into the area not in use, microcode into the inactive half of the control stores, asset tables
into staging under the frame-fill class. The xSPI controller sleeps in INTERMISSION and stops for the flush (R449, R453). -/
def execUpdPreloadComplete (tables : List Byte) (now : Time) (s : State) : Host.Outcome State Fault Refusal := s.on fun c =>
  let c := c.arrive now
  match c.upd.armed with
  | none => c
  | some (k, _) =>
    let a := (bankAt c.layout k (1 - c.inUse k)).1
    if c.upd.ready || c.flushing || c.mode == mINTER then c
    else if k = 4 && (c.upd.assets ≠ 1 || c.mim.asked != some .tables || !c.turnHas 3 .mimic || c.mim.portion < 23) then c
    else
      let (l, c) := c.updGet a (c.imgLen a)
      if k = 4 then
        let l := if c.admits 0x5E false a (c.imgLen a) then tables else List.replicate 0x18000 0
        ((c.updReady fun u => { u with assets := 2, tables := l }).modMim fun m => { m with portion := 0 }).mimEnd
      else if k = 1 then (c.updPut (0x3C000000 + 0x50000 * (1 - c.upd.areas[0].val)) l).updReady id
      else c.updReady fun u => { u with stores := spIns (2 * k + (1 - u.half k)) l u.stores }

/-- The receive object RXOBJ hears an identifier: it is an enabled receive object whose filter takes it (R319, R464). -/
def Chip.updHears (c : Chip) (id : BitVec 29) : Bool :=
  let n : Fin 4 := Fin.ofNat 4 (c.get UPD_CANCFG.CANCTL)
  let k := c.get UPD_CANCFG.RXOBJ
  c.objEna n k && !c.objFlag n k 0 && ((id ^^^ (c.objW n k 4).setWidth 29) &&& (c.objW n k 8).setWidth 29) == 0

/-- UPD_AGREE_ANSWER (R464). AGREED is a latch of its own for the armed activation beside the flag, which software may clear (DEDUCED, log entry
148). -/
def execUpdAgreeAnswer (id : BitVec 29) (kind : Byte) (agree : BitVec 16) (now : Time) (s : State) : Host.Outcome State Fault Refusal := s.on fun c =>
  let c := c.arrive now
  if !c.flag UPD_CANCFG.EN || !c.updHears id || !(c.upd.armed.any (·.1 == kind.toNat)) || agree.toNat ≠ c.get UPD_AGREE.AGREE ||
      c.upd.agreers.contains id || 16 ≤ c.get UPD_AGREE.ACKS then c
  else
    let c := (c.modUpd fun u => { u with agreers := u.agreers ++ [id] }).incSat UPD_AGREE.ACKS
    if c.get UPD_AGREE.ACKS = c.get UPD_CANCFG.ACKN then (c.modUpd fun u => { u with agreed := true }).updFlag 4 else c

/-! ### Activation -/

/-- Ring `r` runs cycles. -/
def Chip.ringCycles (c : Chip) (r : Fin 4) : Bool := 3 ≤ c.get (STN_LAT.STATE r) && c.get (STN_LAT.STATE r) ≤ 5

/-- The control stores of kind `k` switch to their other half (R466): a ring that runs cycles at its next one, the others at once, and so the sync
link, which is between frames (DEDUCED, log entry 149). -/
def Chip.updSwitch (c : Chip) (k : Nat) : Chip :=
  let c := c.modUpd fun u => { u with turning := k, rings := 0 }
  let c := c.forFin 4 fun r c => c.modUpd fun u => if c.ringCycles r then { u with rings := u.rings ||| (1 <<< r.val) } else u.flip r.val
  let c := if k = 3 then c.modUpd fun u => u.flip 4 else c
  if c.upd.rings = 0 then c.updDone else c

/-- UPD_ACTIVATION_INSTANT (R463, R464, R466, R467), once the preload is complete and an earlier switch has ended. -/
def execUpdActivationInstant (now : Time) (s : State) : Host.Outcome State Fault Refusal := s.on fun c =>
  let c := c.arrive now
  match c.upd.armed with
  | none => c
  | some (k, t) =>
    if !c.upd.ready || c.upd.phase ≠ 0 || c.t < t.toNat || c.mode == mINTER then c
    else if c.flag UPD_CANCFG.EN && !c.upd.agreed then c.updCancel.updErr 0x13
    else
      let b := 1 - c.inUse k
      let e := c.updEntry k
      let live := c.upd.live
      let c := if live then c.put (UPD_BANKS.INUSE k) b else c
      let c := c.putEntry k (entry (entStg e - (entStg e &&& 2 ^ b)) (2 ^ b) (entRev e) 0)
      let c := c.updTo fun u => { u with armed := none, ready := false, phase := if live then 4 else 0 }
      if !live then c.updFlag 3
      else if k = 1 then
        let a : Fin 2 := c.upd.areas[0] + 1
        (c.modUpd fun u => { u with waitOk := some c.tb, areas := u.areas.set 1 a }).coreRestart 1
      else if k = 4 then c.modUpd fun u => { u with assets := 3 }
      else c.updSwitch k

/-- A pending bank is reverted (R469): a live switch goes back through the old area, the old halves, or the old tables. -/
def Chip.updRevert (c : Chip) (k : Nat) : Chip :=
  let e := c.updEntry k
  let b := if (entPend e).testBit 0 then 0 else 1
  let soft := k = 0 || c.upd.loaded.contains k
  let c := if soft then c else c.put (UPD_BANKS.INUSE k) (1 - b)
  let c := ((c.putEntry k (entry (entStg e) 0 (entRev e ||| 2 ^ b) (entTries e))).updFlag 7).fault 1 0x0B 0 0x53 0x5E .sys
  let c := c.updTo fun u => { u with window := none }
  if soft then c.pinReset SYS_RSTCAUSE.SW
  else if k = 1 then
    let old : Fin 2 := if c.upd.waitOk.isSome then c.upd.areas[0] else c.upd.areas[0] + 1
    ((c.updTo fun u => { u with waitOk := none, areas := Vector.replicate 2 old, phase := 0 }).coreRestart 1).coreRestart 0
  else
    let c := c.updTo fun u => { u with phase := 6 }
    if k = 4 then
      ((c.modUpd fun u => { u with assets := 5, tables := spGet [] u.stores 8 }).modMim fun m => { m with portion := 0 }).mimAsk
    else c.updSwitch k

/-- CORE_OK (R467), from MC1 only. -/
def Chip.updCoreOk (c : Chip) (a : AgentId) : Chip :=
  if a ≠ 0x02 || c.upd.waitOk.isNone then c
  else
    let c := c.modUpd fun u => { u with waitOk := none, areas := u.areas.set 0 u.areas[1] }
    ((c.coreRestart 0).updFlag 5).updDone

/-- UPD_CORE_OK. -/
def execUpdCoreOk (w : Cmd) (s : State) : Host.Outcome State Fault Refusal := s.on fun c => c.updCmd w fun c => c.updCoreOk w.agent

/-- MC1 has stopped under R91 while its CORE_OK was awaited (R467). -/
def Chip.updStopped (c : Chip) (m : Fin 2) : Chip := if m = 1 && c.upd.waitOk.isSome then c.updRevert 1 else c

/-- UPD_COREOK_TIMEOUT (R467). -/
def execUpdCoreokTimeout (now : Time) (s : State) : Host.Outcome State Fault Refusal := s.on fun c =>
  let c := c.arrive now
  if c.upd.waitOk.any fun t => t.toNat + 10000000000 ≤ c.t then c.updRevert 1 else c

/-- The pending kinds. -/
def Chip.updPending (c : Chip) : List Nat := (List.range 5).filter fun k => entPend (c.updEntry k) != 0

/-- A confirm (R468): the old halves and the old tables are released. -/
def Chip.updConfirm (c : Chip) : Chip :=
  if c.upd.window.isNone || c.updPending.isEmpty then c
  else
    let c := c.forIn c.updPending fun k c => let e := c.updEntry k; c.putEntry k (entry (entStg e) 0 (entRev e) 0)
    (c.updTo fun u => { u with
      window := none, loaded := []
      stores := u.stores.filter fun e => e.1 == 4 + u.half 2 || e.1 == 6 + u.half 3 }).updFlag 6

/-- A write to UPD_CONFIRM: only MC0 and MC1 confirm. -/
def Chip.updConfirmWrite (c : Chip) (w : Cmd) : Chip :=
  (c.arrive w.now).allow (updWriter w.agent) w.agent UPD_CONFIRM.reg fun c =>
    if UPD_CONFIRM.KEY.of w.value ≠ 0xC4F3 || !isMc w.agent then c else c.updConfirm

/-- UPD_CONFIRM. -/
def execUpdConfirm (w : Cmd) (s : State) : Host.Outcome State Fault Refusal := s.on fun c => c.updConfirmWrite w

/-- UPD_CONFIRM_WINDOW_END (R469): kinds that were switched live are reverted first, since a bank taken at LOAD leads to a reset. -/
def execUpdConfirmWindowEnd (now : Time) (s : State) : Host.Outcome State Fault Refusal := s.on fun c =>
  let c := c.arrive now
  if c.upd.window.any fun t => t.toNat ≤ c.t then
    let l := c.updPending
    let c := c.updTo fun u => { u with window := none }
    let soft := l.filter fun k => k == 0 || c.upd.loaded.contains k
    let c := c.forIn (l.filter fun k => !soft.contains k) fun k c => c.updRevert k
    match soft.getLast? with
    | none => c.modUpd fun u => { u with loaded := [] }
    | some last =>
      let c := c.forIn (soft.filter (· != last)) fun k c =>
        let e := c.updEntry k
        let b := if (entPend e).testBit 0 then 0 else 1
        (c.putEntry k (entry (entStg e) 0 (entRev e ||| 2 ^ b) (entTries e))).fault 1 0x0B 0 0x53 0x5E .sys
      c.updRevert last
  else c

/-- UPD_CMD is written; other codes are ignored. A WRITE from eMMC that comes this way finds no sectors. -/
def Chip.updCmdWrite (c : Chip) (w : Cmd) : Chip := c.updCmd w fun c =>
  match UPD_CMD.CMD.of w.value with
  | 1 => c.updWrite (UPD_CMD.KIND.of w.value) [] none
  | 2 => c.updArm (UPD_CMD.KIND.of w.value) w.value
  | 3 => c.updDisarm
  | 4 => c.updCoreOk w.agent
  | _ => c

/-- The kinds whose PENDING bank was taken at LOAD: their confirm window starts with the entry to STOP, also from a SAFE-HOLD in which LOAD ended
(R34, R468). -/
def Chip.bootWindow (c : Chip) : Chip := if c.upd.loaded.isEmpty || c.upd.window.isSome then c else c.updWindow

end Sys2Proof.Machine
end

