-- ==== Sys2Proof/Machine/Boot.lean ====
section
/-! DEFINITION. The boot sequence (R39 to R46, R49, R457, R458): the engine map, the choice of banks, and the loading of the image. -/

namespace Sys2Proof.Machine

/-! ### The defect map -/

/-- A field of a defect-map entry (Table 10.9). -/
def dmField (v : Long) (lo n : Nat) : Nat := v.toNat / 2 ^ lo % 2 ^ n

/-- The entries of both parts of the defect map (R304). -/
def Chip.dmAll (c : Chip) : List Long := c.flt.fuses ++ c.flt.field.map (·.2)

/-- The boot ROM reads the defect map (R304): the field part from the store, and the rows replaced and spare rows defective by both. -/
def Chip.dmLoad (c : Chip) : Chip :=
  let c := c.noteCells 0x60068000 0x2000
  let f := (List.range 1024).filterMap fun k =>
    let v := c.ld (0x60068000 + 8 * k) 8
    if v = 0 then none else some (k, BitVec.ofNat 64 v)
  let c := c.modFlt fun g => { g with field := f }
  let all := c.dmAll
  let rows := (all.filter fun v => dmField v 0 8 == 3).map fun v => (dmField v 16 10, dmField v 26 5, dmField v 31 1)
  let bad := (all.filter fun v => dmField v 0 8 == 4).map fun v => (dmField v 16 10, dmField v 26 5)
  let c := c.modFlt fun g => { g with rows := rows, badSpares := bad }
  let c := ((c.put FLT_DMSTAT.FUSECNT c.flt.fuses.length).put FLT_DMSTAT.NVCNT f.length).put FLT_ROWS.USED rows.length
  c.put FLT_ROWS.FREE (1344 - rows.length - bad.length)

/-- The units of a kind that the defect map retires. -/
def Chip.dmUnits (c : Chip) (kind : Nat) : List Nat := (c.dmAll.filter fun v => dmField v 0 8 == kind).map fun v => dmField v 8 8

/-- The engine map over the physical engines that are not retired (R26); a change counts in SYS_MAPSEQ (R27). -/
def Chip.mapBuild (c : Chip) (dead : List Nat) : Chip :=
  let ok := (List.range 18).filter fun p => !dead.contains p
  let n := c.forFin 16 fun e c =>
    match ok[e.val]? with
    | some p => (c.set1 (SYS_LEMAP.VALID e)).put (SYS_LEMAP.PHYS e) p
    | none => (c.clr (SYS_LEMAP.VALID e)).put (SYS_LEMAP.PHYS e) 0
  let n := n.put SYS_RETIRED.RET (((List.range 18).filter dead.contains).map (2 ^ ·)).sum
  let n := n.setSpares ((ok.drop 16).map (Fin.ofNat 18))
  if n.regs = c.regs then c else n.incWrap SYS_MAPSEQ.SEQ

/-- Steps 1 and 2 of R40: the self-tests retire what fails; two failed cores are a UNIT fault (R35). No fault causes the entry of an engine that
fails here, so its WHEN is a free value (log entry 67). -/
def Chip.bootTests (c : Chip) (b : BootInput) : Chip :=
  let dead := c.dmUnits 1
  let c := c.mapBuild dead
  let fail := (b.engFail.map (·.val)).filter fun p => !dead.contains p
  let c := (c.forIn fail fun p c => let (w, c) := c.freeW; c.mapEntry 1 p 0 0 false w.toNat).mapBuild (dead ++ fail)
  let gone := c.dmUnits 2
  let c := c.forIn ((List.finRange 2).filter fun m => gone.contains m.val) fun m c =>
    (c.put (coreFld m) 3).modCore m fun k => { k with stopped := true }
  let c := c.forIn (b.coreFail.filter fun m => !gone.contains m.val) fun m c =>
    if c.get (coreFld m) = 3 then c
    else
      let c := ((c.put (coreFld m) 3).set1 FLT_STAT.CORERET).modCore m fun k => { k with stopped := true }
      (if c.get (coreFld (1 - m)) = 3 then c.fault 3 0x06 m.val 0x48 else c.degradeSys 0x06 m.val 0x48).mapEntry 2 m.val 0 0 false
        (c.faultWhen 1 0x06 m.val 0x48)
  if c.get FLT_CORE.MC0 = 3 && c.get FLT_CORE.MC1 = 3 && !c.sys.loadHalt then c.fault 3 0x06 1 0x48 else c

/-! ### Banks -/

/-- SEQ prefers bank B over bank A; none when the difference decides nothing (R44). -/
def seqPick (a b : Nat) : Option Nat :=
  let d := (b + 2 ^ 32 - a) % 2 ^ 32
  if d = 0 ∨ d = 2 ^ 31 then none else some (if d < 2 ^ 31 then 1 else 0)

/-- A bank that is valid and not revoked (R43, R457, R458). -/
def Chip.bootBank (c : Chip) (l : List BankPlace) (k b : Nat) : Bool := c.bankOk l k b && !(entRev (c.updEntry k)).testBit b

/-- The bank of a kind that the boot ROM takes (R44, R458), and whether the sequence numbers left it open. The entry follows. -/
def Chip.bootPick (c : Chip) (l : List BankPlace) (k : Nat) : Option Nat × Bool × Chip :=
  let e := c.updEntry k
  let va := c.bootBank l k 0
  let vb := c.bootBank l k 1
  let both := va && vb
  let first : Option Nat × Bool :=
    if both && (entStg e).testBit 0 && !(entStg e).testBit 1 then (some 1, false)
    else if both && (entStg e).testBit 1 && !(entStg e).testBit 0 then (some 0, false)
    else if both then
      match seqPick (c.imgSeq (bankAt l k 0).1) (c.imgSeq (bankAt l k 1).1) with
      | some b => (some b, false)
      | none => (some 0, true)
    else (if va then some 0 else if vb then some 1 else none, false)
  match first with
  | (none, _) => (none, false, c)
  | (some b, eq) =>
    if (entPend e).testBit b then
      if entTries e = 2 then
        let c := c.putEntry k (entry (entStg e) 0 (entRev e ||| 2 ^ b) 0)
        if both then (some (1 - b), false, c) else (none, false, c)
      else (some b, eq, c.putEntry k (entry (entStg e) (entPend e) (entRev e) (entTries e + 1)))
    else if (entStg e).testBit b then (some b, eq, c.putEntry k (entry (entStg e - 2 ^ b) (entPend e ||| 2 ^ b) (entRev e) 1))
    else (some b, eq, c)

/-- A choice between banks of equal or opposite sequence numbers is a NOTE (R44). -/
def Chip.bootEq (c : Chip) (eq : Bool) : Chip := if eq then (c.set1 SYS_BOOTSTAT.SEQEQ).fault 0 0x09 0 0 else c

/-- A configuration bank looks valid but for a format that is newer than this revision's (R41, R43). -/
def Chip.cfgNewer (c : Chip) (b : Nat) : Bool :=
  let a := (bankAt [] 0 b).1
  c.ld a 4 == kindMagic 0 && (3 < c.imgMajor a || (c.imgMajor a == 3 && 4 < c.imgMinor a))

/-- CFGERR when no configuration bank is valid (R41). A bank looks valid when its MAGIC is right (DESIGN CHOICE, log entry 100: R41 does not say
what makes a bank look valid). -/
def Chip.cfgErrNone (c : Chip) : Nat :=
  let looks := (List.range 2).filter fun b => c.ld (bankAt [] 0 b).1 4 == kindMagic 0
  if !looks.isEmpty && looks.all c.cfgNewer then 2 else 1

/-- The chip stays in LOAD (R41). -/
def Chip.loadFails (c : Chip) (e : Nat) : Chip := (c.put SYS_BOOTSTAT.CFGERR e).modSys fun y => { y with loadHalt := true }

/-! ### Loading -/

/-- The word that the image gives a register, or its reset value. -/
def cfgWord (s : Sections) (a : Nat) : Word := ((s.regs.find? (·.1 == a)).bind fun e => loadedAs a e.2).getD (regReset a)

/-- The configuration of the mailbox channels (R344, the MBX block): a channel whose configuration changes is emptied, and one whose
classes lie on the same side is not usable. -/
def Chip.mbxLoad (c : Chip) (s : Sections) : Chip :=
  let c := c.forFin 4 fun w c =>
    let v := cfgWord s (MBX_WCFG.reg w)
    let wr := (MBX_WCFG.WRCLS w).of v
    let rd := (MBX_WCFG.RDCLS w).of v
    let v := if (wr = 0 && rd ≤ 1) || (wr = 1 && rd = 2) then v else (MBX_WCFG.WEN w).ins v 0
    if v = c.rd (MBX_WCFG.reg w) then c else (c.wr (MBX_WCFG.reg w) v).clr (MBX_WINFO.FULL w)
  c.forFin 28 fun k c =>
    let v := cfgWord s (MBX_CHCFG.reg k)
    if v = c.rd (MBX_CHCFG.reg k) then c
    else
      let set := (MBX_CHCFG.EN k).of v = 1 && !c.flag (MBX_CHCFG.EN k)
      ((c.wr (MBX_CHCFG.reg k) v).chQueue k []).doIf set (·.clr (MBX_CHINFO.LOST k))

/-- The accumulator units of a code (Table 13.4). -/
def Chip.codeUnits (c : Chip) (code : Nat) : Nat :=
  match entryType (c.codeEntry code) with
  | 0 => 0
  | 1 => 1
  | 4 => 4
  | _ => 6

/-- The code table fits its accumulators (R354): codes are disabled from the highest down. -/
def Chip.codesFit (c : Chip) : Chip :=
  let n := ((List.range 4096).map c.codeUnits).sum
  let r := (List.range 4096).foldr (fun k (r : Nat × Chip) =>
    let u := r.2.codeUnits k
    if 4096 < r.1 && u != 0 then (r.1 - u, (r.2.stB (0x39000000 + 8 * k) (r.2.ldB (0x39000000 + 8 * k) &&& 0xF8)).set1 REC_STAT.CFGOVF) else r) (n, c)
  r.2.put REC_QSTAT.UNITS r.1

/-- The record table of the image (R378). -/
def recTabOk (l : List (Nat × Nat × Nat)) : Bool :=
  (l.all fun (e : Nat × Nat × Nat) => 8 ≤ e.1 && e.1 < 64 && 0x200 ≤ e.2.1 && e.2.1 % 8 == 0 && e.2.2 % 8 == 0 && 8 ≤ e.2.2 && e.2.2 ≤ 8176 &&
    e.2.1 + e.2.2 + 16 ≤ 0x14000) &&
  decide (l.Pairwise fun (e f : Nat × Nat × Nat) => e.1 ≠ f.1 ∧ (e.2.1 + e.2.2 + 16 ≤ f.2.1 ∨ f.2.1 + f.2.2 + 16 ≤ e.2.1))

/-- The record table comes into force, or every image record is disabled (R378). -/
def Chip.recTabLoad (c : Chip) (l : List (Nat × Nat × Nat)) : Chip :=
  if recTabOk l then c.modNvs fun n => { n with recTab := l } else (c.modNvs fun n => { n with recTab := [] }).set1 NVS_STAT.RTABERR

/-- A number of record 2 (Table 14.5). -/
def Chip.tailNum (c : Chip) (o : Nat) : Nat := recField (c.chipRecData 2) o 4

/-- The records of the last flush's tail that are to be read: none where record 2 is empty or says that the tail is consumed. -/
def Chip.tailCount (c : Chip) : Nat :=
  if (c.chipRecData 2).length < 16 || 1024 < c.tailNum 0 || c.tailNum 8 ≠ 0 then 0 else c.tailNum 0

/-- The tail of the last flush, where record 2 says that it is not consumed and its CRC agrees (R368, Table 14.5). -/
def Chip.tailFind (c : Chip) : Option (List (List Word)) :=
  let n := c.tailCount
  if n = 0 || crc32c (c.ldBytes 0x60058000 (64 * n)) ≠ BitVec.ofNat 32 (c.tailNum 4) then none
  else some ((List.range n).map fun i => (List.range 16).map fun j => BitVec.ofNat 32 (c.ld (0x60058000 + 64 * i + 4 * j) 4))

/-- Step 6 of R40: code, data, block configuration, tables and the other images. -/
def Chip.bootLoad (c : Chip) (s : Sections) (b fw : Nat) : Chip :=
  let a := (bankAt [] 0 b).1
  let im : Image := { sec := s, start := c.ld (a + 0x14) 1, rebase := (c.ldB (a + 0x15)).getLsbD 1, paired := (c.ldB (a + 0x15)).getLsbD 0,
                      digest := BitVec.ofNat 64 (c.ld (a + 0x18) 8) }
  let c := { c with image := some im }
  let c := (c.modOlc fun o => { o with syms := s.syms, digest := im.digest }).modGrd fun g => { g with agree := s.agree.take 8 }
  let can (e : Nat × Word) : Bool := 0x40080000 ≤ e.1 && e.1 < 0x400C0000
  let c := c.forIn (s.regs.filter fun e => !can e && !(0x400C0000 ≤ e.1 && e.1 < 0x400D0000)) fun e c => c.load e.1 e.2
  let c := (c.wr OLC_RUNIDL.reg (s.buildId.setWidth 32)).wr OLC_RUNIDH.reg (s.buildId.extractLsb' 32 32)
  let c := (c.mbxLoad s).forIn (s.code ++ s.data ++ s.tables) fun e c => c.stBytes e.1 e.2
  let c := c.forIn (s.regs.filter can) fun e c => c.canBoot e.1 e.2
  let c := (c.stBytes 0x3B000000 (c.upd.assetsNow.take 0x18000)).codesFit.recTabLoad s.recTab
  let c := (c.chipNotes 2).noteCells 0x60058000 (64 * c.tailCount)
  let c := c.modRec fun r => { r with hist := s.hist, period := c.get REC_CTL.DRAINPER, tail := c.tailFind }
  let f := (bankAt [] 1 fw).1
  let c := c.stBytes 0x3C000000 (c.ldBytes f (c.imgLen f))
  c.forFin 2 fun m c => if c.get (coreFld m) = 3 then c else c.coreReset m

/-- The converted image (R45): format 3.0, SEQ + 1, with START, FLAGS and RETAIN_DIGEST kept; `rest` is what the conversion makes of the image
from DIR_OFF on. -/
def Chip.converted (c : Chip) (a : Nat) (rest : List Byte) : List Byte :=
  let tail := [c.ldB (a + 0x14), c.ldB (a + 0x15), 0, 0] ++ c.ldBytes (a + 0x18) 8 ++ rest
  leBytes 4 (kindMagic 0) ++ leBytes 2 0 ++ leBytes 2 3 ++ leBytes 4 (c.imgSeq a + 1) ++ leBytes 4 (32 + rest.length) ++
    bytesOfWords [crc32c tail] ++ tail

/-- A converted image waits for STOP to be written to the other bank (R46). -/
def Chip.convert (c : Chip) (b : Nat) (rest : List Byte) : Chip :=
  let a := (bankAt [] 0 b).1
  if 3 ≤ c.imgMajor a then c.clr SYS_BOOTSTAT.MIGRATED
  else (c.set1 SYS_BOOTSTAT.MIGRATED).modSys fun y => { y with conv := some ⟨1 - b, c.converted a rest, 0⟩ }

/-- The recorder and the store start with the entry to STOP (R365, R368, R388), and the interlock shows the released outputs (R261, R493). -/
def Chip.bootStart (c : Chip) : Chip :=
  let c := c.modRec fun r => { r with drainAt := c.tb + BitVec.ofNat 64 (r.period * 1000000000) }
  let c := (c.set1 HSB_ILK.OUTC).wdoTake.modRtc fun r => { r with ppsOn := if c.flag RTC_PPSCTL.EN then some c.tb else none }
  if c.rcd.tail.isSome then c else c.armTail

/-- The kinds whose bank in use is PENDING (R468). -/
def Chip.bootPending (c : Chip) : Chip :=
  c.modUpd fun u => { u with loaded := (List.range 5).filter fun k => (entPend (c.updEntry k)).testBit (c.inUse k) }

/-- What the boot ROM takes from bank `q` of kinds 2 to 4: microcode goes into the first half of the control stores, asset tables into the mimic
tables (R423, R457). -/
def Chip.bootTake (c : Chip) (b : BootInput) (l : List BankPlace) (k q : Nat) : Chip :=
  let a := (bankAt l k q).1
  (c.put (UPD_BANKS.INUSE k) q).modUpd fun u =>
    if k = 4 then { u with assetsNow := if q = 0 then b.assetsA else b.assetsB } else { u with stores := spIns (2 * k) (c.ldBytes a (c.imgLen a)) u.stores }

/-- BOOT_SEQUENCE (R40), once after a reset. A tie between the banks of an image is told whether or not LOAD succeeds (R44). FENCE_N asserted
during LOAD leads to SAFE-HOLD in place of STOP (R34). -/
def execBootSequence (b : BootInput) (now : Time) (s : State) : Host.Outcome State Fault Refusal := s.on fun c =>
  let c := c.arrive now
  if c.mode != mLOAD || c.sys.booted || c.sys.loadHalt || c.pins.pfailLow then c
  else
    let c := { c with pins := { c.pins with xspiAt := some c.tb } }
    let c := ((c.cells b.cells).modSys fun y => { y with booted := true }).dmLoad.backupSample
    let c := c.loadTb (if c.flag RTC_STATE.TIMEINV then 0 else c.dateAndTime)
    let c := c.bootTests b
    if c.sys.loadHalt then c
    else
      let magic (k b : Nat) : Bool := c.ld (bankAt [] k b).1 4 == kindMagic k
      let c := if b.octal && (magic 0 0 || magic 0 1 || magic 1 0 || magic 1 1) then c else c.set1 SYS_BOOTSTAT.QUADFB
      let (cfg, ceq, c) := (c.chipNotes 3).bootPick [] 0
      let (fw, feq, c) := c.bootPick [] 1
      let c := (c.bootEq feq).bootEq ceq
      match cfg with
      | none => c.loadFails c.cfgErrNone
      | some cb =>
        match fw with
        | none => c.loadFails 5
        | some fb =>
          let a := (bankAt [] 0 cb).1
          let c := c.put SYS_BOOTSTAT.CFGBANK cb
          let c := ((c.put SYS_BOOTSTAT.FWBANK fb).put SYS_BOOTSTAT.FMTMAJ (c.imgMajor a)).put SYS_BOOTSTAT.FMTMIN (c.imgMinor a)
          let c := c.convert cb (if cb = 0 then b.convA else b.convB)
          let sec := if cb = 0 then b.secA else b.secB
          let c := ((c.put (UPD_BANKS.INUSE 0) cb).put (UPD_BANKS.INUSE 1) fb)
          let c := c.forIn [2, 3, 4] fun k c =>
            let (p, eq, c) := c.bootPick sec.layout k
            match p with
            | some q => (c.bootEq eq).bootTake b sec.layout k q
            | none => c
          let c := ((c.bootLoad sec cb fb).banksShow).envUpdate.bootPending
          if c.pins.fence || c.sys.fenceSeen then c.bootStart.enterSafeHold 4 false
          else
            let c := (c.enterStop 0).bootStart.bootWindow
            let st := (c.image.map (·.start)).getD 0
            c.modSys fun y => { y with start := if 1 ≤ st && st ≤ 3 then some st else none }

end Sys2Proof.Machine
end

