-- ==== Sys2Proof/Machine/Hsb.lean ====
section
/-! DEFINITION. Hot-standby pairs (R242 to R281): sync link, lockstep, heartbeats, interlock and claims, arbitration, takeover,
hand-over, resync, and the legacy mode; and the HOUSEKEEP phase, at which a resync may join. -/

namespace Sys2Proof.Machine

/-! ### Loss of lockstep, resync and the legacy mode -/

/-- Lockstep is lost as the active unit sees it (R257): LLRSN is none that the spec names for this side, so it is a free value unless
given. -/
def Chip.activeLost (c : Chip) (rsn : Option Nat) : Chip :=
  if !c.leading then c
  else
    let (n, c) := match rsn with
      | some n => (n, c)
      | none => let (w, c) := c.freeW; (w.toNat % 16, c)
    (c.unlock n).pairFault 0x32 n

/-- The sync link is declared down (R247, R277, R280): what waits in the replay buffer is dropped, and frame numbers start anew (DESIGN
CHOICE, log entry 15). -/
def Chip.linkDown (c : Chip) : Chip :=
  let c := c.modHsb fun h => { h with replay := [], outq := [], fseq := 0, rseq := 0, pmap := none }
  (((c.lockstepLost 4).activeLost (some 4)).resyncFail 3).legacyFail

/-! ### Arbitration -/

/-- A start claim or arbitration has failed for a unit in STOP that has been asked to run (R37). -/
def Chip.runDenied (c : Chip) : Chip :=
  if c.sys.runReq.isSome then c.runRefused.wantRs else c

/-- An arbitration episode ends without grant (R267): ARB_REQ_N is released. -/
def Chip.arbEnd (c : Chip) (result : Nat) : Chip :=
  let c := ((c.put HSB_ARBSTAT.RESULT result).set1 HSB_STAT.ARBDONE).modHsb fun h => { h with arb := none, arbReq := false, arbBarred := true }
  (if c.mode == mRUN then c.pairFault 0x34 result else c).lockstepLost 9 |>.runDenied

/-- A request for arbitration, once per episode (R265, R266): ARB_REQ_N low, or on CAN a message of 8 bytes. The episode keeps the MODE
that it begins with. -/
def Chip.arbRequest (c : Chip) : Chip :=
  if c.hsb.arb.isSome || c.hsb.arbBarred || c.hsb.granted then c
  else if c.get HSB_ARBCFG.MODE = 0 then c.arbEnd 5
  else
    let c := (((c.put HSB_ARBSTAT.RESULT 1).incSat HSB_ARBSTAT.COUNT).incWrap HSB_ARBSTAT.NONCE).modHsb fun h =>
      { h with arb := some (c.get HSB_ARBCFG.MODE, c.tb), arbReq := c.get HSB_ARBCFG.MODE == 1 }
    if c.get HSB_ARBCFG.MODE = 2 then
      let n := c.get HSB_ARBSTAT.NONCE
      let pay := [0xA1, BitVec.ofNat 8 c.pins.pairId.toNat, BitVec.ofNat 8 n, BitVec.ofNat 8 (n / 256)] ++ bytesOfWords [c.tb.setWidth 32]
      c.canSendFrom (Fin.ofNat 4 (c.get HSB_ARBCFG.CANCTL)) (c.get HSB_ARBCFG.TXOBJ) pay
    else c

/-- The first case of R265. -/
def Chip.arbCheck (c : Chip) : Chip :=
  if c.mode == mFOLLOW && c.pathsLost && (c.flag HSB_ILK.INASS || c.flag HSB_ILK.INFLT) then c.arbRequest else c

/-- The Ringmaster grants (R267). -/
def Chip.arbGrant (c : Chip) : Chip :=
  ((c.put HSB_ARBSTAT.RESULT 2).set1 HSB_STAT.ARBDONE).modHsb fun h => { h with arb := none, granted := true }

/-- ARB_GNT_N_GRANT (R266). -/
def execArbGntNGrant (now : Time) (s : State) : Host.Outcome State Fault Refusal := s.on fun c =>
  let c := c.arrive now
  if c.hsb.arb.any (·.1 == 1) then c.arbGrant else c

/-- ARB_CAN_ANSWER (R266): an answer with another NONCE or PAIR_ID is ignored. -/
def execArbCanAnswer (grant pid : Bool) (nonce : BitVec 16) (now : Time) (s : State) : Host.Outcome State Fault Refusal := s.on fun c =>
  let c := c.arrive now
  if !c.hsb.arb.any (·.1 == 2) || pid != c.pins.pairId || nonce.toNat ≠ c.get HSB_ARBSTAT.NONCE then c
  else if grant then c.arbGrant else c.arbEnd 3

/-- ARB_TIMEOUT (R267). -/
def execArbTimeout (now : Time) (s : State) : Host.Outcome State Fault Refusal := s.on fun c =>
  let c := c.arrive now
  if c.hsb.arb.any fun e => e.2.toNat + 1000000 * c.get HSB_ARBCFG.ARBTO ≤ c.t then c.arbEnd 4 else c

/-! ### Claims -/

/-- The claim is withdrawn (R263), and counts as not made. -/
def Chip.withdraw (c : Chip) : Chip :=
  let kind : Option ClaimKind := c.hsb.claim.map Prod.fst
  let c := c.releaseClaim
  match kind with
  | some .start => if c.pins.pairId then c.runDenied
      else if c.hsb.arbBarred then c.runDenied else c.arbRequest
  | _ => c.arbCheck

/-- What each task shows and counts at an entry to RUN that is no restart (SCN_TMAX, SHD_TSTAT). CUR and TMODE stand
(DESIGN CHOICE, log entry 133). -/
def Chip.enterActive (c : Chip) : Chip :=
  let c := c.forFin 32 fun t c =>
    let c := ((c.wr (SCN_TMAX.reg t) 0).put (SHD_TSTAT.REEX t) 0).put (SHD_TSTAT.JHWM t) 0
    let c := if c.kind t == kCYC then c else c.wr (SCN_TSCAN.reg t) 0
    c.putB (SCN_TSTAT.ACT t) (c.kind t != 0)
  c.modSys fun y => { y with start := none, runReq := none }

/-- The Trapeze takeover (R270). What the active unit forwarded for later boundaries goes on waiting (R255). Ledger entries that an activation in
progress has received and not yet consumed stay for its LDGs. -/
def Chip.takeover (c : Chip) : Chip :=
  let c := ((c.enterMode mRUN 5).set1 HSB_STAT.TAKEOVER).post 0x007 0
  let c := ((c.put HSB_STATE.ROLE 1).clr HSB_STATE.LOCKED).modHsb fun h =>
    { h with announced := false, ledger := h.ledger.filter (!·.1), wantResync := false, p1Lost := none }
  let c := (c.stageKept.enterActive.pairFault 0x33 0).updateGates
  let c := c.forFin 32 fun t c =>
    let waits := (c.task t).token.isSome && !(c.task t).live && c.phase t = 6
    let c := c.modTask t fun k => { k with token := none, inpart := none, partnerHash := [], hashes := [], endmk := [], ends := [] }
    if waits then c.put (SCN_TSTAT.PHASE t) 0 else c
  c.forFin 16 fun e c => c.dispatch e

/-- The legacy hand-over enters RUN on the forerunner's grid, and each ring goes on from its last completed cycle (R280, R270 step 2). -/
def Chip.legacyRun (c : Chip) : Chip :=
  let a := c.hsb.lgcNext.getD c.tb
  let c := c.forFin 32 fun t c =>
    let pair := c.kind t != 0 && c.flag (SHD_TCFG.PAIRINIT t)
    let c := (c.putB (SHD_TSTAT.CUR t) pair).putB ⟨SHD_TMODE.reg t, 0, 0⟩ pair
    if pair then c.pairStorage t else c
  let c := c.forFin 4 fun r c => c.put (STN_CYCNO.CYCNO r) c.hsb.lgcCycle
  let c := (((c.set1 HSB_STAT.LGCDONE).clr HSB_STATE.LGC).readIlk).enterMode mRUN 5
  let c := (c.wr SCN_ANCHORL.reg (a.setWidth 32)).wr SCN_ANCHORH.reg (a.extractLsb' 32 32)
  let c := (c.put HSB_STATE.ROLE 1).modHsb fun h => { h with legacy := none, lgcNext := none, wantResync := false }
  ((c.modSys fun y => { y with anchored := true }).enterActive).updateGates

/-- The claim is confirmed (R263), and its purpose follows, where the mode that it was begun in lasts (R29). A takeover wins over a commanded STOP from
FOLLOW that is still in progress (DESIGN CHOICE, log entry 132). -/
def Chip.confirm (c : Chip) : Chip :=
  let kind : Option ClaimKind := c.hsb.claim.map Prod.fst
  let c := (c.put HSB_STATE.CLM 2).modHsb fun h => { h with claim := none, granted := false, arbReq := false }
  if c.mode == mFOLLOW then c.takeover
  else if c.mode != mSTOP then c.updateGates
  else if kind == some .legacy && c.flag HSB_STATE.LGC then c.legacyRun
  else match c.sys.runReq with
    | some (warm, reason) => c.restart warm reason
    | none => c.updateGates

/-- The kind of claim that the unit may begin now (R262, R267, R280). -/
def Chip.mayClaim (c : Chip) : Option ClaimKind :=
  if !c.pairMember || c.get HSB_STATE.CLM ≠ 0 || c.pins.fence || c.flushing then none
  else if c.hsb.granted then some .arbitrated
  else if !c.claimClean then none
  else if c.mode == mFOLLOW && c.pathsLost && c.ilkReleased 50000 then some .takeover
  else if c.mode == mSTOP && c.sys.runReq.isSome && c.startClaimOk then some .start
  else if c.mode == mSTOP && c.hsb.lgcNext.isSome then some .legacy
  else none

/-- CLAIM_BEGIN (R262, R263). A pending RUN whose claim is no longer allowed is refused (R37). -/
def execClaimBegin (now : Time) (s : State) : Host.Outcome State Fault Refusal := s.on fun c =>
  let c := c.arrive now
  match c.mayClaim with
  | some k => (((c.put HSB_STATE.CLM 1).set1 HSB_ILK.OUTT).clr HSB_ILK.OUTC).modHsb fun h => { h with claim := some (k, c.tb) }
  | none => if c.get HSB_STATE.CLM = 0 && c.hsb.arb.isNone && c.mode == mSTOP then c.runDenied else c

/-- CLAIM_SAMPLE (R263): unit 0 keeps driving where ILK_IN is not released. -/
def execClaimSample (now : Time) (s : State) : Host.Outcome State Fault Refusal := s.on fun c =>
  let c := c.arrive now
  match c.hsb.claim with
  | none => c
  | some (k, t) =>
    if c.t < t.toNat + 20000 then c
    else if k == .arbitrated || c.flag HSB_ILK.INRELD then c.confirm
    else if c.pins.pairId then c.withdraw else c

/-- CLAIM_UNIT0_CONFIRM (R263). -/
def execClaimUnit0Confirm (now : Time) (s : State) : Host.Outcome State Fault Refusal := s.on fun c =>
  let c := c.arrive now
  match c.hsb.claim with
  | some (_, t) => if !c.pins.pairId && t.toNat + 20000 < c.t && c.ilkReleased 20000 then c.confirm else c
  | none => c

/-- CLAIM_WITHDRAW_TIMEOUT (R263): 100 µs after the sample. -/
def execClaimWithdrawTimeout (now : Time) (s : State) : Host.Outcome State Fault Refusal := s.on fun c =>
  let c := c.arrive now
  match c.hsb.claim with
  | some (_, t) => if !c.pins.pairId && t.toNat + 120000 ≤ c.t && !c.ilkReleased 20000 then c.withdraw else c
  | none => c

/-! ### Interlock lines -/

/-- ILK_IN_T and ILK_IN_C are equal, which neither claim nor release is (R261); in legacy mode they are not monitored (R279). -/
def Chip.inBad (c : Chip) : Bool := !c.flag HSB_STATE.LGC && c.flag HSB_ILK.INT == c.flag HSB_ILK.INC

/-- ILK_IN_CHANGE (R261, R263, R279): the time that a fault, or its absence, has lasted begins where the line turns bad or good. -/
def execIlkInChange (lineT lineC : Bool) (now : Time) (s : State) : Host.Outcome State Fault Refusal := s.on fun c =>
  let c := c.arrive now
  let was := c.inBad
  let c := (c.putB HSB_ILK.INT lineT).putB HSB_ILK.INC lineC
  (c.modHsb fun h => { h with lineAt := if c.inBad == was then h.lineAt else c.tb }).readIlk.arbCheck

/-- A line fault lasts: that of ILK_IN for 2 µs since it began; that of ILK_OUT, whose read-back the event tells, comes after its 2 µs
(R261), and comes again while the read-back still differs (DESIGN CHOICE, log entry 131). -/
def Chip.lineBad (c : Chip) (out : Bool) : Bool := out || (c.inBad && c.hsb.lineAt.toNat + 2000 ≤ c.t)

/-- A line has been without fault for 1 ms (R261). -/
def Chip.lineGood (c : Chip) (out : Bool) : Bool :=
  if out then c.hsb.outAt.toNat + 1000000 ≤ c.t else !c.inBad && c.hsb.lineAt.toNat + 1000000 ≤ c.t

/-- ILK_LINE_FAULT (R261): `out` tells the output lines. -/
def execIlkLineFault (out : Bool) (now : Time) (s : State) : Host.Outcome State Fault Refusal := s.on fun c =>
  let c := c.arrive now
  let f := if out then HSB_ILK.OUTFLT else HSB_ILK.INFLT
  if !c.pairMember || !c.lineBad out then c
  else
    let said := c.flag f
    let c := (c.set1 f).modHsb fun h => { h with outAt := if out then c.tb else h.outAt, relSince := if out then h.relSince else none }
    if said then c else ((c.set1 HSB_STAT.ILKFLT).pairFault 0x31 0).arbCheck

/-- ILK_FAULT_CLEAR (R261). -/
def execIlkFaultClear (out : Bool) (now : Time) (s : State) : Host.Outcome State Fault Refusal := s.on fun c =>
  let c := c.arrive now
  if c.lineGood out then
    let c := c.clr (if out then HSB_ILK.OUTFLT else HSB_ILK.INFLT)
    c.modHsb fun h => { h with relSince := if c.flag HSB_ILK.INRELD then some (h.relSince.getD c.tb) else h.relSince }
  else c

/-! ### Resync -/

/-- The pages of the domain (Table 9.8); those of the code store only when the running builds differ. -/
def Chip.domainPages (c : Chip) : List Nat :=
  let r (a n : Nat) : List Nat := (List.range n).map fun i => a / 4096 + i
  let own := c.rd OLC_RUNIDH.reg ++ c.rd OLC_RUNIDL.reg
  (if own = c.hsb.pbuild then [] else r 0x10000000 768) ++ r 0x20000000 1536 ++ r 0x28000000 512 ++ r 0x2C000000 80

/-- A pass sends its pages (R275): each dirty bit is cleared before its page is read (DESIGN CHOICE, log entry 16: all at the start of the
pass). -/
def Chip.sendPages (c : Chip) (l : List Nat) : Chip :=
  let c := c.modHsb fun h => { h with dirty := h.dirty.filter fun p => !l.contains p }
  (c.send (.rsctl .passStart)).forIn l fun p c => c.send (.rspage p 0 (c.ldBytes (4096 * p) 4096))

/-- The engines that this unit has mapped. -/
def Chip.mappedEngines (c : Chip) : BitVec 16 :=
  (List.finRange 16).foldl (fun (b : BitVec 16) e => if (c.physOf e).isSome then b ||| ((1 : BitVec 16) <<< e.val) else b) 0

/-- The active unit accepts or refuses a resync request (R274), once the requester's engine map is known: the frame that requests carries it,
the heartbeat does not (DEDUCED, log entry 96). -/
def Chip.resyncAccept (c : Chip) : Chip :=
  if c.mode != mRUN || c.hsb.resync.isSome || c.flag HSB_STAT.PAIRIDERR || c.flag HSB_STATE.LOCKED || c.get HSB_STATE.ROLE ≠ 1 then c
  else match c.hsb.pmap with
  | none => c
  | some m =>
    if c.configured.any fun t => !m.getLsbD (c.leOf t) then c.send (.rsctl (.refuse 7))
    else
    let l := c.domainPages
    let r : Resync := { pages := l, prev := l.length, stalls := 0, began := c.tb, tmo := c.get HSB_RSCFG.RSTMO,
                        joinpg := c.get HSB_RSCFG.JOINPG, joining := none }
    let c := (((c.put HSB_RSSTAT.PHASE 2).put HSB_RSSTAT.FAILRSN 0).put HSB_RSSTAT.PASS 1).set1 HSB_STATE.RSSRC
    ((c.modHsb fun h => { h with resync := some r, dirty := [] }).canPolicy.send (.rsctl .accept)).sendPages l

/-- A resync that runs on this unit fails, and the partner is told (R277). -/
def Chip.resyncAbort (c : Chip) (rsn : Nat) : Chip :=
  if c.hsb.resync.isSome || c.hsb.target.isSome then (c.send (.rsctl (.abort rsn))).resyncFail rsn else c

/-- The dirty pages of the domain. -/
def Chip.dirtyPages (c : Chip) : List Nat :=
  let d := c.domainPages
  c.hsb.dirty.filter fun p => d.contains p

/-- RESYNC_PASS_END (R275, R277): the last page of the pass has been sent. -/
def execResyncPassEnd (now : Time) (s : State) : Host.Outcome State Fault Refusal := s.on fun c =>
  let c := c.arrive now
  match c.hsb.resync with
  | none => c
  | some r =>
    if r.joining.isSome || (c.hsb.outq.any fun m => match m with
        | .rspage .. => true
        | _ => false) then c
    else
      let l := c.dirtyPages
      let stalls := if l.length < r.prev then 0 else r.stalls + 1
      if 8 ≤ stalls then c.resyncAbort 6
      else
        let c := (c.put HSB_RSSTAT.PHASE 3).incSat HSB_RSSTAT.PASS
        (c.modHsb fun h => { h with resync := some { r with pages := l, prev := l.length, stalls := stalls } }).sendPages l

/-- RESYNC_TIMEOUT (R277). -/
def execResyncTimeout (now : Time) (s : State) : Host.Outcome State Fault Refusal := s.on fun c =>
  let c := c.arrive now
  let late (t : Time) (ms : Nat) : Bool := t.toNat + 1000000 * ms ≤ c.t
  if (c.hsb.resync.any fun r => late r.began r.tmo) || (c.hsb.target.any fun e => late e.1 e.2) then c.resyncAbort 1 else c

/-- The time that a join takes, in ns (R276). -/
def Chip.joinNs (c : Chip) : Nat := 3310 * (c.dirtyPages.length + 4) + 1000

/-- HOUSEKEEP of cyclic task `t` is a join point (R276). -/
def Chip.joinPoint (c : Chip) (t : Fin 32) : Bool :=
  c.mode == mRUN && !c.flag SYS_MODE.TRANS && c.get HSB_RSSTAT.PHASE == 3 &&
    (match c.hsb.resync with
      | some r => c.dirtyPages.length ≤ r.joinpg
      | none => false) &&
    ((List.finRange 32).all fun u => u == t || (!(c.task u).live && (c.phase u = 0 || c.phase u = 6))) &&
    c.configured.all fun u => match c.nextRelease u c.t with
      | some rel => c.t + c.joinNs ≤ rel
      | none => true

/-- The state block (Table 9.8). -/
def Chip.stateBlock (c : Chip) : StateBlock :=
  let per (t : Fin 32) : List Nat :=
    [SCN_TCFG.reg t, SCN_TPERIOD.reg t, SCN_TPHASE.reg t, SCN_TBUD.reg t, SCN_TENTRY.reg t, SCN_TIBD.reg t, SCN_TIBB.reg t,
     SCN_TSTKLO.reg t, SCN_TSTKHI.reg t, SCN_TEVT.reg t, SCN_TPART0.reg t, SCN_TPART1.reg t, SCN_TPART2.reg t, SCN_TPART3.reg t,
     SCN_TSTAT.reg t, SCN_TMAX.reg t, SCN_TSCAN.reg t, SHD_TCFG.reg t, SHD_TMODE.reg t, SHD_TSTAT.reg t, SHD_TPDBASE.reg t,
     SHD_TPDLEN.reg t, SHD_TPBBASE.reg t, SHD_TPBLEN.reg t]
  let addrs := (List.finRange 32).flatMap per ++ [SCN_ANCHORL.reg, SCN_ANCHORH.reg, OLC_RUNIDL.reg, OLC_RUNIDH.reg, OLC_ACTSEQ.reg]
  { tb := c.tb
    regs := addrs.map fun a => (a, c.rd a)
    staged := c.staged.filter fun e => 0x40030000 ≤ e.1 && e.1 < 0x40040000
    forces := c.olc.forces.map fun f => { sym := f.sym, owner := f.owner, cur := f.cur, pend := f.pend.map fun p => match p with
      | .set v => some v
      | .clear => none }
    syms := c.olc.syms
    digest := c.olc.digest
    retain := match c.image with
      | some i => i.sec.retain
      | none => []
    tasks := (List.finRange 32).map fun t => let k := c.task t; ⟨t, k.first, k.overrun, k.outDone, k.lastRel⟩
    images := [c.img.wI, c.img.wQ, c.img.txB, c.img.txW, c.img.outB, c.img.outW, c.img.curB, c.img.curW, c.img.rxB, c.img.rxW]
    rings := (List.finRange 4).map fun r => ⟨c.rstate r, c.get (STN_LAT.RTD r), c.rd (STN_CYCNO.reg r)⟩ }

/-- The standby takes the state block, and the active unit's TB in one step (R256, R276). A running build that changes with it empties the staged
package (R196). -/
def Chip.takeBlock (c : Chip) (b : StateBlock) : Chip :=
  let was := (c.rd OLC_RUNIDL.reg, c.rd OLC_RUNIDH.reg)
  let c := b.regs.foldl (fun (c : Chip) e => c.wr e.1 e.2) c
  let c := if was = (c.rd OLC_RUNIDL.reg, c.rd OLC_RUNIDH.reg) then c else c.pkgEmpty
  let c := { c with staged := b.staged.foldl (fun (l : List (Nat × Word)) (e : Nat × Word) => spIns e.1 e.2 l) (c.staged.filter fun e => !(0x40030000 ≤ e.1 && e.1 < 0x40040000)) }
  let fs := b.forces.map fun f : ForceImage => ({ sym := f.sym, owner := f.owner, cur := f.cur, pend := f.pend.map fun p => match p with
    | some v => FPend.set v
    | none => FPend.clear } : Force)
  let c := (c.modOlc fun o => { o with forces := fs, syms := b.syms, digest := b.digest }).fcnt
  let c := { c with image := c.image.map fun (i : Image) => { i with sec := { i.sec with retain := b.retain } } }
  let c := c.forIn b.tasks fun k c => c.modTask k.t fun _ => { Task.zero with
    first := k.first, overrun := k.overrun, outDone := k.outDone, lastRel := k.lastRel }
  let g (i : Nat) : List (Nat × Word) := (b.images.getD i []).foldl (fun l e => imgSet e.1 e.2 l) []
  let c := c.loadTb b.tb
  { c with img := ⟨g 0, g 1, g 6, g 7, g 8, g 9, g 2, g 3, g 4, g 5, g 8, []⟩
           sys := { c.sys with anchored := true }, hsb := { c.hsb with report := some (b.tb, b.rings) } }

/-- FOLLOW is entered at the end of the join (R276). The resync's duration is shown and posted here too (R353, HSB_RSTIME). -/
def Chip.enterFollow (c : Chip) : Chip :=
  let us := (c.t - (c.hsb.target.map (·.1.toNat)).getD c.t) / 1000
  let c := (c.wr HSB_RSTIME.reg (BitVec.ofNat 32 us)).post 0x008 (BitVec.ofNat 32 us)
  let c := ((((c.enterMode mFOLLOW 6).put HSB_STATE.ROLE 2).set1 HSB_STATE.LOCKED).set1 HSB_STAT.RSDONE).put HSB_RSSTAT.PHASE 5
  let c := (c.put HSB_SYNCSTAT.LAGMAX 0).modHsb fun h =>
    { h with target := none, wantResync := false, lockAt := c.tb, ledger := [], staged := [], announced := false, steer := 0 }
  let c := c.forFin 32 fun t c => c.putB (SCN_TSTAT.ACT t) (c.kind t != 0)
  (c.modSys fun y => { y with start := none, runReq := none, startup := none }).updateGates

/-- RESYNC_JOIN_COMPLETE (R276): the dirty pages and the state block are sent, the pair is locked, and the extended HOUSEKEEP ends. -/
def execResyncJoinComplete (now : Time) (s : State) : Host.Outcome State Fault Refusal := s.on fun c =>
  let c := c.arrive now
  match c.hsb.resync with
  | none => c
  | some r => match r.joining with
    | none => c
    | some t =>
      let c := c.sendPages c.dirtyPages
      let c := (c.send (.rsctl (.join c.stateBlock))).send (.rsctl .done)
      let us := (c.t - r.began.toNat) / 1000
      let c := (((c.set1 HSB_STATE.LOCKED).set1 HSB_STAT.RSDONE).clr HSB_STATE.RSSRC).put HSB_RSSTAT.PHASE 5
      let c := (c.wr HSB_RSTIME.reg (BitVec.ofNat 32 us)).modHsb fun h => { h with resync := none, lockAt := c.tb }
      let c := c.post 0x008 (BitVec.ofNat 32 us)
      if c.phase t = 5 then c.housekeepEnd t else c

/-! ### Frames received -/

/-- A frame is acknowledged: it and every earlier one leave the replay buffer (R246, R247), and the notice of a HANDOVER with them (R271). Where a
commanded STOP has begun meanwhile, the HANDOVER ends (DESIGN CHOICE, log entry 126). -/
def Chip.acked (c : Chip) (ack : Word) : Chip :=
  let keep := c.hsb.replay.filter fun e => 2 ^ 31 ≤ (ack - e.fseq).toNat
  let notice := c.hsb.handover.isSome && !c.hsb.handoverAck && c.hsb.replay.any (·.msg == .rsctl .handover) &&
    !keep.any (·.msg == .rsctl .handover)
  let c := (c.modHsb fun h => { h with replay := keep }).sendWaiting
  if notice && c.flag SYS_MODE.TRANS then c.modHsb fun h => { h with handover := none }
  else if notice then
    ((c.modHsb fun h => { h with handoverAck := true }).beginTrans mSTOP).modSys fun y => { y with handing := true }
  else c

/-- A frame arrives over the sync link: its ACK is taken, and the frame itself when it is the next in order (R246, R247). -/
def Chip.receive (c : Chip) (h : SyncHdr) (now : Time) (f : Chip → Chip) : Chip :=
  let c := c.arrive now
  if !h.ok || !c.pairMember then c
  else
    let c := c.acked h.ack
    if h.fseq = c.hsb.rseq then f (c.modHsb fun g => { g with rseq := h.fseq + 1 }) else c

/-- HB: a record arrives on a path (R244, R257, R259, R260, R273, R274). A record is not counted as consecutive after one that was missed, by
SEQ, or invalid. What it shows of the partner counts for the lockstep that had begun when it was sent: TBL tells that instant. -/
def Chip.hbTake (c : Chip) (path2 : Bool) (r : HbRecord) : Chip :=
  let last := if path2 then c.hsb.p2Seq else c.hsb.p1Seq
  let adv := match last with
    | some q => 1 ≤ (r.seq - q).toNat && (r.seq - q).toNat < 2 ^ 15
    | none => true
  if !c.pairMember then c
  else if !r.crcOk || !adv then c.modHsb fun h => if path2 then { h with p2Run := 0 } else { h with p1Run := 0 }
  else
    let ok := if path2 then HSB_LINK.P2OK else HSB_LINK.P1OK
    let next := last.any fun q => r.seq = q + 1
    let run := if next then (if path2 then c.hsb.p2Run else c.hsb.p1Run) + 1 else 1
    let c := c.modHsb fun h =>
      if path2 then { h with p2At := c.tb, p2Seq := some r.seq, p2Run := run, partner := some r }
      else { h with p1At := c.tb, p1Seq := some r.seq, p1Run := run, partner := some r }
    let c := ((c.put HSB_LINK.HBSEQ r.seq.toNat).put HSB_STATE.PMODE r.mode).put HSB_STATE.PROLE r.role
    let c := if !c.flag ok && 4 ≤ run then (c.set1 ok).modHsb fun h =>
        { h with arbBarred := false, p1Lost := if path2 then h.p1Lost else none } else c
    let c := if r.pid == c.pins.pairId && !c.flag HSB_STAT.PAIRIDERR then (c.set1 HSB_STAT.PAIRIDERR).fault 1 0x04 0 0 0x48 else c
    let c := if c.flag HSB_LINK.P1OK && c.flag HSB_LINK.P2OK && c.get HSB_STATE.CLM = 0 then
        c.modHsb fun h => { h with arb := none, granted := false, arbReq := false } else c
    let fresh := c.hsb.lockAt.toNat + (c.tb.setWidth 32 - r.tbl).toInt ≤ c.t
    let c := if c.leading && fresh && (r.rsReq || r.mode != mFOLLOW) then c.activeLost none else c
    let c := if c.mode == mFOLLOW && fresh && r.mode != mRUN && !c.hsb.announced then c.lockstepLost 6 else c
    if r.rsReq && r.pid != c.pins.pairId then c.resyncAccept else c

/-- HB_FRAME_RECEIVED (R259). -/
def execHbFrameReceived (h : SyncHdr) (r : HbRecord) (now : Time) (s : State) : Host.Outcome State Fault Refusal := s.on fun c =>
  c.receive h now fun c => c.hbTake false r

/-- HB_PATH2_RECORD (R259). -/
def execHbPath2Record (r : HbRecord) (now : Time) (s : State) : Host.Outcome State Fault Refusal := s.on fun c => (c.arrive now).hbTake true r

/-- TOKEN_RECEIVED (R249, R253). -/
def execTokenReceived (h : SyncHdr) (t : Fin 32) (k : Token) (now : Time) (s : State) : Host.Outcome State Fault Refusal := s.on fun c =>
  c.receive h now fun c =>
    if c.mode != mFOLLOW || c.kind t == 0 then c
    else if (c.task t).token.isSome then c.lockstepLost 3
    else
      let c := c.modTask t fun q => { q with token := some k }
      let c := c.followStart t
      if (c.task t).token.isSome && c.kind t != kCYC && c.phase t = 0 then c.put (SCN_TSTAT.PHASE t) 6 else c

/-- INPART_RECEIVED (R249). -/
def execInpartReceived (h : SyncHdr) (t : Fin 32) (bits words : List (Nat × Word)) (now : Time) (s : State) : Host.Outcome State Fault Refusal := s.on fun c =>
  c.receive h now fun c =>
    if c.mode != mFOLLOW then c
    else (c.modTask t fun k => { k with inpart := some (bits, words) }).followStart t

/-- LEDGER_RECEIVED (R250): the TS entry comes with the TOKEN. -/
def execLedgerReceived (h : SyncHdr) (l : Ledger) (now : Time) (s : State) : Host.Outcome State Fault Refusal := s.on fun c =>
  c.receive h now fun c =>
    if c.mode != mFOLLOW || l.index = 0 then c
    else
      let next := (c.task l.task).token.isSome
      c.modHsb fun g => { g with
        ledger := (g.ledger.filter fun e => !(e.1 == next && e.2.task == l.task && e.2.index == l.index)) ++ [(next, l)] }

/-- An activation of the standby starts again from its beginning, without commit (R251, R157), also where it has reached ENDT and waits for
its ENDMK in COMPARE. -/
def Chip.followAgain (c : Chip) (t : Fin 32) (index : Nat) : Chip :=
  let e := c.leOf t
  let (a, b, x, y) : Word × Word × Word × Word := match (c.task t).serves with
    | some q => (q.acc, q.ach, q.ix, q.iy)
    | none => (0, 0, 0, 0)
  let c := ((c.jrnDrop t).unwind t).blockEnd e t
  let c := if c.kind t == kCYC then (c.toPhase t 2).modTask t fun k => { k with ends := k.ends.filter (·.1 != c.scanNum t) } else c
  let c := if (c.eng e).run = some t then c.modEng e fun g => { g with run := none } else c
  ((c.loadCtx t a b x y).modTask t fun k => { k with ledgUsed := min k.ledgUsed index }).dispatch e

/-- RETRACT_RECEIVED (R251). -/
def execRetractReceived (h : SyncHdr) (t : Fin 32) (index : Nat) (now : Time) (s : State) : Host.Outcome State Fault Refusal := s.on fun c =>
  c.receive h now fun c =>
    if c.mode != mFOLLOW then c
    else
      let k := c.task t
      let next := k.token.isSome
      let c := c.modHsb fun g => { g with ledger := g.ledger.filter fun e => !(e.1 == next && e.2.task == t && index ≤ e.2.index) }
      if next then c
      else if (k.live || (c.kind t == kCYC && c.phase t = 3)) && index < k.ledgPos then c.followAgain t index
      else c.modTask t fun k => { k with ledgUsed := min k.ledgUsed (max 1 index) }

/-- ENDMK_RECEIVED (R252, Table 9.4): the standby mirrors the abandonment of a PAIRED activation. -/
def execEndmkReceived (h : SyncHdr) (t : Fin 32) (num : Word) (how code : Nat) (now : Time) (s : State) : Host.Outcome State Fault Refusal := s.on fun c =>
  c.receive h now fun c =>
    if c.mode != mFOLLOW then c
    else
      let c := c.modTask t fun k => { k with endmk := k.endmk ++ [(num, how, code)],
                                              partnerHash := if how = 0 then k.partnerHash else (num, 0) :: k.partnerHash.take 3 }
      (c.endMirror t).endCheck t

/-- HASH_RECEIVED (R254). -/
def execHashReceived (h : SyncHdr) (t : Fin 32) (num : Word) (hash : Long) (now : Time) (s : State) : Host.Outcome State Fault Refusal := s.on fun c =>
  c.receive h now fun c =>
    if c.mode == mFOLLOW then c.modTask t fun k => { k with partnerHash := (num, hash) :: k.partnerHash.take 3 } else c

/-- STAGE_RECEIVED (R213, R255): an activation is armed at once for its scan; a force change without owner takes effect at once. -/
def execStageReceived (h : SyncHdr) (t : Fin 32) (addr : Nat) (value num : Word) (now : Time) (s : State) : Host.Outcome State Fault Refusal := s.on fun c =>
  c.receive h now fun c =>
    if c.mode != mFOLLOW then c
    else if addr = OLC_CMD.reg then
      if value = 0x5A3C0002 then (if c.get OLC_STATE.STATE = 3 then c.olcDisarm else c.lockstepLost 8)
      else if c.get OLC_STATE.STATE = 2 then c.arm num else c.lockstepLost 8
    else
      let l := c.hsb.staged
      let c := c.modHsb fun g => { g with staged := g.staged ++ [(t, addr, value, num)] }
      if addr = OLC_FCMD.reg then
        let id := ((l.filter fun e => e.2.1 == OLC_FID.reg).getLast?.map fun e => e.2.2.1).getD 0
        match c.olc.syms.find? (·.id == id) with
        | none => c.lockstepLost 8
        | some y => if (c.forceOwner y).isNone then
              (c.modHsb fun g => { g with staged := l.filter fun e => !(e.1 == t && (e.2.1 == OLC_FID.reg || e.2.1 == OLC_FVALL.reg || e.2.1 == OLC_FVALH.reg)) }).stageForce l value
            else c.stageDue t
      else if addr = SHD_TMODE.reg t then c.stageDue t
      else if addr = UPD_CMD.reg then
        let mine := fun (e : Fin 32 × Nat × Word × Word) => e.2.1 == UPD_WHENL.reg || e.2.1 == UPD_WHENH.reg || e.2.1 == UPD_SRC.reg
        (c.modHsb fun g => { g with staged := l.filter fun e => !mine e }).updFollow value ((l.filter mine).map fun e => (e.2.1, e.2.2.1))
      else c

/-- STATUS_RECEIVED (R256): `ofs` is the offset of this unit's TB as measured, and the standby's TB is steered by it. -/
def execStatusReceived (h : SyncHdr) (rings : List RingReport) (build staged : Long) (crc ofs : Word) (now : Time) (s : State) : Host.Outcome State Fault Refusal := s.on fun c =>
  c.receive h now fun c =>
    let c := c.modHsb fun g => { g with report := some (c.tb, rings), pbuild := build, pstgCrc := crc }
    let c := (c.wr OLC_PSTGL.reg (staged.setWidth 32)).wr OLC_PSTGH.reg (staged.extractLsb' 32 32)
    if c.mode == mFOLLOW then (c.wr HSB_TBOFS.reg ofs).modHsb fun g => { g with steer := -ofs.toInt } else c.wr HSB_TBOFS.reg 0

/-- RSPAGE_RECEIVED (R275). -/
def execRspageReceived (h : SyncHdr) (page : Nat) (data : List Byte) (now : Time) (s : State) : Host.Outcome State Fault Refusal := s.on fun c =>
  c.receive h now fun c =>
    if c.hsb.target.isSome && inDomain (4096 * page) then c.stBytes (4096 * page) (data.take 4096) else c

/-- RSCTL_RECEIVED (R271, R274 to R277). -/
def execRsctlReceived (h : SyncHdr) (r : RsCtl) (now : Time) (s : State) : Host.Outcome State Fault Refusal := s.on fun c =>
  c.receive h now fun c =>
    match r with
    | .request m => (c.modHsb fun g => { g with pmap := some m }).resyncAccept
    | .accept =>
      if c.mode != mSTOP || c.flag SYS_MODE.TRANS || c.hsb.target.isSome then c
      else
        let c := ((c.put HSB_STATE.ROLE 4).put HSB_RSSTAT.PHASE 1).put HSB_RSSTAT.FAILRSN 0
        ((c.put HSB_RSSTAT.PASS 0).modHsb fun g => { g with target := some (c.tb, g.reqTmo), wantResync := false }).canPolicy
    | .refuse rsn => (((c.put HSB_RSSTAT.PHASE 6).put HSB_RSSTAT.FAILRSN rsn).set1 HSB_STAT.RSFAIL).modHsb fun g => { g with wantResync := false }
    | .passStart =>
      if c.hsb.target.isNone then c
      else
        let c := c.incSat HSB_RSSTAT.PASS
        c.put HSB_RSSTAT.PHASE (if c.get HSB_RSSTAT.PASS = 1 then 2 else 3)
    | .join b => if c.hsb.target.isSome then (c.put HSB_RSSTAT.PHASE 4).takeBlock b else c
    | .done => if c.mode == mSTOP && !c.flag SYS_MODE.TRANS && c.hsb.target.isSome && c.get HSB_RSSTAT.PHASE = 4 then c.enterFollow else c
    | .abort rsn => c.resyncFail rsn
    | .handover => if c.mode == mFOLLOW then c.modHsb fun g => { g with announced := true } else c

/-! ### Frames sent -/

/-- HEARTBEAT_SEND (R259, R260, R264, R271, R274): a silenced unit sends nothing. A record that requests resync goes with the frame that
names the engines mapped. -/
def execHeartbeatSend (now : Time) (s : State) : Host.Outcome State Fault Refusal := s.on fun c =>
  let c := c.arrive now
  let slow := c.mode == mINTER && c.hsb.hbOut.any (·.mode == mINTER)
  if !c.pairMember || c.flag HSB_STATE.SIL || c.flushing || c.hsb.quiet.isSome || now.toNat % (if slow then 10000000 else 100000) ≠ 0 then c
  else
    let r : HbRecord := {
      pid := c.pins.pairId, claim := c.get HSB_STATE.CLM == 2, locked := c.flag HSB_STATE.LOCKED, fenced := c.pins.fence,
      lineFlt := c.flag HSB_ILK.INFLT || c.flag HSB_ILK.OUTFLT, rsReq := c.hsb.wantResync, mode := c.mode,
      role := c.get HSB_STATE.ROLE, seq := c.hsb.hbSeq + 1, tbl := now.setWidth 32, crcOk := true }
    let c := (c.modHsb fun h => { h with hbSeq := h.hbSeq + 1, hbOut := some r }).send (.hb r)
    if r.rsReq && c.mode == mSTOP then c.send (.rsctl (.request c.mappedEngines)) else c

/-- STATUS_FRAME_SEND (R248, Table 9.3): INTERMISSION carries only heartbeats (R449). -/
def execStatusFrameSend (now : Time) (s : State) : Host.Outcome State Fault Refusal := s.on fun c =>
  let c := c.arrive now
  if now.toNat % 100000 ≠ 0 || c.mode == mINTER then c
  else c.send (.status c.tb ((List.finRange 4).map fun r => ⟨c.rstate r, c.get (STN_LAT.RTD r), c.rd (STN_CYCNO.reg r)⟩)
    (c.rd OLC_RUNIDH.reg ++ c.rd OLC_RUNIDL.reg) (c.rd OLC_STGIDH.reg ++ c.rd OLC_STGIDL.reg) c.olc.pkgCrc)

/-- REPLAY_TIMEOUT (R247), 5 µs after the oldest frame was sent: every frame from the oldest unacknowledged on is sent again; after three replays the
link is down. -/
def execReplayTimeout (now : Time) (s : State) : Host.Outcome State Fault Refusal := s.on fun c =>
  let c := c.arrive now
  match c.hsb.replay with
  | [] => c
  | e :: _ =>
    if c.t < e.sentAt.toNat + 5000 then c
    else if 3 ≤ e.tries then c.linkDown
    else c.modHsb fun h => { h with replay := h.replay.map fun e => { e with tries := e.tries + 1, sentAt := c.tb } }

/-- LANE_ALIGNMENT_LOST (R245): the lane retrains under admission (Table 18.3); without any lane the link is down. -/
def execLaneAlignmentLost (lane : Fin 2) (now : Time) (s : State) : Host.Outcome State Fault Refusal := s.on fun c =>
  let c := c.arrive now
  let f := if lane = 0 then HSB_LINK.LANE0 else HSB_LINK.LANE1
  if !c.flag f then c
  else
    let c := ((c.clr f).set1 HSB_STAT.LANEDN).fault 1 0x04 0 0 0x48
    let c := (if lane = 0 then c.legacyFail else c).turnAsk 5 .link
    if c.flag HSB_LINK.LANE0 || c.flag HSB_LINK.LANE1 then c else c.linkDown

/-- SYNC_LANE_ALIGNED (R245): a lane that retrains waits for its admission; in INTERMISSION lane 1 is powered down (R449). -/
def execSyncLaneAligned (lane : Fin 2) (now : Time) (s : State) : Host.Outcome State Fault Refusal := s.on fun c =>
  let c := c.arrive now
  if (c.turn.any fun a => a.cls == 5 && a.who == .link && !a.admitted) || (lane = 1 && c.mode == mINTER) then c
  else (c.turnEnd 5 .link).set1 (if lane = 0 then HSB_LINK.LANE0 else HSB_LINK.LANE1)

/-- The time without a valid record after which a path is lost, in ns (R260). -/
def Chip.hbLimit (c : Chip) : Nat := if c.mode == mINTER || c.hsb.partner.any (·.mode == mINTER) then 30500000 else 305000

/-- HEARTBEAT_PATH_LOST (R260, R265, R273, R277). -/
def execHeartbeatPathLost (path2 : Bool) (now : Time) (s : State) : Host.Outcome State Fault Refusal := s.on fun c =>
  let c := c.arrive now
  let ok := if path2 then HSB_LINK.P2OK else HSB_LINK.P1OK
  let at_ := if path2 then c.hsb.p2At else c.hsb.p1At
  if !c.flag ok || c.t < at_.toNat + c.hbLimit then c
  else
    let c := ((c.clr ok).set1 HSB_STAT.PATHLOST).modHsb fun h =>
      if path2 then { h with p2Run := 0, p2Seq := none } else { h with p1Run := 0, p1Seq := none, p1Lost := some c.tb }
    let c := c.pairFault 0x30 (if path2 then 2 else 1)
    if c.pathsLost then ((c.set1 HSB_STAT.BOTHLOST).resyncFail 2).arbCheck else c

/-- PATH1_LOSS_CONFIRM (R260). -/
def execPath1LossConfirm (now : Time) (s : State) : Host.Outcome State Fault Refusal := s.on fun c =>
  let c := c.arrive now
  match c.hsb.p1Lost with
  | none => c
  | some t =>
    if c.t < t.toNat + 50000 || !c.flag HSB_LINK.P2OK || c.flag HSB_LINK.P1OK then c
    else ((c.modHsb fun h => { h with p1Lost := none }).lockstepLost 5).activeLost (some 5)

/-! ### Commands -/

/-- A command written to HSB_CMD: `f` answers CMDERR and the effect. -/
def Chip.hsbCmd (c : Chip) (w : Cmd) (f : Chip → Nat × Chip) : Chip :=
  (c.arrive w.now).allow (isMc w.agent || isHost w.agent) w.agent HSB_CMD.reg fun c =>
    if HSB_CMD.KEY.of w.value ≠ 0x9C6E then c
    else let (e, c) := f c; c.put HSB_STATE.CMDERR e

/-- RESYNC (R274): a unit in STOP requests it. -/
def Chip.cmdResync (c : Chip) : Nat × Chip :=
  if c.mode != mSTOP || !c.pairMember then (2, c)
  else if c.hsb.target.isSome then (1, c)
  else (0, c.wantRs.send (.rsctl (.request c.mappedEngines)))

/-- RSABORT (R277). -/
def Chip.cmdRsabort (c : Chip) : Nat × Chip := if c.hsb.resync.isSome || c.hsb.target.isSome then (0, c.resyncAbort 5) else (3, c)

/-- HANDOVER (R271). -/
def Chip.cmdHandover (c : Chip) : Nat × Chip :=
  if !c.leading then (2, c)
  else if c.hsb.handover.isSome || c.flag SYS_MODE.TRANS then (1, c)
  else (0, (c.send (.rsctl .handover)).modHsb fun h => { h with handover := some c.tb, handoverAck := false })

/-- LGCSTART (R278): values of the map that need no source are stored at the start (DESIGN CHOICE, log entry 17). -/
def Chip.cmdLgcstart (c : Chip) : Nat × Chip :=
  match c.image with
  | none => (2, c)
  | some im =>
    if c.mode != mSTOP || !im.paired || !c.flag SYS_BOOTSTAT.MIGRATED || im.sec.legacy.isEmpty || !c.flag HSB_LINK.LANE0 ||
        !(im.sec.legacy.all fun m => 1 ≤ m.action && m.action ≤ 8) then (2, c)
    else if c.flag HSB_STATE.LGC then (1, c)
    else
      let c := (((c.set1 HSB_STATE.LGC).put HSB_STATE.ROLE 5).clr HSB_ILK.INFLT).readIlk
      let c := c.modHsb fun h => { h with legacy := some (c.tb, c.get HSB_RSCFG.RSTMO), lgcNext := none }
      (0, c.forIn (im.sec.legacy.filter fun m => m.action = 4 || m.action = 5 || 7 ≤ m.action) fun m c => c.migrate1 im.sec.legacyInit m)

/-- LGCABORT (R280). -/
def Chip.cmdLgcabort (c : Chip) : Nat × Chip := if c.flag HSB_STATE.LGC then (0, c.legacyFail) else (2, c)

/-- ARBCLR (R267). -/
def Chip.cmdArbclr (c : Chip) : Nat × Chip := (0, c.modHsb fun h => { h with arbBarred := false })

/-- HSB_RESYNC. -/
def execHsbResync (w : Cmd) (s : State) : Host.Outcome State Fault Refusal := s.on fun c => c.hsbCmd w (·.cmdResync)
/-- HSB_RSABORT. -/
def execHsbRsabort (w : Cmd) (s : State) : Host.Outcome State Fault Refusal := s.on fun c => c.hsbCmd w (·.cmdRsabort)
/-- HSB_HANDOVER. -/
def execHsbHandover (w : Cmd) (s : State) : Host.Outcome State Fault Refusal := s.on fun c => c.hsbCmd w (·.cmdHandover)
/-- HSB_LGCSTART. -/
def execHsbLgcstart (w : Cmd) (s : State) : Host.Outcome State Fault Refusal := s.on fun c => c.hsbCmd w (·.cmdLgcstart)
/-- HSB_LGCABORT. -/
def execHsbLgcabort (w : Cmd) (s : State) : Host.Outcome State Fault Refusal := s.on fun c => c.hsbCmd w (·.cmdLgcabort)
/-- HSB_ARBCLR. -/
def execHsbArbclr (w : Cmd) (s : State) : Host.Outcome State Fault Refusal := s.on fun c => c.hsbCmd w (·.cmdArbclr)

/-- HANDOVER_ACK_TIMEOUT (R271). -/
def execHandoverAckTimeout (now : Time) (s : State) : Host.Outcome State Fault Refusal := s.on fun c =>
  let c := c.arrive now
  if !c.hsb.handoverAck && c.hsb.handover.any fun t => t.toNat + 100000 ≤ c.t then
    (c.put HSB_STATE.CMDERR 3).modHsb fun h => { h with handover := none }
  else c

/-- Steps 3 and 4 of a HANDOVER (R271): STOP, the claim released, heartbeats silent for 1 ms. -/
def Chip.handoverStop (c : Chip) : Chip :=
  let c := ((c.enterStop 1).clr HSB_STATE.LOCKED).releaseClaim
  (c.modSys fun y => { y with handing := false }).modHsb fun h => { h with handover := none, handoverAck := false, quiet := some c.tb }

/-- HANDOVER_SILENCE_END (R271). -/
def execHandoverSilenceEnd (now : Time) (s : State) : Host.Outcome State Fault Refusal := s.on fun c =>
  let c := c.arrive now
  if c.hsb.quiet.any fun t => t.toNat + 1000000 ≤ c.t then (c.modHsb fun h => { h with quiet := none }).wantRs else c

/-! ### Legacy hand-over -/

/-- A value that a legacy entry stores; a timer stamp is rebased by the offset of the forerunner's TB (R279). -/
def Chip.legacyStore (c : Chip) (timers : List Word) (ofs : Time) (a n v : Nat) : Chip :=
  c.migStore a n (if n = 8 && timers.any (·.toNat == a) then (BitVec.ofNat 64 v + ofs).toNat else v)

/-- One entry of the legacy map, for the elements whose source lies in the block (R279). -/
def Chip.legacyEntry (c : Chip) (timers : List Word) (b : LegacyBlock) (m : MigEntry) : Chip :=
  let has (a n : Nat) : Bool := b.base ≤ a && a + n ≤ b.base + b.data.length
  let get (a n : Nat) : Nat := ((List.range n).map fun j => (b.data.getD (a - b.base + j) 0).toNat * 2 ^ (8 * j)).sum
  let s := m.src.toNat
  let d := m.dst.toNat
  match m.action, b.bits with
  | 1, false => c.forIn (List.range (m.count / 8)) fun i c =>
      if has (s + 8 * i) 8 then c.legacyStore timers b.ofs (d + 8 * i) 8 (get (s + 8 * i) 8) else c
  | 2, false | 3, false =>
    let f := 2 ^ m.fromSz
    let t := 2 ^ m.toSz
    c.forIn (List.range m.count) fun i c =>
      if has (s + f * i) f then c.legacyStore timers b.ofs (d + t * i) t (extend (m.action == 2) f (get (s + f * i) f)) else c
  | 6, true => c.forIn (List.range m.count) fun i c =>
      let k := s + i - b.base
      if b.base ≤ s + i && k / 8 < b.data.length then c.migBit (d + i) ((b.data.getD (k / 8) 0).getLsbD (k % 8)) else c
  | _, _ => c

/-- LEGACY_STATE_BLOCK (R279). -/
def execLegacyStateBlock (b : LegacyBlock) (now : Time) (s : State) : Host.Outcome State Fault Refusal := s.on fun c =>
  let c := c.arrive now
  match c.image with
  | some im => if c.flag HSB_STATE.LGC then c.forIn im.sec.legacy fun m c => c.legacyEntry im.sec.timers b m else c
  | none => c

/-- LEGACY_HANDOVER_RECORD (R280). -/
def execLegacyHandoverRecord (r : LegacyRecord) (now : Time) (s : State) : Host.Outcome State Fault Refusal := s.on fun c =>
  let c := c.arrive now
  if c.flag HSB_STATE.LGC then c.modHsb fun h => { h with lgcCycle := r.cycle, lgcNext := some r.next } else c

/-- LEGACY_TIMEOUT (R280). -/
def execLegacyTimeout (now : Time) (s : State) : Host.Outcome State Fault Refusal := s.on fun c =>
  let c := c.arrive now
  if c.hsb.lgcNext.isNone && c.hsb.legacy.any fun e => e.1.toNat + 1000000 * e.2 ≤ c.t then c.legacyFail else c

/-! ### HOUSEKEEP -/

/-- A standby's HOUSEKEEP completes: LAGMAX takes the lag, which the frames do not carry (log entry 18: a free value), and the next TOKEN is
taken up. -/
def Chip.followNext (c : Chip) (t : Fin 32) : Chip :=
  if c.mode != mFOLLOW then c
  else
    let (w, c) := c.freeW
    let c := c.put HSB_SYNCSTAT.LAGMAX (max (c.get HSB_SYNCSTAT.LAGMAX) (w.toNat % 65536))
    c.followStart t

/-- HOUSEKEEP_PHASE (R130, R136, R142, R156, R185, R201, R209, R276): the boundary's work; then the end of the scan, unless a migration or
a join extends it. An abandoned scan whose next one has begun completes beside it. -/
def execHousekeepPhase (t : Fin 32) (now : Time) (s : State) : Host.Outcome State Fault Refusal := s.on fun c =>
  let c := c.arrive now
  if !c.scanning || c.kind t != kCYC then c
  else if (c.task t).old.isSome then c.doIf (c.imgTurn t 6) (·.oldHousekeep t)
  else if c.phase t ≠ 5 || !c.imgTurn t 5 || c.migrating t || c.hsb.resync.any (·.joining.isSome) then c
  else
    let c := (c.stageDue t).housekeepWork t
    if !c.scanning || c.migrating t then c
    else if c.joinPoint t then
      (c.put HSB_RSSTAT.PHASE 4).modHsb fun h => { h with resync := h.resync.map fun r => { r with joining := some t } }
    else (c.housekeepEnd t).followNext t

/-- ACTIVATION_EXCHANGE (R201): the activation window of a task package ends, and with it the pivot task's HOUSEKEEP. -/
def execActivationExchange (now : Time) (s : State) : Host.Outcome State Fault Refusal := s.on fun c =>
  let c := c.arrive now
  if c.get OLC_STATE.STATE ≠ 4 then c
  else
    let t := c.olc.pivot
    let c := c.exchange
    if c.phase t = 5 then (c.housekeepEnd t).followNext t else c.followStart t

end Sys2Proof.Machine
end

