-- ==== Sys2Proof/Machine/RegRead.lean ====
section
/-! DEFINITION. Reads of control registers (R4 to R6): what a register shows, to whom, and what its reading does. -/

namespace Sys2Proof.Machine

/-! ### Registers that show more than they hold -/

/-- The records missed on a heartbeat path since its last valid record, saturating (HSB_LINK, R259, R260). -/
def Chip.missed (c : Chip) (last : Time) : Nat :=
  let slow := c.mode == mINTER || c.hsb.partner.any (·.mode == mINTER)
  if c.pairMember then min 15 ((c.t - last.toNat) / (if slow then 10000000 else 100000)) else 0

/-- The force entry that OLC_FIDX selects. -/
def Chip.fSel (c : Chip) : Option Force := c.olc.forces[c.get OLC_FIDX.IDX]?
/-- The value of a force entry, or its pending value (OLC_FVALL). -/
def Force.shown (f : Force) : Long :=
  match f.pend with
  | some (.set v) => v
  | _ => f.cur.getD 0

/-- OLC_FINFO of the selected entry. -/
def Chip.fInfo (c : Chip) (v : Word) : Word :=
  match c.fSel with
  | none => v
  | some f =>
    let w := (OLC_FINFO.PEND.ins (OLC_FINFO.VALID.ins v 1) f.pend.isSome.toNat)
    let w := OLC_FINFO.SIZE.ins (OLC_FINFO.SPACE.ins w f.sym.space) f.sym.size
    match f.owner with
    | some t => OLC_FINFO.OWNER.ins w t
    | none => OLC_FINFO.NOOWN.ins w 1

/-- The bits of the partitions whose access the reading agent has unlocked (NVS_PWSTAT). -/
def Chip.unlockedBits (c : Chip) (ag : AgentId) (write : Bool) : Nat :=
  ((List.range 5).map fun p => if c.nvs.unlocked.contains (ag.toNat, p, write) then 2 ^ p else 0).sum

/-- NVS_RTINFO of the record that NVS_RTSEL selects; the chip's own records hold at most 48 bytes (R378). -/
def Chip.rtInfo (c : Chip) : Word :=
  match c.recSlot (c.get NVS_RTSEL.REC) with
  | none => 0
  | some (o, n) => BitVec.ofNat 32 (2 ^ 31 + 2 ^ 16 * n.getD 48 + o)

/-- A bank of the guard that belongs to an agent (R478). -/
def bankGet (l : List (Nat × Word)) (k : Nat) : Word := spGet 0 l k

/-- Seconds from now to an instant, rounded up. -/
def Chip.secsTo (c : Chip) (t : Option Time) : Nat :=
  match t with
  | none => 0
  | some t => (t.toNat - c.t + 999999999) / 1000000000

/-- Entries of the Turnstile in a class. -/
def Chip.turnCount (c : Chip) (cls : Nat) (admitted : Bool) : Nat := (c.turn.filter fun a => a.cls == cls && a.admitted == admitted).length

/-- What the register at `a` holds, as the agent reads it. -/
def Chip.holds (c : Chip) (ag : AgentId) (a : Nat) : Word :=
  let v := c.rd a
  match a / 0x10000 with
  | 0x4000 => if a = SYS_BOOTSTAT.reg then SYS_BOOTSTAT.WARMOK.ins v c.warmOk.toNat else v
  | 0x4001 =>
    if PWR_TSCLS.reg 0 ≤ a && a ≤ PWR_TSCLS.reg 6 then
      let k := (a - PWR_TSCLS.reg 0) / 4
      (PWR_TSCLS.QUEUED k).ins ((PWR_TSCLS.INFL k).ins v (c.turnCount k true)) (c.turnCount k false)
    else v
  | 0x4004 =>
    if a = OLC_FINFO.reg then c.fInfo v
    else if (a = OLC_PSTGL.reg || a = OLC_PSTGH.reg) && !c.hsb.partner.any (·.mode == mFOLLOW) then 0
    else match c.fSel with
      | none => v
      | some f =>
        if a = OLC_FLOC.reg then BitVec.ofNat 32 f.sym.loc
        else if a = OLC_FID.reg && c.olc.showId then f.sym.id
        else if a = OLC_FVALL.reg && c.olc.showLo then f.shown.setWidth 32
        else if a = OLC_FVALH.reg && c.olc.showHi then f.shown.extractLsb' 32 32
        else v
  | 0x4006 =>
    if a = HSB_LINK.reg then HSB_LINK.P2MISS.ins (HSB_LINK.P1MISS.ins v (c.missed c.hsb.p1At)) (c.missed c.hsb.p2At)
    else if a = HSB_ILK.reg then
      HSB_ILK.INREL.ins v (if c.flag HSB_ILK.INASS || c.flag HSB_ILK.INFLT then 0 else match c.hsb.relSince with
        | some t => min 255 ((c.t - t.toNat) / 1000)
        | none => 0)
    else if a = HSB_RSSTAT.reg then HSB_RSSTAT.DIRTY.ins v c.hsb.dirty.length
    else v
  | 0x4007 =>
    if a = FLT_PROMISE.reg then c.promise
    else if FLT_LOG.reg 0 ≤ a && a ≤ FLT_LOG.reg 3 then
      (c.flt.log[(Fin.ofNat 64 (c.get FLT_LOGIDX.IDX))])[Fin.ofNat 4 ((a - FLT_LOG.reg 0) / 4)]
    else v
  | 0x400E =>
    if a = NVS_PWSTAT.reg then NVS_PWSTAT.WUNL.ins (NVS_PWSTAT.RUNL.ins v (c.unlockedBits ag false)) (c.unlockedBits ag true)
    else if a = NVS_RTINFO.reg then c.rtInfo
    else v
  | 0x4010 => if a = WDG_REMAIN.reg then BitVec.ofNat 32 (c.wdgLeft / 1000) else v
  | 0x4011 => if a = MIM_STATE.reg then MIM_STATE.RUN.ins v c.mimRun.toNat else v
  | 0x4012 => if a = UPD_CREM.reg then BitVec.ofNat 32 (c.secsTo c.upd.window) else v
  | 0x4013 =>
    if a = GRD_CMDSTAT.reg then bankGet c.grd.cmdstat ag.toNat
    else if a = GRD_RADDR.reg then bankGet c.grd.raddr ag.toNat
    else if a = GRD_DBG.reg then GRD_DBG.DREM.ins v (c.secsTo c.grd.dbgUntil)
    else v
  | _ => v

/-- The slot of the acyclic transactions that holds an address of the STN block (Table 8.9): its ring and tag. -/
def acSlot (a : Nat) : Option (Fin 4 × Fin 64) :=
  let o := a % 0x4000
  if a / 0x10000 = 0x4005 && 0x2000 ≤ o then some (Fin.ofNat 4 (a % 0x10000 / 0x4000), Fin.ofNat 64 ((o - 0x2000) / 0x80)) else none

/-- What a read of the register at `a` returns (R6, Table 0.2): a pending value in RWS fields, 0 in WO fields. -/
def Chip.shows (c : Chip) (ag : AgentId) (a : Nat) : Word :=
  match regRow? a with
  | none => if (acSlot a).isSome then c.rd a else 0
  | some r =>
    let v := c.holds ag a &&& ~~~r.wo
    match c.staged.find? (·.1 == a) with
    | some (_, p) => (v &&& ~~~r.rws) ||| (p &&& r.rws)
    | none => v

/-! ### The read itself -/

/-- The effect of a read on the register's block, where it has one: the mode-change line (R92), a take (R345), the latch of NVS_CNTH (R384), the cursor
(R369), and the rows that the panel has been sent by then (R430). -/
def Chip.regRead (c : Chip) (ag : AgentId) (a : Nat) : Chip :=
  if !c.mayRead ag a then (c.refuse ag false a).denied ag 4
  else if a = SYS_MODE.reg then (c.answerW (c.shows ag a)).modSys fun y => { y with modeLine := false }
  else if MBX_WTAKE.reg 0 ≤ a && a ≤ MBX_WTAKE.reg 3 then c.wTakeRead (Fin.ofNat 4 ((a - MBX_WTAKE.reg 0) / 4)) ag
  else if a = MIM_BAL.reg then let c := c.mimUpToNow; c.answerW (c.shows ag a)
  else if a = NVS_CNTL.reg then
    let (v, c) := c.cntRead
    c.answerW v
  else if a = REC_RDWIN.reg 15 then
    let (v, c) := c.win15 ag
    c.answerW v
  else c.answerW (c.shows ag a)

end Sys2Proof.Machine
end

