-- ==== Sys2Proof/Machine/Sys.lean ====
section
/-! DEFINITION. The mode controller's commands and events (R28 to R37, R48, R53, R501). -/

namespace Sys2Proof.Machine

/-! ### SYS_CMD -/

/-- A command written to SYS_CMD: its writer (R53), its key, what pre-empts it (R33) and a transition in progress (R32) come first. -/
def Chip.sysCmd (c : Chip) (code : Nat) (w : Cmd) (f : Chip → Chip) : Chip :=
  (c.arrive w.now).allow (isMc w.agent || isHost w.agent) w.agent SYS_CMD.reg fun c =>
    let c := c.put SYS_CMDSTAT.LASTCMD code
    if SYS_CMD.KEY.of w.value ≠ 0xC3A5 then c.cmdErr 1
    else if w.preempted then c.cmdErr 5
    else if c.flag SYS_MODE.TRANS then c.cmdErr 3
    else f c

/-- STOP (R30). -/
def Chip.sysStop (c : Chip) : Chip :=
  if c.mode != mRUN && c.mode != mFOLLOW then c.cmdErr 2 else ((c.cmdErr 0).beginTrans mSTOP).cancelArmed

/-- RUN_COLD and RUN_WARM (R47, R48). -/
def Chip.sysRun (c : Chip) (warm : Bool) : Chip := if c.mode != mSTOP then c.cmdErr 2 else c.askRun warm 1

/-- INTERMISSION (R449). -/
def Chip.sysIntermission (c : Chip) : Chip := if c.mode != mSTOP then c.cmdErr 2 else c.intermission

/-- LEAVE_SAFEHOLD (R29). The confirm window of a bank taken at LOAD starts here where LOAD ended in SAFE-HOLD (R468). -/
def Chip.sysLeave (c : Chip) : Chip :=
  if c.mode != mSAFE then c.cmdErr 2
  else if c.sys.unitHold || c.pins.fence then c.cmdErr 4
  else ((c.cmdErr 0).enterStop 1).bootWindow

/-- SYS_CMD is written: the commands, and the codes that are none (R29). -/
def Chip.sysCmdWrite (c : Chip) (w : Cmd) : Chip :=
  let n := SYS_CMD.CMD.of w.value
  c.sysCmd n w fun c =>
    match n with
    | 1 => c.sysStop
    | 2 => c.sysRun false
    | 3 => c.sysRun true
    | 4 => c.sysIntermission
    | 5 => c.sysLeave
    | 6 => c.pinReset SYS_RSTCAUSE.SW
    | _ => c.cmdErr 2

/-- SYS_STOP. -/
def execSysStop (w : Cmd) (s : State) : Host.Outcome State Fault Refusal := s.on fun c => c.sysCmd 1 w Chip.sysStop
/-- SYS_RUN_COLD. -/
def execSysRunCold (w : Cmd) (s : State) : Host.Outcome State Fault Refusal := s.on fun c => c.sysCmd 2 w fun c => c.sysRun false
/-- SYS_RUN_WARM. -/
def execSysRunWarm (w : Cmd) (s : State) : Host.Outcome State Fault Refusal := s.on fun c => c.sysCmd 3 w fun c => c.sysRun true
/-- SYS_INTERMISSION. -/
def execSysIntermission (w : Cmd) (s : State) : Host.Outcome State Fault Refusal := s.on fun c => c.sysCmd 4 w Chip.sysIntermission
/-- SYS_LEAVE_SAFEHOLD. -/
def execSysLeaveSafehold (w : Cmd) (s : State) : Host.Outcome State Fault Refusal := s.on fun c => c.sysCmd 5 w Chip.sysLeave
/-- SYS_SOFTWARE_RESET (R38). -/
def execSysSoftwareReset (w : Cmd) (s : State) : Host.Outcome State Fault Refusal := s.on fun c =>
  c.sysCmd 6 w fun c => c.pinReset SYS_RSTCAUSE.SW

/-! ### STOP and the start mode -/

/-- No scan is left whose INPUT has begun (R30). -/
def Chip.scansDone (c : Chip) : Bool := (List.finRange 32).all fun t =>
  !(c.task t).live && (c.task t).old.isNone && (c.phase t == 0 || c.phase t == 6)

/-- STOP_TRANSITION_COMPLETE (R30); for a HANDOVER its next steps follow (R271). A standby leaves lockstep without a loss of it. -/
def execStopTransitionComplete (now : Time) (s : State) : Host.Outcome State Fault Refusal := s.on fun c =>
  let c := c.arrive now
  if !c.flag SYS_MODE.TRANS || c.get SYS_MODE.TARGET ≠ mSTOP || !c.scanning || !c.scansDone then c
  else if c.sys.handing then c.handoverStop
  else (if c.mode == mFOLLOW then c.clr HSB_STATE.LOCKED else c).enterStop 1

/-- START_MODE_RESTART (Table 2.5, R48, R501). -/
def execStartModeRestart (now : Time) (s : State) : Host.Outcome State Fault Refusal := s.on fun c =>
  let c := c.arrive now
  match c.sys.start with
  | none => c
  | some st =>
    if c.mode != mSTOP || c.flag SYS_MODE.TRANS || c.sys.runReq.isSome || !c.ringsReady then c
    else if st = 1 then c.askRun false 2
    else if st = 3 || c.warmOk then c.askRun true 2
    else (c.flushNotes.put SYS_BOOTSTAT.CFGERR 6).askRun false 2

/-- RING_READY_TIMEOUT (R501). -/
def execRingReadyTimeout (r : Fin 4) (now : Time) (s : State) : Host.Outcome State Fault Refusal := s.on fun c =>
  let c := c.arrive now
  let n := c.get (STN_STATE.NSTN r)
  if c.mode == mSTOP && n != 0 && c.sys.stopAt.toNat + 2000000 + 40000000 * n ≤ c.t then c.modRing r fun g => { g with ready := true } else c

/-! ### FENCE_N and REFCLK -/

/-- FENCE_N_ASSERTED (R31, R34, R269): LOAD keeps it until its end, also where FENCE_N is released meanwhile. -/
def execFenceNAsserted (now : Time) (s : State) : Host.Outcome State Fault Refusal := s.on fun c =>
  let c := c.arrive now
  let c := { c with pins := { c.pins with fence := true } }
  let c := if c.hsb.arb.any (·.1 == 1) then c.arbEnd 3 else c
  if c.mode == mLOAD then c.modSys fun y => { y with fenceSeen := true }
  else if c.mode == mSAFE then c.releaseClaim
  else c.enterSafeHold 4 false

/-- FENCE_N_RELEASED. -/
def execFenceNReleased (now : Time) (s : State) : Host.Outcome State Fault Refusal := s.on fun c =>
  let c := c.arrive now
  { c with pins := { c.pins with fence := false } }.updateGates

/-- REFCLK_STOPPED (R496): TB stands, and the host link goes down with the SerDes (R35; DEDUCED, log entry 98). -/
def execRefclkStopped (now : Time) (s : State) : Host.Outcome State Fault Refusal := s.on fun c =>
  let c := c.arrive now
  { c with pins := { c.pins with refclk := false } }.hostLinkLost.fault 3 0x0F 0 0x4C

end Sys2Proof.Machine
end

