-- ==== Sys2Proof/Machine/Wdg.lean ====
section
/-! DEFINITION. The watchdog's commands (R406 to R415); the reset itself is in Reset.lean. -/

namespace Sys2Proof.Machine

/-- The agents whose writes the WDG block takes. -/
def wdgAgent (a : AgentId) : Bool := isMc a || isHost a

/-- Any other write to the block cancels the key sequence (R414). -/
def Chip.wdgCancel (c : Chip) : Chip := c.modWdg fun w => { w with key := none }

/-- A write to WDG_KEY (R414, R415). -/
def Chip.wdgKey (c : Chip) (w : Cmd) : Chip :=
  if c.cutOff w.agent then c.unreached
  else
    let k := w.value.toNat % 2 ^ 16
    let next : Option (Nat × Time × AgentId) :=
      if k = 0x5A17 then some (1, c.tb, w.agent)
      else match c.wdg.key with
        | some (1, t, a) => if k = 0xE8C2 && a == w.agent && c.t ≤ t.toNat + 1000000 then some (2, c.tb, w.agent) else none
        | _ => none
    (c.wdgCancel).allow (wdgAgent w.agent && !c.flag WDG_CTL.LOCK) w.agent WDG_KEY.reg fun c => c.modWdg fun d => { d with key := next }

/-- The key sequence is complete for this agent (R414). -/
def Chip.wdgUnlocked (c : Chip) (a : AgentId) : Bool :=
  match c.wdg.key with
  | some (2, t, b) => a == b && c.t ≤ t.toNat + 1000000
  | _ => false

/-- WDG_CTL takes a value (R406, R410, R414, R415); a write of EN = 0 outside a complete sequence is recorded, also where EN is 0; `unlocked` says
that the key sequence is complete for its writer. -/
def Chip.wdgTakes (c : Chip) (unlocked : Bool) (w : Cmd) : Chip :=
  let en := c.flag WDG_CTL.EN
  let locked := c.flag WDG_CTL.LOCK
  let enNew := w.value.getLsbD 30
  let off := !enNew
  let ok := off && !locked && unlocked
  let counted := c.wdgCounts
  let c := c.put WDG_CTL.WIEN (WDG_CTL.WIEN.of w.value)
  let c := if locked then c
    else
      let p := WDG_CTL.PERIOD.of w.value
      let c := ((c.put WDG_CTL.RUNONLY (WDG_CTL.RUNONLY.of w.value)).put WDG_CTL.SRC (WDG_CTL.SRC.of w.value)).put WDG_CTL.PERIOD (max p 1)
      let c := c.putB WDG_CTL.EN (enNew || (en && !ok))
      c.putB WDG_CTL.LOCK (w.value.getLsbD 31)
  let c := c.wdoNow
  let c := if c.wdgCounts == counted then c else if c.wdgCounts then c.wdgRestart else c.wdgStop
  if off && !ok then c.refuse w.agent true WDG_CTL.reg else c

/-- A write to WDG_CTL. -/
def Chip.wdgCtl (c : Chip) (w : Cmd) : Chip :=
  if c.cutOff w.agent then c.unreached
  else (c.wdgCancel).allow (wdgAgent w.agent) w.agent WDG_CTL.reg fun d => d.wdgTakes (c.wdgUnlocked w.agent) w

/-- WDI_SERVICE (R407): the filtered level of WDI changes, which is one service. -/
def execWdiService (now : Time) (s : State) : Host.Outcome State Fault Refusal := s.on fun c =>
  let c := ((c.arrive now).putB WDG_STAT.WDILVL (!c.flag WDG_STAT.WDILVL)).incWrap WDG_CNT.SVCCNT
  if c.wdg.period.isSome then c.wdgRestart else c

/-- WDG_FIRST_PERIOD_END (R408): the warning, and the second period begins at that instant. -/
def execWdgFirstPeriodEnd (now : Time) (s : State) : Host.Outcome State Fault Refusal := s.on fun c =>
  let c := c.arrive now
  match c.wdg.period with
  | none => c
  | some (t, l) =>
    if c.wdg.frozen.isSome || c.flag WDG_STAT.PHASE || c.wdgLeft != 0 then c
    else
      let c := (((c.set1 WDG_STAT.WARN).incSat WDG_CNT.WARNCNT).set1 WDG_STAT.PHASE).modWdg fun w =>
        { w with period := some (t + BitVec.ofNat 64 l, l) }
      c.degradeSys 0x0E 1 0x5B

/-- WDG_SECOND_PERIOD_END (R408): the watchdog reset is due. -/
def execWdgSecondPeriodEnd (now : Time) (s : State) : Host.Outcome State Fault Refusal := s.on fun c =>
  let c := c.arrive now
  if c.wdg.period.isNone || c.wdg.frozen.isSome || !c.flag WDG_STAT.PHASE || c.wdgLeft != 0 then c
  else c.modWdg fun w => { w with due := true }

/-- WDG_KEY_WRITE (R414). -/
def execWdgKeyWrite (w : Cmd) (s : State) : Host.Outcome State Fault Refusal := s.on fun c => (c.arrive w.now).wdgKey w
/-- WDG_CTL_WRITE (R410, R414, R415). -/
def execWdgCtlWrite (w : Cmd) (s : State) : Host.Outcome State Fault Refusal := s.on fun c => (c.arrive w.now).wdgCtl w

end Sys2Proof.Machine
end

