-- ==== Sys2Proof/Machine/RegWrite.lean ====
section
/-! DEFINITION. Writes of control registers (R4 to R10): the agents that each block admits, what a plain write stores, and the registers
whose write is a command. -/

namespace Sys2Proof.Machine

/-! ### Plain writes -/

/-- The lock that governs the RWL fields of a register is set (R10). -/
def Chip.rwlLocked (c : Chip) (a : Nat) : Bool :=
  if a = SHD_LOCK.reg then c.flag SHD_LOCK.MODELK
  else if a = HSB_ARBCFG.reg then c.flag HSB_ARBCFG.LK
  else if a = FLT_CTL.reg then c.flag FLT_CTL.LK
  else if a = WDG_SRCBIT.reg then c.flag WDG_CTL.LOCK
  else if a = UPD_CWIN.reg then c.flag UPD_CWIN.LK
  else false

/-- A register after a write of `v` under its access codes (R6): RW bits, RWL bits while the lock is clear, and W1C bits. -/
def RegRow.after (r : RegRow) (locked : Bool) (old v : Word) : Word :=
  let m := if locked then r.rw else r.rw ||| r.rwl
  ((old &&& ~~~m) ||| (v &&& m)) &&& ~~~(v &&& r.w1c)

/-- A write under the access codes alone; an offset without a register ignores it (R5). -/
def Chip.plain (c : Chip) (a : Nat) (v : Word) : Chip :=
  match regRow? a with
  | none => c
  | some r => c.wr a (r.after (c.rwlLocked a) (c.rd a) (storedAs a v))

/-- A write that the block ignores and the guard records (R314, R399). -/
def Chip.noted (c : Chip) (ag : AgentId) (a : Nat) : Chip := c.refuse ag true a

/-! ### Block by block -/

/-- MC0, MC1 and the host: the agents that most blocks admit. -/
def mcHost (a : AgentId) : Bool := isMc a || isHost a
/-- With a debug port unlocked at FULL (Table 20.4). -/
def Chip.mcHostDbg (c : Chip) (a : AgentId) : Bool := mcHost a || c.isDebug a 2

/-- SYS, R53. -/
def Chip.wrSys (c : Chip) (a : Nat) (w : Cmd) : Chip :=
  if a = SYS_CMD.reg then c.sysCmdWrite w else c.allow (c.mcHostDbg w.agent) w.agent a fun c => c.plain a w.value

/-- PWR. -/
def Chip.wrPwr (c : Chip) (a : Nat) (w : Cmd) : Chip :=
  if a = PWR_BUDGET.reg then c.budget w else c.allow (mcHost w.agent) w.agent a fun c => c.plain a w.value

/-- SCN: a write of SCN_PACECFG governs from the next window on. -/
def Chip.wrScn (c : Chip) (a : Nat) (w : Cmd) : Chip :=
  c.allow (c.mcHostDbg w.agent) w.agent a fun c =>
    if a = SCN_PACECFG.reg then
      let old := c.rd a
      let c := c.modSys fun y =>
        { y with paceOld := if c.t / 64000 = y.paceAt.toNat / 64000 && y.paceAt != 0 then y.paceOld else old, paceAt := c.tb }
      c.plain a w.value
    else c.plain a w.value

/-- SHD; SHD_TMODE under R185. -/
def Chip.wrShd (c : Chip) (a : Nat) (w : Cmd) : Chip :=
  match (List.finRange 32).find? fun (t : Fin 32) => SHD_TMODE.reg t == a with
  | some t => c.tmodeWrite t w
  | none => c.allow (c.mcHostDbg w.agent) w.agent a fun c => c.plain a w.value

/-- A command written to OLC_FCMD; code 0 is none. -/
def Chip.forceCmdWrite (c : Chip) (w : Cmd) : Chip := c.forceCmd w fun c =>
  match OLC_FCMD.CMD.of w.value with
  | 1 => c.forceSet c.forceId c.forceVal
  | 2 => c.forceClear c.forceId
  | 3 => c.forceClearAll
  | _ => c

/-- OLC; a write to OLC_FIDX makes the next reads show the selected entry. -/
def Chip.wrOlc (c : Chip) (a : Nat) (w : Cmd) : Chip :=
  if a = OLC_CMD.reg then c.olcCmdWrite w
  else if a = OLC_FCMD.reg then c.forceCmdWrite w
  else c.allow (mcHost w.agent) w.agent a fun c =>
    let c := c.plain a w.value
    c.modOlc fun o =>
      if a = OLC_FIDX.reg then { o with showId := true, showLo := true, showHi := true }
      else if a = OLC_FID.reg then { o with showId := false }
      else if a = OLC_FVALL.reg then { o with showLo := false }
      else if a = OLC_FVALH.reg then { o with showHi := false }
      else o

/-- A word of an acyclic slot (Table 8.9); until completion only its OWNER writes it (R239). -/
def Chip.wrSlot (c : Chip) (a : Nat) (r : Fin 4) (t : Fin 64) (w : Cmd) : Chip :=
  c.allow (mcHost w.agent && (c.get (acStatus r t) != 1 || c.get (acOwner r t) == w.agent.toNat)) w.agent a fun c =>
    let m : Word := match a % 0x80 / 4 with
      | 0 => 0x00FF1FFF
      | 2 | 3 => 0
      | _ => 0xFFFFFFFF
    c.wr a ((c.rd a &&& ~~~m) ||| (w.value &&& m))

/-- STN: STN_CTL.ACTO is staged to the next S(c), where 0 stores 1. -/
def Chip.wrStn (c : Chip) (a : Nat) (w : Cmd) : Chip :=
  let r : Fin 4 := Fin.ofNat 4 (a % 0x10000 / 0x4000)
  match acSlot a with
  | some (r, t) => c.wrSlot a r t w
  | none =>
    if a = STN_AQSUB.reg r then c.aqSubmit r w
    else c.allow (mcHost w.agent) w.agent a fun c =>
      let c := c.plain a w.value
      if a = STN_CTL.reg r then { c with staged := spIns a ((STN_CTL.ACTO r).atLeast 1 w.value) c.staged } else c

/-- A command written to HSB_CMD; other codes are ignored. -/
def Chip.hsbCmdWrite (c : Chip) (w : Cmd) : Chip :=
  match HSB_CMD.CMD.of w.value with
  | 1 => c.hsbCmd w (·.cmdResync)
  | 2 => c.hsbCmd w (·.cmdRsabort)
  | 3 => c.hsbCmd w (·.cmdHandover)
  | 4 => c.hsbCmd w (·.cmdLgcstart)
  | 5 => c.hsbCmd w (·.cmdLgcabort)
  | 6 => c.hsbCmd w (·.cmdArbclr)
  | _ => c.allow (mcHost w.agent) w.agent HSB_CMD.reg id

/-- HSB. -/
def Chip.wrHsb (c : Chip) (a : Nat) (w : Cmd) : Chip :=
  if a = HSB_CMD.reg then c.hsbCmdWrite w else c.allow (mcHost w.agent) w.agent a fun c => c.plain a w.value

/-- FLT; other codes than CLEAR in FLT_DMCMD are ignored. -/
def Chip.wrFlt (c : Chip) (a : Nat) (w : Cmd) : Chip :=
  if a = FLT_DMCMD.reg && FLT_DMCMD.CMD.of w.value = 1 then c.dmClear w
  else c.allow (mcHost w.agent) w.agent a fun c => if a = FLT_DMCMD.reg then c else c.plain a w.value

/-- CANn_CTL: OPMODE is staged, IEN is written, and the other fields take a write only in CONFIG (R314). -/
def Chip.canCtl (c : Chip) (n : Fin 4) (ag : AgentId) (v : Word) : Chip :=
  let a := CAN_CTL.reg n
  let old := c.rd a
  let open_ := (CAN_CTL.OPMODE n).of old = 0
  let c := c.wr a ((old &&& (if open_ then 0xFFF0008F else 0xFFF000FF)) ||| (v &&& (if open_ then 0x000FFF70 else 0x000FFF00)))
  let c := if !open_ && (old &&& 0x70) != (v &&& 0x70) then c.noted ag a else c
  c.canMode n ((CAN_CTL.OPMODE n).of v)

/-- CAN0 to CAN3. -/
def Chip.wrCan (c : Chip) (a : Nat) (w : Cmd) : Chip :=
  let n : Fin 4 := Fin.ofNat 4 (a / 0x10000 - 0x4008)
  if a = CAN_CMD.reg n then c.canCmdWrite n w
  else if a = CAN_OBJCMD.reg n then c.canObjCmdWrite n w
  else match (List.finRange 8).find? fun (f : Fin 8) => CAN_FIFOCFG.reg n f == a with
    | some f => c.fifoCfg n f w
    | none =>
      c.allow (canWriter w.agent) w.agent a fun c =>
        if a = CAN_CTL.reg n then c.canCtl n w.agent w.value
        else if (a = CAN_NBT.reg n || a = CAN_DBT.reg n || a = CAN_TDC.reg n) && c.get (CAN_CTL.OPMODE n) != 0 then c.noted w.agent a
        else c.plain a w.value

/-- MBX: each register has its own agents (ch. 12); its status bits are cleared by the agents that other blocks admit. -/
def Chip.wrMbx (c : Chip) (a : Nat) (w : Cmd) : Chip :=
  let o := a % 0x10000
  if 0x100 ≤ o && o < 0x480 then
    let k : Fin 28 := Fin.ofNat 28 ((o - 0x100) / 0x20)
    if a = MBX_CHCFG.reg k then c.chCfg k w
    else if a = MBX_CHPOST.reg k then c.chPost k w
    else if a = MBX_CHPOP.reg k then c.chPop k w
    else c.allow (c.mcHostDbg w.agent) w.agent a id
  else if 0x50 ≤ o && o < 0x60 then c.wPost (Fin.ofNat 4 ((o - 0x50) / 4)) w
  else if a = MBX_H2CSET.reg then c.allow (isHost w.agent) w.agent a fun c => c.h2cSet w.value
  else if a = MBX_H2CDB.reg then c.allow (isMc w.agent) w.agent a fun c => c.h2cClear w.value
  else if a = MBX_C2HSET.reg then c.allow (isMc w.agent) w.agent a fun c => c.c2hSet w.value
  else if a = MBX_C2HDB.reg then c.allow (isHost w.agent) w.agent a fun c => c.c2hClear w.value
  else if a = MBX_C2HMASK.reg then c.allow (isHost w.agent) w.agent a fun c => c.c2hNow (c.rd MBX_C2HDB.reg) w.value
  else if a = MBX_CTL.reg || a = MBX_H2CMASK.reg then c.allow (isMc w.agent) w.agent a fun c => c.plain a w.value
  else if a = MBX_APBASE.reg then c.allow (mcHost w.agent) w.agent a fun c => c.plain a w.value
  else c.allow (c.mcHostDbg w.agent) w.agent a fun c => c.plain a w.value

/-- REC. -/
def Chip.wrRec (c : Chip) (a : Nat) (w : Cmd) : Chip :=
  if a = REC_CMD.reg then
    match REC_CMD.CMD.of w.value with
    | 1 => c.recCmd 1 w fun c => c.drainGo true
    | 2 => c.recCmd 2 w fun c => c.closeAll 3
    | 3 => c.recCmd 3 w fun c => c.commission w.agent
    | n => c.recCmd n w fun c => c.put REC_CMDSTAT.CMDERR 2
  else if a = REC_RDSEQ.reg then c.rdseqWrite w
  else match (List.finRange 3).find? fun (k : Fin 3) => REC_POSTCODE.reg k == a || REC_POSTVAL.reg k == a with
    | some k => if a = REC_POSTCODE.reg k then c.softPost k w else c.allow (w.agent == postAgent k) w.agent a fun c => c.plain a w.value
    | none => c.allow (mcHost w.agent) w.agent a fun c => c.plain a w.value

/-- NVS; NVS_PWL and NVS_PWH hold an entry that no read shows (R390). The cell writes of increments and password changes succeed here;
the commands NVS_CNTINC and NVS_PW_CHANGE also cover their failure. -/
def Chip.wrNvs (c : Chip) (a : Nat) (w : Cmd) : Chip :=
  if a = NVS_CMD.reg then
    match NVS_CMD.CMD.of w.value with
    | 4 => c.nvsCmd 4 w fun c => c.relock w.agent
    | n => c.nvsCmd n w fun c => if 1 ≤ n && n ≤ 3 then c.nvsAccept n w else c.nvsErr 2
  else if a = NVS_CNTINC.reg then c.cntInc w
  else if a = NVS_PWSEL.reg then (if w.value.getLsbD 5 then c.pwChange w else c.pwEnter w)
  else c.allow (c.nvsWriter w.agent) w.agent a fun c => if a = NVS_PWL.reg || a = NVS_PWH.reg then c.wr a w.value else c.plain a w.value

/-- RTC_PPSCTL takes a value: with EN the discipline begins afresh (R405). -/
def Chip.ppsCtl (c : Chip) (v : Word) : Chip :=
  let on := v.getLsbD 31 && !c.flag RTC_PPSCTL.EN
  (c.plain RTC_PPSCTL.reg v).doIf on (·.modRtc fun r => { r with ppsAt := none, ppsOn := some c.tb, ppsRun := 0, slew := 0 })

/-- RTC: staged values are ignored and recorded while WPEND is 1 (R399); the trim waits for its window,
and −512 stores −511 (R400). -/
def Chip.wrRtc (c : Chip) (a : Nat) (w : Cmd) : Chip :=
  c.allow (c.rtcWriter w.agent) w.agent a fun c =>
    if a = RTC_SNAP.reg then (if w.value.getLsbD 0 then c.rtcTake else c)
    else if a = RTC_WCMD.reg then
      if RTC_WCMD.KEY.of w.value ≠ 0x7C31 then c
      else match RTC_WCMD.CMD.of w.value with
        | 1 => c.rtcArm w.value
        | 2 => c.clr RTC_STATE.WPEND
        | _ => c
    else if (a = RTC_WDATE.reg || a = RTC_WTIME.reg) && c.flag RTC_STATE.WPEND then c.noted w.agent a
    else if a = RTC_PPSCTL.reg then c.ppsCtl w.value
    else if a = RTC_TRIM.reg then { c with staged := spIns a (if w.value &&& 0x3FF = 0x200 then 0x201 else w.value &&& 0x3FF) c.staged }
    else c.plain a w.value

/-- WDG: any write but those of the key sequence cancels it (R414). -/
def Chip.wrWdg (c : Chip) (a : Nat) (w : Cmd) : Chip :=
  if a = WDG_KEY.reg then c.wdgKey w
  else if a = WDG_CTL.reg then c.wdgCtl w
  else (c.wdgCancel).allow (wdgAgent w.agent) w.agent a fun c =>
    if a = WDG_SRCBIT.reg && !qBitOk w.value then c
    else
      let c := c.plain a w.value
      if a = WDG_WDO.reg then c.wdoNow else c

/-- The registers of the mimic engine that take a write only while EN is 0. -/
def mimFixed (a : Nat) : Bool :=
  a ∈ [MIM_TIM0.reg, MIM_TIM1.reg, MIM_THR0.reg, MIM_THR1.reg, MIM_CONTR0.reg, MIM_CONTR1.reg]

/-- MIM. -/
def Chip.wrMim (c : Chip) (a : Nat) (w : Cmd) : Chip :=
  if a = MIM_CTL.reg then c.mimCtl w
  else if a = MIM_OVCMD.reg then c.ovCmdWrite w
  else c.allow (mimWriter w.agent) w.agent a fun c =>
    if a = MIM_STAT.reg then c.mimStatClear w.value
    else if mimFixed a && c.flag MIM_CTL.EN then c
    else c.plain a w.value

/-- UPD. -/
def Chip.wrUpd (c : Chip) (a : Nat) (w : Cmd) : Chip :=
  if a = UPD_CMD.reg then c.updCmdWrite w
  else if a = UPD_CONFIRM.reg then c.updConfirmWrite w
  else c.allow (updWriter w.agent) w.agent a fun c => c.plain a w.value

/-- GRD: GRD_RADDR and GRD_AGD are banked per agent (R478). -/
def Chip.wrGrd (c : Chip) (a : Nat) (w : Cmd) : Chip :=
  if a = GRD_CMD.reg then
    match GRD_CMD.CMD.of w.value with
    | 1 => c.grdCmd w Chip.grdPropose
    | 2 => c.grdCmd w Chip.grdAgree
    | 3 => c.grdCmd w Chip.grdWithdraw
    | 4 => c.grdCmd w Chip.grdLockdbg
    | _ => c.grdCmd w fun c ag => c.grdErr ag 2
  else c.allow (grdAgent w.agent) w.agent a fun c =>
    if a = GRD_RADDR.reg then c.modGrd fun g => { g with raddr := spSet 0 w.agent.toNat w.value g.raddr }
    else if GRD_AGD.reg 0 ≤ a && a ≤ GRD_AGD.reg 7 then
      c.modGrd fun g => { g with agd := spSet 0 (8 * w.agent.toNat + (a - GRD_AGD.reg 0) / 4) w.value g.agd }
    else c.plain a w.value

/-- An aligned 32-bit write to the control-register range. -/
def Chip.regWrite (c : Chip) (a : Nat) (w : Cmd) : Chip :=
  let w := Cmd.kept w a
  if w.agent = 0x41 && c.get GRD_DBG.DBGST = 0 && a / 0x10000 ≠ 0x4013 then (c.refuse w.agent true a).denied w.agent 0
  else match a / 0x10000 with
    | 0x4000 => c.wrSys a w
    | 0x4001 => c.wrPwr a w
    | 0x4002 => c.wrScn a w
    | 0x4003 => c.wrShd a w
    | 0x4004 => c.wrOlc a w
    | 0x4005 => c.wrStn a w
    | 0x4006 => c.wrHsb a w
    | 0x4007 => c.wrFlt a w
    | 0x4008 | 0x4009 | 0x400A | 0x400B => c.wrCan a w
    | 0x400C => c.wrMbx a w
    | 0x400D => c.wrRec a w
    | 0x400E => c.wrNvs a w
    | 0x400F => c.wrRtc a w
    | 0x4010 => c.wrWdg a w
    | 0x4011 => c.wrMim a w
    | 0x4012 => c.wrUpd a w
    | _ => c.wrGrd a w

end Sys2Proof.Machine
end

