-- ==== Sys2Proof/Machine/Bus.lean ====
section
/-! DEFINITION. Accesses by agents to the system address map (R21 to R25): routing, the fixed rules of the blocks that own memory (R471),
the partition rule, and the access itself. A scan engine's own program uses Spaces.lean. -/

namespace Sys2Proof.Machine

/-- The object of CAN message memory that holds an address (R22, R315). -/
def canObjOf (a : Nat) : Fin 4 × Nat :=
  let o := a - 0x3A000000
  (Fin.ofNat 4 (o / 0x6000), o % 0x6000 / 0x60)

/-- The fixed rule of the block that owns the byte at `a` (R471): working I and Q bits, which host and mimic never read (R15) and, DESIGN CHOICE of
log entry 152, never write, images and ledgers (Table 5.3), shadow half (R162), shadow complements
(R23), journals (R171), frame memory (R422), recorder buffer (Table 13.7), CAN message memory (R315), parameter store (R377, R389),
and the debug port's scope (Table 20.4). -/
def Chip.fixedOk (c : Chip) (ag : AgentId) (write : Bool) (a : Nat) : Bool :=
  let full := c.isDebug ag 2
  let debug := if write then full else c.isDebug ag 1
  let mcHostD := mcHost ag || debug
  (ag != 0x41 || debug) &&
  !c.loadBars ag a &&
  (guardGroup ag != some 3 || inEngine write a) &&
  (if a < 0x20000000 then true
   else if a < 0x20300000 then true
   else if a < 0x28000000 then !write || full
   else if a < 0x28000000 + 0x4000 then !isHost ag && ag != 0x58
   else if a < 0x28140000 then true
   else if a < 0x2C000000 then full
   else if a < 0x2C014000 then !write && (mcHostD || ag == 0x58)
   else if a < 0x2C050000 then false
   else if a < 0x2C070000 then !write && (isMc ag || debug)
   else if a < 0x30000000 then false
   else if a < 0x302EE000 then full || ag == 0x58 || (!write && mcHostD)
   else if a < 0x34000000 then full || ag == 0x58
   else if a < 0x38000000 then full
   else if a < 0x39000000 then true
   else if a < 0x39008000 then !write && mcHostD
   else if a < 0x3A000000 then debug || ag == 0x5C
   else if a < 0x3B000000 then
     mcHostD && !(write && (let (n, k) := canObjOf a
       c.objFlag n k 0 && c.txst n k == 1))
   else if inNvs a then !write && mcHostD && c.pwOpen ag (nvsPart (a - 0x60000000)) false
   else true)

/-- The guard checks the SRAM regions, the parameter store window and the xSPI window (R471). -/
def Chip.partOk (c : Chip) (ag : AgentId) (write : Bool) (a : Nat) : Bool := inRom a || c.admitsByte ag write a

/-- A bit of the system and status area as its byte view shows it (R23, R64): those of Table 3.6 that do not depend on a reading task. -/
def Chip.statusBitAt (c : Chip) (n : Nat) : Bool :=
  if n = 1 then c.sys.warm
  else if n = 4 then c.olc.forces.any (·.cur.isSome)
  else if n = 5 then c.pairMember
  else if n = 6 then c.flag HSB_STATE.LOCKED
  else if n = 7 then !c.flag RTC_STATE.TIMEINV
  else if 0x100 ≤ n && n < 0x180 then (c.rd (STN_DROP.reg (Fin.ofNat 4 ((n - 0x100) / 32)))).getLsbD (n % 32)
  else if 0x200 ≤ n && n < 0x280 then (c.rd (STN_DIAGB.reg ((n - 0x200) / 32))).getLsbD (n % 32)
  else if 0x300 ≤ n && n < 0x320 then (c.task (Fin.ofNat 32 (n - 0x300))).overrun
  else false

/-- A byte of the system and status area; FIRST_SCAN, TASK_PAIRED and PACE_WARN are the reading task's, and free to any other reader
(log entry 77). -/
def Chip.statusByte (c : Chip) (i : Nat) : Byte :=
  let v : Byte := (List.range 8).foldl (fun (b : Byte) j => if c.statusBitAt (8 * i + j) then b ||| ((1 : Byte) <<< j) else b) 0
  if i = 0 then v ||| (Config.freeByte c.free &&& 0x0D) else v

/-- The byte at `a` as an admitted read delivers it; none where the spec gives the layout no meaning: journals, the accumulators of the recorder, and an
empty slot of its queue. -/
def Chip.busByte (c : Chip) (a : Nat) : Option Byte :=
  if inRom a then some (Config.romByte a)
  else if 0x28004000 ≤ a && a < 0x28006000 then some (c.statusByte (a - 0x28004000))
  else if 0x34000000 ≤ a && a < 0x34090000 then none
  else if 0x39008000 ≤ a && a < 0x39010000 then none
  else if 0x39010000 ≤ a && a < 0x39020000 then
    (c.rcd.queue.find? fun q => q.seq % 1024 == (a - 0x39010000) / 64).bind fun q => (bytesOfWords q.words)[(a - 0x39010000) % 64]?
  else if 0x6006A000 ≤ a && a < 0x60070000 then some 0
  else some (c.ldB a)

/-- A refused access, or one that breaks R4 or R333, and how it was refused. -/
inductive Bar where
  /-- no range of Table 1.3 holds the address (R24) -/
  | unmapped
  /-- not one aligned 32-bit word, or above the payload of the host port (R4, R333) -/
  | shape
  | fixed
  | partition
deriving DecidableEq, Repr

/-- Why an access of `n` bytes is barred, if it is. -/
def Chip.barred (c : Chip) (ag : AgentId) (write : Bool) (a n : Nat) : Option Bar :=
  let all (f : Nat → Bool) : Bool := (List.range n).all fun i => f (a + i)
  if (inRegs a || (isHost ag && !inHost a)) && !(n == 4 && a % 4 == 0) then some .shape
  else if isHost ag && 256 < n then some .shape
  else if !all inMap then some .unmapped
  else if inRegs a then (if c.loadBars ag a then some .fixed else none)
  else if !all (c.fixedOk ag write) then some .fixed
  else if !all (c.partOk ag write) then some .partition
  else none

/-- A barred access completes, and the guard records it (R4, R24, R333). -/
def Chip.bar (c : Chip) (ag : AgentId) (write : Bool) (a n : Nat) (b : Bar) : Chip :=
  let k := if write then 0 else n
  match b with
  | .shape => (c.refuse ag write a).answer (List.replicate k 0)
  | .unmapped => (c.recordRefusal ag write a false none).denied ag k
  | .fixed => (c.refuse ag write a).denied ag k
  | .partition => (c.refusePart ag write a n).denied ag k

/-- The aligned 8-byte words of SRAM that an access touches. -/
def wordsOf (a n : Nat) : List Nat := ((List.range n).map fun i => (a + i) / 8).dedup.filter fun w => (sramArray (8 * w)).isSome

/-- The access takes in a byte of the system and status area. -/
def inStatus (a n : Nat) : Bool := a < 0x28006000 && 0x28004000 < a + n

/-- The access takes in a DC-balance accumulator, which follows the rows sent so far (R422, R430). -/
def inBalance (a n : Nat) : Bool := a < 0x30465000 && 0x302EE000 < a + n

/-- A read of `n` bytes by an agent (R24, R299, R303, and R375 in the window of the parameter store). -/
def Chip.busRead (c : Chip) (ag : AgentId) (a n : Nat) (ecc : Ecc) : Chip :=
  if c.cutOff ag then c.unreached
  else match c.barred ag false a n with
  | some b => c.bar ag false a n b
  | none =>
    if inRegs a then c.regRead ag a
    else
      let l := wordsOf a n
      let c := c.doIf (inBalance a n) (·.mimUpToNow)
      let c := if ecc == .corrected && !l.isEmpty then c.eccNote a ag.toNat else c
      if !l.isEmpty && (ecc == .uncorrectable || l.any c.flt.poison.contains) then (c.incSat FLT_ECC.UNCCNT).denied ag n
      else
        let c := if !inNvs a then c else (if ecc == .uncorrectable then c.cells ⟨[cellOf a], []⟩ else c).noteCells a n
        let bytes := (List.range n).map fun i => c.busByte (a + i)
        let v := bytes.zipIdx.map fun b => b.1.getD (Config.freeByte (c.free + b.2))
        { c with free := if bytes.any (·.isNone) || inStatus a n then c.free + n else c.free }.answer v

/-- A byte is written: in an occupied slot of the record queue the record takes it, and where the memory is not kept as bytes, or
shows status as the byte view of R23 does, it is lost, whoever writes (DESIGN CHOICE, log entry 77). -/
def Chip.busPut (c : Chip) (a : Nat) (b : Byte) : Chip :=
  if 0x39010000 ≤ a && a < 0x39020000 then
    let o := a - 0x39010000
    { c with rcd := { c.rcd with queue := c.rcd.queue.map fun q =>
        if q.seq % 1024 = o / 64 then { q with words := q.words.set (o % 64 / 4) (wordByte (q.words.getD (o % 64 / 4) 0) (o % 4) b) } else q } }
  else if (c.busByte a).isNone || inRom a || inStatus a 1 then c
  else c.stB a b

/-- The bytes written take effect: those of the active code half in the staging half (R15, R22). A word written whole ends its poison
(R303). -/
def Chip.busStore (c : Chip) (a : Nat) (l : List Byte) : Chip :=
  let a := if 0x10000000 ≤ a && a < 0x10300000 then a + 0x300000 else a
  let c := c.forIn l.zipIdx fun b c => c.busPut (a + b.2) b.1
  c.clean a l.length

/-- A write of bytes by an agent. -/
def Chip.busWrite (c : Chip) (ag : AgentId) (a : Nat) (l : List Byte) (sets : Word := 0) : Chip :=
  if c.cutOff ag then c.unreached
  else
    let c := c.hostWake ag
    match c.barred ag true a l.length with
    | some b => c.bar ag true a l.length b
    | none =>
      if inRegs a then c.regWrite a ⟨ag, wordOf l, false, sets, c.tb⟩
      else ((c.doIf (inBalance a l.length) (·.mimUpToNow)).busStore a l).answer []

/-! ### The host port -/

/-- The BAR0 offsets of the aperture (Table 12.2). -/
def inAperture (a : Nat) : Bool := 0x4000 ≤ a && a < 0x8000

/-- Where an offset into a BAR leads in the system map (R332), if it leads there. -/
def Chip.barAddr (c : Chip) (via : Via) (a : Nat) : Option Nat :=
  match via with
  | .bus => some a
  | .bar2 => some (0x38000000 + a)
  | .bar0 =>
    if a < 0x1000 then some (0x400C0000 + a)
    else if inAperture a then some (((c.rd MBX_APBASE.reg).toNat + (a - 0x4000)) % 2 ^ 32)
    else none
  | .cfg => none

/-- The endpoint takes no such access (R333): through BAR0 only one aligned word, through BAR2 at most 256 bytes inside it; configuration
requests lie in one word. -/
def viaShape (via : Via) (a n : Nat) : Bool :=
  match via with
  | .bus => true
  | .bar0 => n == 4 && a % 4 == 0 && a < 0x10000
  | .bar2 => 1 ≤ n && n ≤ 256 && a + n ≤ 0x80000
  | .cfg => 1 ≤ n && a % 4 + n ≤ 4 && a < 0x1000

/-- In LOAD the aperture reaches only SYS, UPD and the xSPI window (R334). -/
def Chip.apertureBars (c : Chip) (via : Via) (a b : Nat) : Bool :=
  via == .bar0 && inAperture a && c.mode == mLOAD && !(inXspi b || b / 0x10000 ∈ [0x4000, 0x4012])

/-- A read by the path that it takes (R330 to R334). A BAR0 offset that leads nowhere shows the MSI-X table, the pending bits, or 0. -/
def Chip.viaRead (c : Chip) (ag : AgentId) (via : Via) (a n : Nat) (ecc : Ecc) : Chip :=
  if via == .bus then c.busRead ag a n ecc
  else if via == .cfg then if c.pins.refclk && viaShape via a n then c.cfgRead a n else c
  else if c.cutOff ag then c.unreached
  else if !viaShape via a n then c.bar ag false ((c.barAddr via a).getD a) n .shape
  else match c.barAddr via a with
    | some b => if c.apertureBars via a b then c.bar ag false b n .fixed else c.busRead ag b n ecc
    | none => c.answerW (c.bar0Word a)

/-- A write by the path that it takes. -/
def Chip.viaWrite (c : Chip) (ag : AgentId) (via : Via) (a : Nat) (l : List Byte) (sets : Word := 0) : Chip :=
  if via == .bus then c.busWrite ag a l sets
  else if via == .cfg then if c.pins.refclk && viaShape via a l.length then (c.cfgWrite a l).answer [] else c
  else if c.cutOff ag then c.unreached
  else if !viaShape via a l.length then (c.hostWake ag).bar ag true ((c.barAddr via a).getD a) l.length .shape
  else match c.barAddr via a with
    | some b => if c.apertureBars via a b then (c.hostWake ag).bar ag true b l.length .fixed else c.busWrite ag b l sets
    | none => ((c.hostWake ag).bar0Put a (wordOf l)).answer []

/-! ### Commands -/

/-- REGISTER_WRITE (R4 to R7): an access to the control-register range, writes and reads alike. -/
def execRegisterWrite (r : RegAccess) (s : State) : Host.Outcome State Fault Refusal := s.on fun c =>
  let c := c.arrive r.now
  if r.write then c.viaWrite r.agent r.via r.addr.toNat ((List.range r.size).map fun i => (r.value >>> (8 * i)).setWidth 8) r.sets
  else c.viaRead r.agent r.via r.addr.toNat r.size .ok

/-- AGENT_MEMORY_ACCESS (R24, R330 to R334, R471). -/
def execAgentMemoryAccess (m : MemAccess) (s : State) : Host.Outcome State Fault Refusal := s.on fun c =>
  let c := c.arrive m.now
  if m.write then c.viaWrite m.agent m.via m.addr.toNat m.data m.sets else c.viaRead m.agent m.via m.addr.toNat m.len m.ecc

end Sys2Proof.Machine
end

