-- ==== Sys2Proof/Machine/CoreIssue.lean ====
section
/-! DEFINITION. The Kazhin-M profile (R87 to R92, R120, R121): the issue of one instruction by a management core over the system map,
exceptions and interrupts through the vector table, special registers, and WFI. -/

namespace Sys2Proof.Machine

/-- The agent ID of a core. -/
def coreAgent (m : Fin 2) : AgentId := BitVec.ofNat 8 (m.val + 1)

/-! ### Interrupt lines (Table 3.11) -/

/-- A status register, its enables from bit `lo` of another register, and the bits that reach the line. -/
def Chip.irq (c : Chip) (stat ctl lo : Nat) (mask : Word) : Bool := c.rd stat &&& (c.rd ctl >>> lo) &&& mask != 0

/-- Line 21 (R349). -/
def Chip.wordLine (c : Chip) : Bool :=
  c.irq MBX_STAT.reg MBX_CTL.reg 8 0xFF ||
    (List.finRange 4).any fun k => c.bitOf MBX_CTL.WIEN k && c.get (MBX_WCFG.RDCLS k) == 1 && c.flag (MBX_WINFO.FULL k)

/-- Whether interrupt line `i` is asserted; lines 24 and 44 to 63 never are. -/
def Chip.line (c : Chip) (i : Nat) : Bool :=
  match i with
  | 16 | 17 | 18 | 19 => c.irq (CAN_STAT.reg (i - 16)) (CAN_CTL.reg (i - 16)) 8 0xFFF
  | 20 => c.rd MBX_H2CDB.reg &&& ~~~(c.rd MBX_H2CMASK.reg) != 0
  | 21 => c.wordLine
  | 22 => c.irq REC_STAT.reg REC_CTL.reg 0 0x1FF
  | 23 => c.irq MIM_STAT.reg MIM_CTL.reg 0 0x3FF
  | 25 => c.irq FLT_STAT.reg FLT_CTL.reg 0 0x3FFF
  | 26 => c.irq UPD_STAT.reg UPD_CTL.reg 0 0x1FF
  | 27 => c.irq GRD_STAT.reg GRD_CTL.reg 0 0x3F
  | 28 => c.irq NVS_STAT.reg NVS_CTL.reg 0 0x1FF
  | 29 => c.irq RTC_STAT.reg RTC_CTL.reg 0 0x01
  | 30 => c.irq RTC_STAT.reg RTC_CTL.reg 0 0x7C
  | 31 => c.irq PWR_STAT.reg PWR_CTL.reg 0 0xFF
  | 32 => c.flushing
  | 33 => c.irq HSB_STAT.reg HSB_CTL.reg 0 0x1FFF
  | 34 | 35 | 36 | 37 => c.irq (STN_STAT.reg (i - 34)) (STN_CTL.reg (i - 34)) 0 0xFF
  | 38 => c.irq SCN_STAT.reg SCN_CTL.reg 0 0x3F
  | 39 => c.irq OLC_STAT.reg OLC_CTL.reg 0 0x7F
  | 40 => c.irq SHD_STAT.reg SHD_CTL.reg 0 0x7F
  | 41 => c.sys.modeLine
  | 42 => c.irq RTC_STAT.reg RTC_CTL.reg 0 0x02
  | 43 => c.flag WDG_STAT.WARN && c.flag WDG_CTL.WIEN
  | _ => false

/-- IPEND_HI:IPEND_LO (R88). -/
def Chip.ipend (c : Chip) : Long := BitVec.ofNat 64 ((List.range 64).foldr (fun i n => 2 * n + (c.line i).toNat) 0)

/-- The lowest enabled line that is pending (R90). -/
def Chip.irqOf (c : Chip) (m : Fin 2) : Option Nat := (List.range 64).find? fun i => (c.core m).ien.getLsbD i && c.line i

/-! ### Entries and returns -/

/-- The core can issue: the boot ROM has handed it over, and no test, stop, retirement or halt holds it. -/
def Chip.coreRuns (c : Chip) (m : Fin 2) : Bool :=
  c.sys.booted && !c.sys.loadHalt && (c.get (coreFld m) == 0 || c.get (coreFld m) == 2) && !(c.core m).stopped && (!(c.core m).halted || (c.core m).step)

/-- MST. -/
def mst (ie xh : Bool) : Word := BitVec.ofNat 32 (ie.toNat + 2 * xh.toNat)

/-- A core stops issuing (R91). -/
def Chip.coreHalt (c : Chip) (m : Fin 2) : Chip := (c.coreStop m).updStopped m

/-- Entry through vector `v` (R89): an entry is pushed, IE clears, XH sets for an exception, and control goes to the handler. A core whose
return stack is full stops (R91). -/
def Chip.vector (c : Chip) (m : Fin 2) (v : Nat) (exc : Bool) : Chip :=
  let k := c.core m
  if 256 ≤ k.stack.length then c.coreHalt m
  else
    let c := c.busRead (coreAgent m) (k.vb.toNat + 4 * v) 4 .ok
    let pc : Word := BitVec.ofNat 32 (c.resp.data.foldr (fun b n => b.toNat + 256 * n) 0)
    c.modCore m fun k =>
      { k with stack := retEntry k.ctx k.ctx.pc :: k.stack, mst := mst false (exc || k.mst.getLsbD 1), inBlock := false, waiting := false,
               ctx := { k.ctx with pc := pc } }

/-- An exception on a core (R89, R91). -/
def Chip.coreExc (c : Chip) (m : Fin 2) (code : Nat) : Chip :=
  if (c.core m).mst.getLsbD 1 then c.coreHalt m else c.vector m code true

/-! ### What a core sees -/

/-- A read that the instruction has asked for: address, size and answer. -/
structure Got where
  addr : Word
  size : Nat
  val : Except Exc Long

/-- An answered read, or the wish for it, coded as an exception above every code of Table 3.8. -/
def gotRead (known : List Got) (a : Word) (n : Nat) : Except Exc Long :=
  if a.toNat % n ≠ 0 then .error ⟨0x03, a, none⟩
  else match known.find? fun g => g.addr == a && g.size == n with
    | some g => g.val
    | none => .error ⟨0x100 + n, a, none⟩

/-- The check of a write: alignment, and a refusal by the guard or the block. -/
def Chip.coreCk (c : Chip) (m : Fin 2) (a : Word) (n : Nat) : Option Exc :=
  if a.toNat % n ≠ 0 then some ⟨0x03, a, none⟩
  else excIf (c.busWrite (coreAgent m) a.toNat (List.replicate n 0)).resp.error 0x04 a

/-- The byte that holds a bit (R23). -/
def bitByte (b : Nat) : Word := BitVec.ofNat 32 (0x28000000 + b / 8)

/-- What the instruction sees on core `m`: a core has no stack limits, its return stack starts empty, and timers read TB (R87). -/
def Chip.kinMc (c : Chip) (m : Fin 2) (known : List Got) (o : Op) : KIn :=
  let k := c.core m
  { core := true, am := o.am, opd := o.opd, ext := o.ext, x := k.ctx, rsp := k.stack.length, depth := 0, top := k.stack.head?, ts := c.tb,
    floor := 0, ceil := 2 ^ 32, fresh := !k.inBlock,
    rd := gotRead known,
    ck := c.coreCk m,
    img := fun _ _ => .error ⟨0x01, 0, none⟩,
    ckImg := fun _ _ => some ⟨0x01, 0, none⟩,
    bit := fun b => (gotRead known (bitByte b) 1).map (·.getLsbD (b % 8)),
    ckBit := fun b => c.coreCk m (bitByte b) 1 }

/-- The instruction's reads are made one by one, in the order in which it asks for them, until it has its result; `n` bounds them. -/
def Chip.coreSem (m : Fin 2) (o : Op) (sem : Sem) : Nat → List Got → Chip → Except Exc KOut × List Got × Chip
  | 0, known, c => (.error ⟨0x04, 0, none⟩, known, c)
  | n + 1, known, c =>
    match sem (c.kinMc m known o) with
    | .ok out => (.ok out, known, c)
    | .error e =>
      if e.code < 0x100 then (.error e, known, c)
      else
        let size := e.code - 0x100
        let d := c.busRead (coreAgent m) e.addr.toNat size (if known.isEmpty then o.ecc else .ok)
        let val : Except Exc Long :=
          if !d.resp.error then .ok (BitVec.ofNat 64 (d.resp.data.foldr (fun b n => b.toNat + 256 * n) 0))
          else .error ⟨if (c.barred (coreAgent m) false e.addr.toNat size).isNone && !inRegs e.addr.toNat then 0x0B else 0x04, e.addr, none⟩
        Chip.coreSem m o sem n (known ++ [⟨e.addr, size, val⟩]) d

/-- An instruction raises an exception: it has no effect (R80), but the guard keeps the record of a refused access. -/
def Chip.coreRaise (c : Chip) (m : Fin 2) (known : List Got) (e : Exc) : Chip :=
  let c :=
    if e.code ≠ 0x04 then c
    else
      let ag := coreAgent m
      let d := match known.find? fun g => g.addr == e.addr && (excOf g.val).isSome with
        | some g => c.busRead ag g.addr.toNat g.size .ok
        | none => c.busWrite ag e.addr.toNat (List.replicate (if inRegs e.addr.toNat then 4 else 1) 0)
      if d.resp.error then d else c
  (if e.code = 0x0B then c.incSat FLT_ECC.UNCCNT else c).coreExc m e.code

/-- A core's store; `sets` are the W1C bits that hardware sets in the same handshake in the register that it reaches (R7). -/
def Chip.coreStore (c : Chip) (m : Fin 2) (sets : Word) (s : KStore) : Chip :=
  match s.space with
  | .bit =>
    let a := (bitByte s.addr).toNat
    let b := (1 : Byte) <<< (s.addr % 8)
    c.busWrite (coreAgent m) a [if s.val.getLsbD 0 then c.ldB a ||| b else c.ldB a &&& ~~~b]
  | _ => c.busWrite (coreAgent m) s.addr ((List.range s.size).map fun i => (s.val >>> (8 * i)).setWidth 8) sets

/-- The result of an instruction takes effect; a store that a block refuses only now raises 0x04 in its place. -/
def Chip.coreRetire (c : Chip) (m : Fin 2) (ext : Bool) (sets : Word) (out : KOut) : Chip :=
  let k := c.core m
  let ret : Word := k.ctx.pc + (if ext then 8 else 4)
  let d := c.modCore m fun k =>
    { k with stack := stackAfter out k.ctx ret k.stack, ctx := nextPc out k.ctx.pc ext, inBlock := out.next = .stay }
  if out.stores.isEmpty then d
  else
    let d := d.forIn out.stores fun s d => d.coreStore m sets s
    if d.resp.error then (d.modCore m fun _ => k).coreExc m 0x04 else d

/-! ### Issue -/

/-- Fetch and decode on a core: an encoding reserved to it raises 0x01, a fetch that is refused 0x04 (R24, R87, R95). -/
def Chip.coreFetch (c : Chip) (m : Fin 2) (opc : Nat) (o : Op) : Option Exc :=
  let pc := (c.core m).ctx.pc
  let ok (a : Word) : Bool := (c.barred (coreAgent m) false a.toNat 4).isNone
  let h := hasExt opc o.am
  if !ok pc then some ⟨0x04, pc, none⟩
  else if isReserved true opc o.am o.opd (if h then o.ext else 0) then some ⟨0x01, 0, none⟩
  else if h && !ok (pc + 4) then some ⟨0x04, pc + 4, none⟩
  else none

/-- ECC corrects the read of the instruction's own word (R299). -/
def Chip.coreWord (c : Chip) (m : Fin 2) (o : Op) : Chip :=
  if o.ecc == .corrected then c.eccNote (c.core m).ctx.pc.toNat (coreAgent m).toNat else c

/-- The instruction's own word is uncorrectable (R299). -/
def Chip.coreUnc (c : Chip) (m : Fin 2) : Chip := (c.incSat FLT_ECC.UNCCNT).coreExc m 0x0B

/-- The read of an instruction word whose instruction reads nothing else (R299): an uncorrectable one raises 0x0B where the instruction raises no
lower cause `ex` of its own (R81), a corrected one is told. -/
def Chip.coreFetched (c : Chip) (m : Fin 2) (o : Op) (ex : Option Nat) (f : Chip → Chip) : Chip :=
  match ex with
  | some e => (c.coreWord m o).coreExc m e
  | none => if o.ecc == .uncorrectable then c.coreUnc m else f (c.coreWord m o)

/-- A core issues: a restart ends with its first instruction (R467), and the step of a halted core is used (R481). -/
def Chip.coreStarts (c : Chip) (m : Fin 2) : Chip :=
  (c.doIf (c.get (coreFld m) = 2) (·.put (coreFld m) 0)).doIf (c.core m).step (·.modCore m fun k => { k with step := false })

/-- The frame of an issue on a core: fetch, decode and condition (R59); `f` does the instruction's own work. -/
def Chip.coreIssue (c : Chip) (m : Fin 2) (opc : Nat) (o : Op) (f : Chip → Chip) : Chip :=
  if !c.coreRuns m || (c.core m).waiting then c
  else
    let c := c.coreStarts m
    match c.coreFetch m opc o with
    | some e =>
      let c := if e.code = 0x04 && e.addr == (c.core m).ctx.pc then c else c.coreWord m o
      (if e.code = 0x04 then c.busRead (coreAgent m) e.addr.toNat 4 .ok else c).coreExc m e.code
    | none =>
      let x := (c.core m).ctx
      if condHolds o.cond x.flg x.ba then f c
      else c.coreFetched m o none fun c => c.modCore m fun k => { k with ctx := { k.ctx with pc := k.ctx.pc + (if hasExt opc o.am then 8 else 4) } }

/-- What ECC corrects where the instruction raises an exception (R299): its first read, or its own word. -/
def Chip.coreNotes (c : Chip) (m : Fin 2) (o : Op) (known : List Got) : Chip :=
  match known.head? with
  | none => c.coreWord m o
  | some g =>
    if o.ecc == .corrected && (c.barred (coreAgent m) false g.addr.toNat g.size).isNone then c.eccNote g.addr.toNat (coreAgent m).toNat else c

/-- The issue of an instruction with meaning `sem` by a core. -/
def Chip.issueMc (c : Chip) (m : Fin 2) (opc : Nat) (o : Op) (sem : Sem) : Chip :=
  c.coreIssue m opc o fun c =>
    match Chip.coreSem m o sem 12 [] c with
    | (.error e, known, _) => (c.coreNotes m o known).coreRaise m known e
    | (.ok out, known, d) =>
      if known.isEmpty && o.ecc == .uncorrectable then c.coreUnc m
      else
        let d := if known.isEmpty then d.coreWord m o else d
        d.coreRetire m (hasExt opc o.am) o.sets out

/-- An instruction with meaning `sem`, on the engine or core that issues it. -/
def Chip.issue (c : Chip) (opc : Nat) (o : Op) (sem : Sem) : Chip :=
  let c := c.arrive o.now
  match o.x with
  | .le e => c.issueLe e opc o sem
  | .mc m => c.issueMc m opc o sem

/-! ### Instructions of their own on a core -/

/-- LDG on a core: the source is read directly (Table 3.10); bits that belong to a task have no value here. -/
def Chip.ldgMc (c : Chip) (m : Fin 2) (o : Op) : Chip :=
  c.coreIssue m 0x5E o fun c =>
    let src := o.opd.toNat / 2 ^ 14
    let sel := o.opd.toNat % 2 ^ 14
    let r : Except Exc (Long × Bool × Chip) :=
      if src = 4 then
        let own := sel = 0 || sel = 2 || sel = 3
        let v := Config.freeLong c.free
        let drop : Bool := (c.rd (STN_DROP.reg ((sel - 0x100) / 32))).getLsbD (sel % 32)
        .ok (0, if own then v.getLsbD 0 else if 0x100 ≤ sel && sel < 0x180 then drop else c.statusBit 0 sel,
          if own then { c with free := c.free + 1 } else c)
      else c.ldgRead 0 src sel
    c.coreFetched m o ((excOf r).map (·.code)) fun d =>
      match r with
      | .error _ => d
      | .ok (v, ba, c) => (c.coreWord m o).coreRetire m false o.sets
          { x := ldgCtx (c.core m).ctx src v ba, steps := 4 }

/-- ENDT on a core raises 0x01 (R112). -/
def Chip.endtMc (c : Chip) (m : Fin 2) (o : Op) : Chip := c.coreIssue m 0x57 o fun c => (c.coreWord m o).coreExc m 0x01

/-- RETI (R89): the entry is popped with PC, IB, FLG and BA; IE sets and XH clears. With nothing to pop it underflows as RET does. -/
def Chip.retiMc (c : Chip) (m : Fin 2) (o : Op) : Chip :=
  c.coreIssue m 0x79 o fun c =>
    match (c.core m).stack with
    | [] => (c.coreWord m o).coreExc m 0x08
    | e :: l => c.coreFetched m o none fun c => c.modCore m fun k =>
      { k with stack := l, mst := mst true false, inBlock := false,
               ctx := { k.ctx with pc := e.pc, ibD := e.ibD, ibB := e.ibB, flg := e.flg, ba := e.ba } }

/-- A special register (R120). -/
def Chip.special (c : Chip) (m : Fin 2) (n : Nat) : Word :=
  let k := c.core m
  match n with
  | 0 => k.mst
  | 1 => k.vb
  | 2 => k.ien.setWidth 32
  | 3 => k.ien.extractLsb' 32 32
  | 4 => c.ipend.setWidth 32
  | _ => c.ipend.extractLsb' 32 32

/-- VB must be a multiple of 256 in management memory or boot ROM (R88, R120). -/
def vbExc (v : Word) : Option Nat :=
  if v.toNat % 256 ≠ 0 then some 0x03
  else if inRom v.toNat || (0x3C000000 ≤ v.toNat && v.toNat < 0x3C0A0000) then none
  else some 0x04

/-- A special register written (R120). -/
def Core.write (k : Core) (n : Nat) (v : Word) : Core :=
  match n with
  | 0 => { k with mst := v &&& 3 }
  | 1 => { k with vb := v }
  | 2 => { k with ien := k.ien.extractLsb' 32 32 ++ v }
  | _ => { k with ien := v ++ k.ien.setWidth 32 }

/-- MOVS (R120). -/
def Chip.movsMc (c : Chip) (m : Fin 2) (o : Op) : Chip :=
  c.coreIssue m 0x78 o fun c =>
    let n := o.opd.toNat % 16
    let x := (c.core m).ctx
    let next : Word := x.pc + 4
    if o.opd.getLsbD 4 then
      c.coreFetched m o (if n = 1 then vbExc x.acc else none) fun c =>
        c.modCore m fun k => { k.write n x.acc with ctx := { x with pc := next } }
    else c.coreFetched m o none fun c =>
      let v := c.special m n
      c.modCore m fun k => { k with ctx := { x with acc := v, pc := next } }

/-- WFI (R121): it ends at once when an enabled line is pending, and waits otherwise. -/
def Chip.wfiMc (c : Chip) (m : Fin 2) (o : Op) : Chip :=
  c.coreIssue m 0x7A o fun c => c.coreFetched m o none fun c =>
    let w := (c.irqOf m).isNone
    c.modCore m fun k => { k with waiting := w, ctx := { k.ctx with pc := k.ctx.pc + 4 } }

/-! ### Commands -/

/-- NOP, as every instruction whose work is none. -/
def semNop : Sem := fun k => .ok { x := k.x, steps := 1 }

/-- MOVS; a scan engine raises 0x02 (R122). -/
def execMovs (o : Op) (s : State) : Host.Outcome State Fault Refusal := s.on fun c =>
  let c := c.arrive o.now
  match o.x with
  | .le e => c.issueLe e 0x78 o semNop
  | .mc m => c.movsMc m o
/-- RETI; a scan engine raises 0x02 (R122). -/
def execReti (o : Op) (s : State) : Host.Outcome State Fault Refusal := s.on fun c =>
  let c := c.arrive o.now
  match o.x with
  | .le e => c.issueLe e 0x79 o semNop
  | .mc m => c.retiMc m o
/-- WFI; a scan engine raises 0x02 (R122). -/
def execWfi (o : Op) (s : State) : Host.Outcome State Fault Refusal := s.on fun c =>
  let c := c.arrive o.now
  match o.x with
  | .le e => c.issueLe e 0x7A o semNop
  | .mc m => c.wfiMc m o

/-- ENDT (R112). -/
def execEndt (o : Op) (s : State) : Host.Outcome State Fault Refusal := s.on fun c =>
  let c := c.arrive o.now
  match o.x with
  | .le e => c.endtLe e o
  | .mc m => c.endtMc m o
/-- LDG (R116). -/
def execLdg (o : Op) (s : State) : Host.Outcome State Fault Refusal := s.on fun c =>
  let c := c.arrive o.now
  match o.x with
  | .le e => c.ldgLe e o
  | .mc m => c.ldgMc m o

/-- The issuer runs the Kazhin-M profile. -/
def Exec.core (x : Exec) : Bool :=
  match x with
  | .le _ => false
  | .mc _ => true

/-- RESERVED_OPCODE (R59, R95): a reserved encoding raises 0x01 whatever its condition. An encoding that is not reserved is no such
command. -/
def execReservedOpcode (opc : BitVec 7) (o : Op) (s : State) : Host.Outcome State Fault Refusal := s.on fun c =>
  if isReserved (Exec.core o.x) opc.toNat o.am o.opd o.ext then c.issue opc.toNat o semNop else c

/-- INTERRUPT_ENTRY (R89, R90): the lowest enabled line that is pending, at an instruction boundary while IE is 1. -/
def execInterruptEntry (m : Fin 2) (now : Time) (s : State) : Host.Outcome State Fault Refusal := s.on fun c =>
  let c := c.arrive now
  let k := c.core m
  if !c.coreRuns m || k.inBlock || !k.mst.getLsbD 0 then c
  else match c.irqOf m with
    | some i => c.vector m i false
    | none => c

/-- WFI_RESUME (R121). -/
def execWfiResume (m : Fin 2) (now : Time) (s : State) : Host.Outcome State Fault Refusal := s.on fun c =>
  let c := c.arrive now
  if c.coreRuns m && (c.core m).waiting && (c.irqOf m).isSome then c.modCore m fun k => { k with waiting := false } else c

end Sys2Proof.Machine
end

