-- ==== Sys2Proof/Machine/Grant.lean ====
section
/-! DEFINITION. The Turnstile's grants (R445 to R449): what an admission lets its requester do at once. -/

namespace Sys2Proof.Machine

/-- What an admission lets the requester do at once, within its burst. -/
def Chip.granted (c : Chip) (a : Admission) : Chip :=
  match a.who with
  | .xspi => match c.sys.conv, c.upd.job with
    | some v, _ => c.convBurst v
    | none, some j => c.updBurst j
    | none, none => c.turnEnd 0 .xspi
  | .update => c.updReads
  | .mimic => c.mimGranted
  | .shadow => c.warmGranted
  | .olc => c.loadPortion
  | .store => c.storeGranted
  | _ => c

/-- A requester whose controller is powered down in INTERMISSION (R449): nothing of it runs before the wake. -/
def Chip.sleeps (c : Chip) (who : Asker) : Bool := c.mode == mINTER && (who == .xspi || who == .recorder || who == .update || who == .mimic)

/-- TURNSTILE_GRANT (R46, R186, R194, R447, R448): the next request of the class is admitted, and WMAX takes its wait. The first admission in the
eMMC class takes the eMMC into use (Table 21.6). -/
def execTurnstileGrant (cls : Fin 7) (now : Time) (s : State) : Host.Outcome State Fault Refusal := s.on fun c =>
  let c := (c.arrive now).turnHeld
  if c.flushing then c
  else match c.turnNext cls with
    | none => c
    | some a =>
      if c.sleeps a.who then c
      else
        let w := min 65535 ((c.t - a.since.toNat) / 1000)
        let c := if c.get (PWR_TSCLS.WMAX cls) < w then c.put (PWR_TSCLS.WMAX cls) w else c
        let c := if cls = 1 then { c with pins := { c.pins with emmcUsed := true } } else c
        (c.turnAdmit a).granted a

end Sys2Proof.Machine
end

