-- ==== Sys2Proof/Machine/Kbit.lean ====
section
/-! DEFINITION. Kazhin instructions: bits and edges (R115). -/

namespace Sys2Proof.Machine

/-- LDB: BA := bit. -/
def execLdb (o : Op) (s : State) : Host.Outcome State Fault Refusal :=
  s.on fun c => c.issue 0x40 o (semBit fun _ v => v)

/-- LDBN: BA := NOT bit. -/
def execLdbn (o : Op) (s : State) : Host.Outcome State Fault Refusal :=
  s.on fun c => c.issue 0x41 o (semBit fun _ v => !v)

/-- ANDB. -/
def execAndb (o : Op) (s : State) : Host.Outcome State Fault Refusal :=
  s.on fun c => c.issue 0x42 o (semBit fun b v => b && v)

/-- ANDBN. -/
def execAndbn (o : Op) (s : State) : Host.Outcome State Fault Refusal :=
  s.on fun c => c.issue 0x43 o (semBit fun b v => b && !v)

/-- ORB. -/
def execOrb (o : Op) (s : State) : Host.Outcome State Fault Refusal :=
  s.on fun c => c.issue 0x44 o (semBit fun b v => b || v)

/-- ORBN. -/
def execOrbn (o : Op) (s : State) : Host.Outcome State Fault Refusal :=
  s.on fun c => c.issue 0x45 o (semBit fun b v => b || !v)

/-- XORB. -/
def execXorb (o : Op) (s : State) : Host.Outcome State Fault Refusal :=
  s.on fun c => c.issue 0x46 o (semBit fun b v => b != v)

/-- STBT: bit := BA. -/
def execStbt (o : Op) (s : State) : Host.Outcome State Fault Refusal :=
  s.on fun c => c.issue 0x47 o (semStBit fun x => x.ba)

/-- STBN: bit := NOT BA. -/
def execStbn (o : Op) (s : State) : Host.Outcome State Fault Refusal :=
  s.on fun c => c.issue 0x48 o (semStBit fun x => !x.ba)

/-- SETB: bit := 1. -/
def execSetb (o : Op) (s : State) : Host.Outcome State Fault Refusal :=
  s.on fun c => c.issue 0x49 o (semStBit fun _ => true)

/-- RSTB: bit := 0. -/
def execRstb (o : Op) (s : State) : Host.Outcome State Fault Refusal :=
  s.on fun c => c.issue 0x4A o (semStBit fun _ => false)

/-- BAO. -/
def execBao (o : Op) (s : State) : Host.Outcome State Fault Refusal :=
  s.on fun c => c.issue 0x4B o semBao

/-- PSHB: a slot holding 0 or 1. -/
def execPshb (o : Op) (s : State) : Host.Outcome State Fault Refusal :=
  s.on fun c => c.issue 0x4C o (semPush 2 fun x => BitVec.ofNat 64 x.ba.toNat)

/-- POPB. -/
def execPopb (o : Op) (s : State) : Host.Outcome State Fault Refusal :=
  s.on fun c => c.issue 0x4D o semPopb

/-- LDBB: BA := 1 when the byte is not 0x00. -/
def execLdbb (o : Op) (s : State) : Host.Outcome State Fault Refusal :=
  s.on fun c => c.issue 0x4E o (semLoad 1 fun x v => { x with ba := v.setWidth 8 != 0 })

/-- STBB: byte := 0x01 or 0x00 by BA. -/
def execStbb (o : Op) (s : State) : Host.Outcome State Fault Refusal :=
  s.on fun c => c.issue 0x4F o (semStore 1 fun x => BitVec.ofNat 64 x.ba.toNat)

/-- RED: BA := BA AND NOT p. -/
def execRed (o : Op) (s : State) : Host.Outcome State Fault Refusal :=
  s.on fun c => c.issue 0x5C o (semEdge fun b p => b && !p)

/-- FED: BA := NOT BA AND p. -/
def execFed (o : Op) (s : State) : Host.Outcome State Fault Refusal :=
  s.on fun c => c.issue 0x5D o (semEdge fun b p => !b && p)

end Sys2Proof.Machine
end

