-- ==== Sys2Proof/Machine/Kblock.lean ====
section
/-! DEFINITION. Kazhin instructions: block repeat (R117 to R119). -/

namespace Sys2Proof.Machine

/-- BMOV. -/
def execBmov (o : Op) (s : State) : Host.Outcome State Fault Refusal :=
  s.on fun c => c.issue 0x70 o semBmov

/-- BFIL. -/
def execBfil (o : Op) (s : State) : Host.Outcome State Fault Refusal :=
  s.on fun c => c.issue 0x71 o semBfil

/-- BCMP (R118). -/
def execBcmp (o : Op) (s : State) : Host.Outcome State Fault Refusal :=
  s.on fun c => c.issue 0x72 o semBcmp

/-- BBMV. -/
def execBbmv (o : Op) (s : State) : Host.Outcome State Fault Refusal :=
  s.on fun c => c.issue 0x73 o semBbmv

/-- BBPK. -/
def execBbpk (o : Op) (s : State) : Host.Outcome State Fault Refusal :=
  s.on fun c => c.issue 0x74 o semBbpk

/-- BBUP. -/
def execBbup (o : Op) (s : State) : Host.Outcome State Fault Refusal :=
  s.on fun c => c.issue 0x75 o semBbup

end Sys2Proof.Machine
end

