-- ==== Sys2Proof/Machine/Kfloat.lean ====
section
/-! DEFINITION. Kazhin instructions: floating point (R82, R83, R109). -/

namespace Sys2Proof.Machine

/-- FADD. -/
def execFadd (o : Op) (s : State) : Host.Outcome State Fault Refusal :=
  s.on fun c => c.issue 0x60 o (semF 4 (b32.add false))

/-- FSUB. -/
def execFsub (o : Op) (s : State) : Host.Outcome State Fault Refusal :=
  s.on fun c => c.issue 0x61 o (semF 4 (b32.add true))

/-- FMUL. -/
def execFmul (o : Op) (s : State) : Host.Outcome State Fault Refusal :=
  s.on fun c => c.issue 0x62 o (semF 4 b32.mul)

/-- FDIV. -/
def execFdiv (o : Op) (s : State) : Host.Outcome State Fault Refusal :=
  s.on fun c => c.issue 0x63 o (semF 14 b32.div)

/-- FCMP (R109). -/
def execFcmp (o : Op) (s : State) : Host.Outcome State Fault Refusal :=
  s.on fun c => c.issue 0x64 o semFcmp

/-- FSQRT. -/
def execFsqrt (o : Op) (s : State) : Host.Outcome State Fault Refusal :=
  s.on fun c => c.issue 0x65 o semFsqrt

/-- FUN. -/
def execFun (o : Op) (s : State) : Host.Outcome State Fault Refusal :=
  s.on fun c => c.issue 0x66 o semFun

/-- DADD. -/
def execDadd (o : Op) (s : State) : Host.Outcome State Fault Refusal :=
  s.on fun c => c.issue 0x67 o (semD 5 (b64.add false))

/-- DSUB. -/
def execDsub (o : Op) (s : State) : Host.Outcome State Fault Refusal :=
  s.on fun c => c.issue 0x68 o (semD 5 (b64.add true))

/-- DMUL. -/
def execDmul (o : Op) (s : State) : Host.Outcome State Fault Refusal :=
  s.on fun c => c.issue 0x69 o (semD 6 b64.mul)

/-- DDIV. -/
def execDdiv (o : Op) (s : State) : Host.Outcome State Fault Refusal :=
  s.on fun c => c.issue 0x6A o (semD 28 b64.div)

/-- DCMP (R109). -/
def execDcmp (o : Op) (s : State) : Host.Outcome State Fault Refusal :=
  s.on fun c => c.issue 0x6B o semDcmp

/-- DSQRT. -/
def execDsqrt (o : Op) (s : State) : Host.Outcome State Fault Refusal :=
  s.on fun c => c.issue 0x6C o semDsqrt

end Sys2Proof.Machine
end

