-- ==== Sys2Proof/Machine/Kflow.lean ====
section
/-! DEFINITION. Kazhin instructions: branches, calls and returns (R110, R111). -/

namespace Sys2Proof.Machine

/-- BR. -/
def execBr (o : Op) (s : State) : Host.Outcome State Fault Refusal :=
  s.on fun c => c.issue 0x50 o semBr

/-- CALL (R110). -/
def execCall (o : Op) (s : State) : Host.Outcome State Fault Refusal :=
  s.on fun c => c.issue 0x51 o semCall

/-- CALE (R110). -/
def execCale (o : Op) (s : State) : Host.Outcome State Fault Refusal :=
  s.on fun c => c.issue 0x52 o semCale

/-- CALI (R110). -/
def execCali (o : Op) (s : State) : Host.Outcome State Fault Refusal :=
  s.on fun c => c.issue 0x53 o semCali

/-- RET (R110). -/
def execRet (o : Op) (s : State) : Host.Outcome State Fault Refusal :=
  s.on fun c => c.issue 0x54 o semRet

/-- IPA (R111). -/
def execIpa (o : Op) (s : State) : Host.Outcome State Fault Refusal :=
  s.on fun c => c.issue 0x55 o semIpa

/-- ALOC (R69). -/
def execAloc (o : Op) (s : State) : Host.Outcome State Fault Refusal :=
  s.on fun c => c.issue 0x56 o semAloc

end Sys2Proof.Machine
end

