-- ==== Sys2Proof/Machine/Kint.lean ====
section
/-! DEFINITION. Kazhin instructions: 32-bit integer arithmetic, logic and shifts (R105 to R107). -/

namespace Sys2Proof.Machine

/-- ADD. -/
def execAdd (o : Op) (s : State) : Host.Outcome State Fault Refusal :=
  s.on fun c => c.issue 0x11 o (semAlu 1 fun x b => aluAdd x.flg x.acc b false)

/-- ADC. -/
def execAdc (o : Op) (s : State) : Host.Outcome State Fault Refusal :=
  s.on fun c => c.issue 0x12 o (semAlu 1 fun x b => aluAdd x.flg x.acc b (fC x.flg))

/-- SUB. -/
def execSub (o : Op) (s : State) : Host.Outcome State Fault Refusal :=
  s.on fun c => c.issue 0x13 o (semAlu 1 fun x b => aluSub x.flg x.acc b false)

/-- SBC: ACC − op − (1 − C). -/
def execSbc (o : Op) (s : State) : Host.Outcome State Fault Refusal :=
  s.on fun c => c.issue 0x14 o (semAlu 1 fun x b => aluSub x.flg x.acc b (!fC x.flg))

/-- RSB: op − ACC. -/
def execRsb (o : Op) (s : State) : Host.Outcome State Fault Refusal :=
  s.on fun c => c.issue 0x15 o (semAlu 1 fun x b => aluSub x.flg b x.acc false)

/-- MULS (R105). -/
def execMuls (o : Op) (s : State) : Host.Outcome State Fault Refusal :=
  s.on fun c => c.issue 0x16 o (semMul true)

/-- MULU (R105). -/
def execMulu (o : Op) (s : State) : Host.Outcome State Fault Refusal :=
  s.on fun c => c.issue 0x17 o (semMul false)

/-- DIVS (R105). -/
def execDivs (o : Op) (s : State) : Host.Outcome State Fault Refusal :=
  s.on fun c => c.issue 0x18 o semDivs

/-- DIVU (R105). -/
def execDivu (o : Op) (s : State) : Host.Outcome State Fault Refusal :=
  s.on fun c => c.issue 0x19 o semDivu

/-- NEG: 0 − ACC. -/
def execNeg (o : Op) (s : State) : Host.Outcome State Fault Refusal :=
  s.on fun c => c.issue 0x1A o (semAlu1 fun x => aluSub x.flg 0 x.acc false)

/-- ABS. -/
def execAbs (o : Op) (s : State) : Host.Outcome State Fault Refusal :=
  s.on fun c => c.issue 0x1B o (semAlu1 fun x => aluAbs x.flg x.acc)

/-- CMP: flags of ACC − op. -/
def execCmp (o : Op) (s : State) : Host.Outcome State Fault Refusal :=
  s.on fun c => c.issue 0x1C o (semCmp fun x b => aluSub x.flg x.acc b false)

/-- CHK (R106). -/
def execChk (o : Op) (s : State) : Host.Outcome State Fault Refusal :=
  s.on fun c => c.issue 0x1D o semChk

/-- ADX: IX := IX + sext(OPD). -/
def execAdx (o : Op) (s : State) : Host.Outcome State Fault Refusal :=
  s.on fun c => c.issue 0x1E o (semAdXY fun x v => { x with ix := x.ix + v })

/-- ADY: IY := IY + sext(OPD). -/
def execAdy (o : Op) (s : State) : Host.Outcome State Fault Refusal :=
  s.on fun c => c.issue 0x1F o (semAdXY fun x v => { x with iy := x.iy + v })

/-- AND. -/
def execAndW (o : Op) (s : State) : Host.Outcome State Fault Refusal :=
  s.on fun c => c.issue 0x20 o (semAlu 1 fun x b => aluLog x.flg (x.acc &&& b))

/-- OR. -/
def execOrW (o : Op) (s : State) : Host.Outcome State Fault Refusal :=
  s.on fun c => c.issue 0x21 o (semAlu 1 fun x b => aluLog x.flg (x.acc ||| b))

/-- XOR. -/
def execXorW (o : Op) (s : State) : Host.Outcome State Fault Refusal :=
  s.on fun c => c.issue 0x22 o (semAlu 1 fun x b => aluLog x.flg (x.acc ^^^ b))

/-- NOT. -/
def execNotW (o : Op) (s : State) : Host.Outcome State Fault Refusal :=
  s.on fun c => c.issue 0x23 o (semAlu1 fun x => aluLog x.flg (~~~x.acc))

/-- SHL (R107). -/
def execShl (o : Op) (s : State) : Host.Outcome State Fault Refusal :=
  s.on fun c => c.issue 0x24 o (semShift .shl)

/-- SHR (R107). -/
def execShr (o : Op) (s : State) : Host.Outcome State Fault Refusal :=
  s.on fun c => c.issue 0x25 o (semShift .shr)

/-- SAR (R107). -/
def execSar (o : Op) (s : State) : Host.Outcome State Fault Refusal :=
  s.on fun c => c.issue 0x26 o (semShift .sar)

/-- ROL (R107). -/
def execRol (o : Op) (s : State) : Host.Outcome State Fault Refusal :=
  s.on fun c => c.issue 0x27 o (semShift .rol)

/-- ROR (R107). -/
def execRor (o : Op) (s : State) : Host.Outcome State Fault Refusal :=
  s.on fun c => c.issue 0x28 o (semShift .ror)

/-- SEXT. -/
def execSext (o : Op) (s : State) : Host.Outcome State Fault Refusal :=
  s.on fun c => c.issue 0x2D o (semExtend true)

/-- ZEXT. -/
def execZext (o : Op) (s : State) : Host.Outcome State Fault Refusal :=
  s.on fun c => c.issue 0x2E o (semExtend false)

/-- BTW (R120). -/
def execBtw (o : Op) (s : State) : Host.Outcome State Fault Refusal :=
  s.on fun c => c.issue 0x76 o semBtw

/-- BPW (R120). -/
def execBpw (o : Op) (s : State) : Host.Outcome State Fault Refusal :=
  s.on fun c => c.issue 0x77 o semBpw

end Sys2Proof.Machine
end

