-- ==== Sys2Proof/Machine/Klong.lean ====
section
/-! DEFINITION. Kazhin instructions: 64-bit integer arithmetic, logic and shifts, and CVT (R105 to R108). -/

namespace Sys2Proof.Machine

/-- ADDL. -/
def execAddl (o : Op) (s : State) : Host.Outcome State Fault Refusal :=
  s.on fun c => c.issue 0x30 o (semAluL 2 fun x b => aluAdd x.flg x.long b false)

/-- SUBL. -/
def execSubl (o : Op) (s : State) : Host.Outcome State Fault Refusal :=
  s.on fun c => c.issue 0x31 o (semAluL 2 fun x b => aluSub x.flg x.long b false)

/-- CMPL: flags of ACH:ACC − op. -/
def execCmpl (o : Op) (s : State) : Host.Outcome State Fault Refusal :=
  s.on fun c => c.issue 0x32 o (semCmpL 2 fun x b => aluSub x.flg x.long b false)

/-- NEGL: 0 − ACH:ACC. -/
def execNegl (o : Op) (s : State) : Host.Outcome State Fault Refusal :=
  s.on fun c => c.issue 0x33 o (semAluL1 fun x => aluSub x.flg 0 x.long false)

/-- MULL (R105). -/
def execMull (o : Op) (s : State) : Host.Outcome State Fault Refusal :=
  s.on fun c => c.issue 0x34 o (semAluL 6 mull)

/-- DIVSL (R105). -/
def execDivsl (o : Op) (s : State) : Host.Outcome State Fault Refusal :=
  s.on fun c => c.issue 0x35 o (semDivL divsl)

/-- REMSL (R105). -/
def execRemsl (o : Op) (s : State) : Host.Outcome State Fault Refusal :=
  s.on fun c => c.issue 0x36 o (semDivL fun x b => aluLog x.flg (x.long.srem b))

/-- DIVUL (R105). -/
def execDivul (o : Op) (s : State) : Host.Outcome State Fault Refusal :=
  s.on fun c => c.issue 0x37 o (semDivL fun x b => aluLog x.flg (x.long / b))

/-- SHFL (R107). -/
def execShfl (o : Op) (s : State) : Host.Outcome State Fault Refusal :=
  s.on fun c => c.issue 0x38 o semShfl

/-- ANDL. -/
def execAndl (o : Op) (s : State) : Host.Outcome State Fault Refusal :=
  s.on fun c => c.issue 0x39 o (semAluL 2 fun x b => aluLog x.flg (x.long &&& b))

/-- ORL. -/
def execOrl (o : Op) (s : State) : Host.Outcome State Fault Refusal :=
  s.on fun c => c.issue 0x3A o (semAluL 2 fun x b => aluLog x.flg (x.long ||| b))

/-- XORL. -/
def execXorl (o : Op) (s : State) : Host.Outcome State Fault Refusal :=
  s.on fun c => c.issue 0x3B o (semAluL 2 fun x b => aluLog x.flg (x.long ^^^ b))

/-- NOTL. -/
def execNotl (o : Op) (s : State) : Host.Outcome State Fault Refusal :=
  s.on fun c => c.issue 0x3C o (semAluL1 fun x => aluLog x.flg (~~~x.long))

/-- CVT (R108, Table 4.7). -/
def execCvt (o : Op) (s : State) : Host.Outcome State Fault Refusal :=
  s.on fun c => c.issue 0x3D o semCvt

end Sys2Proof.Machine
end

