-- ==== Sys2Proof/Machine/Kmove.lean ====
section
/-! DEFINITION. Kazhin instructions: loads, stores and register moves (R103, R104) and NOP. -/

namespace Sys2Proof.Machine

/-- NOP. -/
def execNop (o : Op) (s : State) : Host.Outcome State Fault Refusal :=
  s.on fun c => c.issue 0x00 o semNop

/-- LDSB: ACC := sext(byte). -/
def execLdsb (o : Op) (s : State) : Host.Outcome State Fault Refusal :=
  s.on fun c => c.issue 0x01 o (semLoad 1 fun x v => { x with acc := (v.setWidth 8).signExtend 32 })

/-- LDUB: ACC := the zero-extended byte. -/
def execLdub (o : Op) (s : State) : Host.Outcome State Fault Refusal :=
  s.on fun c => c.issue 0x02 o (semLoad 1 fun x v => { x with acc := (v.setWidth 8).setWidth 32 })

/-- LDSH: ACC := sext(16-bit). -/
def execLdsh (o : Op) (s : State) : Host.Outcome State Fault Refusal :=
  s.on fun c => c.issue 0x03 o (semLoad 2 fun x v => { x with acc := (v.setWidth 16).signExtend 32 })

/-- LDUH: ACC := the zero-extended 16-bit value. -/
def execLduh (o : Op) (s : State) : Host.Outcome State Fault Refusal :=
  s.on fun c => c.issue 0x04 o (semLoad 2 fun x v => { x with acc := (v.setWidth 16).setWidth 32 })

/-- LDW: ACC := op. -/
def execLdw (o : Op) (s : State) : Host.Outcome State Fault Refusal :=
  s.on fun c => c.issue 0x05 o (semWord fun x v => { x with acc := v })

/-- LDL: ACH:ACC := op. -/
def execLdl (o : Op) (s : State) : Host.Outcome State Fault Refusal :=
  s.on fun c => c.issue 0x06 o semLdl

/-- LDAH: ACH := op. -/
def execLdah (o : Op) (s : State) : Host.Outcome State Fault Refusal :=
  s.on fun c => c.issue 0x07 o (semWord fun x v => { x with ach := v })

/-- STBY: byte := ACC[7:0]. -/
def execStby (o : Op) (s : State) : Host.Outcome State Fault Refusal :=
  s.on fun c => c.issue 0x08 o (semStore 1 fun x => (x.acc.setWidth 8).setWidth 64)

/-- STHW: 16-bit := ACC[15:0]. -/
def execSthw (o : Op) (s : State) : Host.Outcome State Fault Refusal :=
  s.on fun c => c.issue 0x09 o (semStore 2 fun x => (x.acc.setWidth 16).setWidth 64)

/-- STW: word := ACC. -/
def execStw (o : Op) (s : State) : Host.Outcome State Fault Refusal :=
  s.on fun c => c.issue 0x0A o semStw

/-- STL: 8 bytes := ACH:ACC. -/
def execStl (o : Op) (s : State) : Host.Outcome State Fault Refusal :=
  s.on fun c => c.issue 0x0B o (semStore 8 Ctx.long)

/-- STAH: word := ACH. -/
def execStah (o : Op) (s : State) : Host.Outcome State Fault Refusal :=
  s.on fun c => c.issue 0x0C o (semStore 4 fun x => x.ach.setWidth 64)

/-- LEA: ACC := effective address. -/
def execLea (o : Op) (s : State) : Host.Outcome State Fault Refusal :=
  s.on fun c => c.issue 0x0D o semLea

/-- PSH (R68). -/
def execPsh (o : Op) (s : State) : Host.Outcome State Fault Refusal :=
  s.on fun c => c.issue 0x0E o semPsh

/-- POP (R68). -/
def execPop (o : Op) (s : State) : Host.Outcome State Fault Refusal :=
  s.on fun c => c.issue 0x0F o semPopAcc

/-- MOVR (R104). -/
def execMovr (o : Op) (s : State) : Host.Outcome State Fault Refusal :=
  s.on fun c => c.issue 0x10 o semMovr

/-- LDX: IX := op. -/
def execLdx (o : Op) (s : State) : Host.Outcome State Fault Refusal :=
  s.on fun c => c.issue 0x29 o (semWord fun x v => { x with ix := v })

/-- LDY: IY := op. -/
def execLdy (o : Op) (s : State) : Host.Outcome State Fault Refusal :=
  s.on fun c => c.issue 0x2A o (semWord fun x v => { x with iy := v })

/-- STX: word := IX. -/
def execStx (o : Op) (s : State) : Host.Outcome State Fault Refusal :=
  s.on fun c => c.issue 0x2B o (semStore 4 fun x => x.ix.setWidth 64)

/-- STY: word := IY. -/
def execSty (o : Op) (s : State) : Host.Outcome State Fault Refusal :=
  s.on fun c => c.issue 0x2C o (semStore 4 fun x => x.iy.setWidth 64)

/-- SEL: when BA = 1, ACC := op; the operand is read whatever BA. -/
def execSel (o : Op) (s : State) : Host.Outcome State Fault Refusal :=
  s.on fun c => c.issue 0x3E o (semWord fun x v => if x.ba then { x with acc := v } else x)

end Sys2Proof.Machine
end

