-- ==== Sys2Proof/Machine/Ktime.lean ====
section
/-! DEFINITION. Kazhin instructions: timers and time (R113, R114). -/

namespace Sys2Proof.Machine

/-- TON (Table 4.9). -/
def execTon (o : Op) (s : State) : Host.Outcome State Fault Refusal :=
  s.on fun c => c.issue 0x58 o (semTimer .ton)

/-- TOF (Table 4.9). -/
def execTof (o : Op) (s : State) : Host.Outcome State Fault Refusal :=
  s.on fun c => c.issue 0x59 o (semTimer .tof)

/-- TP (Table 4.9). -/
def execTp (o : Op) (s : State) : Host.Outcome State Fault Refusal :=
  s.on fun c => c.issue 0x5A o (semTimer .tp)

/-- TRS. -/
def execTrs (o : Op) (s : State) : Host.Outcome State Fault Refusal :=
  s.on fun c => c.issue 0x5B o semTrs

/-- TSC (R113). -/
def execTsc (o : Op) (s : State) : Host.Outcome State Fault Refusal :=
  s.on fun c => c.issue 0x5F o semTsc

end Sys2Proof.Machine
end

