-- ==== Sys2Proof/Machine/Scrub.lean ====
section
/-! DEFINITION. The scrubber (R300 to R303): sweeps, row replacement, and what becomes of a word that it cannot correct. -/

namespace Sys2Proof.Machine

/-- The words of 8 bytes of every array. -/
def scrubWords : Nat := (sramRegions.map (·.2)).sum / 8

/-- The address of the `n`-th word over a list of regions. -/
def wordIn : List (Nat × Nat) → Nat → Nat
  | [], _ => 0
  | (b, s) :: l, n => if n < s / 8 then b + 8 * n else wordIn l (n - s / 8)

/-- SCRUB_SWEEP_START (R301): SCREN takes effect with a sweep. -/
def execScrubSweepStart (now : Time) (s : State) : Host.Outcome State Fault Refusal := s.on fun c =>
  let c := (c.arrive now).put FLT_SCRUB.PROG 0
  let on := c.flag FLT_CTL.SCREN
  c.modFlt fun f => { f with scrubOn := on, sweeping := on, scrubPos := 0, seen := f.found, found := [] }

/-! ### Rows -/

/-- The spare rows of an array that are free. -/
def Chip.freeRows (c : Chip) (a : Nat) : List Nat := [0, 1].filter fun s =>
  !(c.flt.rows.any fun (e : Nat × Nat × Nat) => e.1 == a && e.2.2 == s) && !c.flt.badSpares.contains (a, s)

/-- The row of 1 KiB of an array that holds an address (R300): regions start at array boundaries. -/
def rowOf (a : Nat) : Nat := a % 32768 / 1024

/-- A row is replaced, if a spare row is left (R302). -/
def Chip.replaceRow (c : Chip) (arr a : Nat) : Chip :=
  match c.freeRows arr with
  | [] => c
  | s :: rest =>
    let c := (c.modFlt fun f => { f with rows := f.rows ++ [(arr, rowOf a, s)] }).set1 FLT_STAT.ROWREP
    let c := (c.put FLT_ROWS.USED (c.get FLT_ROWS.USED + 1)).put FLT_ROWS.FREE (c.get FLT_ROWS.FREE - 1)
    let seq := c.faultWhen (if rest.isEmpty then 1 else 0) 0x05 arr (if rest.isEmpty then 0x45 else 0x61)
    let c := if rest.isEmpty then (c.set1 FLT_STAT.ROWEXH).degradeSys 0x05 arr 0x45 else c.fault 0 0x05 arr 0x61
    c.mapEntry 3 0 arr (rowOf a) (s == 1) seq

/-! ### Words that cannot be corrected (Table 10.8) -/

/-- Unstated words. -/
def freeWords : Nat → Chip → List Word × Chip
  | 0, c => ([], c)
  | n + 1, c =>
    let (w, c) := c.freeW
    let (l, c) := freeWords n c
    (w :: l, c)

/-- A word of the code table is about to be wiped: its entry is remembered as LOAD gave it. -/
def Chip.recGone (c : Chip) (a : Nat) : Chip :=
  let k := (a - 0x39000000) / 8
  if 0x39000000 ≤ a && a < 0x39008000 && !c.rcd.gone.any (·.1 == k) then c.modRec fun r => { r with gone := (k, c.codeWord k) :: r.gone } else c

/-- The codes with their accumulators in ascending order: code, first unit and number of units (DEDUCED, log entry 23). -/
def Chip.accums (c : Chip) : List (Nat × Nat × Nat) :=
  ((List.range 4096).foldl (fun (r : Nat × List (Nat × Nat × Nat)) k =>
    let u := c.codeUnits k
    if u = 0 then r else (r.1 + u, (k, r.1, u) :: r.2)) (0, [])).2

/-- The recorder is told of a word of its buffer that was rewritten (R372). The one unit of a COUNT code then reads 0 (Table 10.8); what the
others then hold the spec does not state. -/
def Chip.recMemErr (c : Chip) (a : Nat) : Chip :=
  let c := c.set1 REC_STAT.MEMERR
  if a < 0x39008000 then c
  else if a < 0x39010000 then
    let u := (a - 0x39008000) / 8
    match c.accums.find? fun (e : Nat × Nat × Nat) => e.2.1 ≤ u && u < e.2.1 + e.2.2 with
    | none => c
    | some (k, first, _) =>
      let told (f : RecOpen → RecOpen) (r : Rec) : List RecOpen := r.opens.map fun o => if o.code = k then { f o with memErr := true } else o
      let type := entryType (c.codeEntry k)
      if type = 2 && u = first then c.modRec fun r => { r with hist := spIns k (0, 0) r.hist, opens := told id r }
      else if type = 1 then c.modRec fun r => { r with opens := told (fun o => { o with count := 0, last := 0 }) r }
      else
        let (l, c) := freeWords 20 c
        let w (i : Nat) : Word := l.getD i 0
        c.modRec fun r => { r with opens := told (fun o =>
          { o with count := (w 0).toNat, last := w 1, min := w 2, max := w 3,
                   bins := Vector.ofFn fun (i : Fin 16) => (w (4 + i.val)).toNat % 65536 }) r }
  else
    let slot := (a - 0x39010000) / 64
    let i := a % 64 / 4
    let fix (l : List Word) : List Word :=
      let l := (l.set i 0).set (i + 1) 0
      let l := l.set 0 (l.getD 0 0 ||| 0x100000)
      l.set 15 (crc32c (bytesOfWords (l.take 15)))
    c.modRec fun r => { r with queue := r.queue.map fun q => if q.seq % 1024 = slot then { q with words := fix q.words } else q }

/-- The block that owns a rewritten word is told. -/
def Chip.ownerTold (c : Chip) (a : Nat) : Chip :=
  if 0x30000000 ≤ a && a < 0x30480000 then c.mimMemErr a
  else if 0x39000000 ≤ a && a < 0x39020000 then c.recMemErr a
  else if 0x3A000000 ≤ a && a < 0x3A018000 then
    c.canMemErr (Fin.ofNat 4 ((a - 0x3A000000) / 0x6000)) ((a - 0x3A000000) % 0x6000 / 0x60)
  else c

/-- Management memory is reloaded from the firmware bank in use, and both cores restart (R298, Table 10.8). -/
def Chip.mgmtReload (c : Chip) : Chip :=
  let f := (bankAt c.layout 1 (c.inUse 1)).1
  let c := c.stBytes (0x3C000000 + 0x50000 * c.upd.areas[0].val) (c.ldBytes f (c.imgLen f))
  (c.forFin 2 fun m c => if c.get (coreFld m) = 3 then c else (c.coreRestart m).incSat FLT_CORE.RSTCNT).set1 FLT_STAT.CORERST

/-- Some task in PAIRED mode protects the place that `p` describes. -/
def Chip.protectedBy (c : Chip) (p : Fin 32 → Bool) : Bool := (List.finRange 32).any fun t => c.flag (SHD_TSTAT.CUR t) && p t

/-- A word is rewritten from the complement of its other half. -/
def Chip.fromCompl (c : Chip) (a other : Nat) : Chip := (c.st a 8 (~~~(BitVec.ofNat 64 (c.ld other 8))).toNat).clean a 8

/-- A journal entry is poisoned: the entries of an engine lie in order from the start of its array (DESIGN CHOICE, log entry 107). -/
def Chip.jrnPoison (c : Chip) (a : Nat) : Chip :=
  c.modPh (Fin.ofNat 18 ((a - 0x34000000) / 0x8000)) fun p => { p with
    journal := p.journal.modify (a % 0x8000 / 8) fun (e : JEntry) => { e with bad := true } }

/-- The action for a word in the data or bit store: from the other half, or poison. -/
def Chip.scrubStore (c : Chip) (a : Nat) : Chip :=
  let c := if a < 0x34000000 then c else c.jrnPoison a
  let bit (x : Nat) : Nat := 8 * (x - 0x28000000)
  if 0x20000000 ≤ a && a < 0x20300000 && c.protectedBy (c.protData · a) then c.fromCompl a (a + 0x300000)
  else if 0x20300000 ≤ a && a < 0x20600000 && c.protectedBy (c.protData · (a - 0x300000)) then c.fromCompl a (a - 0x300000)
  else if 0x28000000 ≤ a && a < 0x28200000 && c.protectedBy (c.protBit · (bit a)) then c.fromCompl a (a + 0xC0000)
  else if 0x280C0000 ≤ a && a < 0x28200000 && c.protectedBy (c.protBit · (bit (a - 0xC0000))) then c.fromCompl a (a - 0xC0000)
  else if c.poisoned a then c
  else c.modFlt fun f => { f with poison := f.poison ++ [a / 8] }

/-- Table 10.8. A word of the mimic tables is reloaded from the asset image (R436). -/
def Chip.scrubBad (c : Chip) (a arr : Nat) : Chip :=
  if a < 0x10300000 then c.fault 3 0x05 arr 0
  else
    let c :=
      if a < 0x10600000 then c.pkgEmpty
      else if a < 0x30000000 || (0x34000000 ≤ a && a < 0x38000000) then c.scrubStore a
      else if 0x3C000000 ≤ a then c.mgmtReload
      else if 0x3B000000 ≤ a then c.mimMemErr a
      else ((c.recGone a).st a 8 0).ownerTold a
    c.degradeSys 0x05 arr 0x46

/-- The row of an address holds a poisoned word (R302). -/
def Chip.rowPoisoned (c : Chip) (a : Nat) : Bool := c.flt.poison.any fun w => w / 128 == a / 1024

/-- SCRUB_WORD_CHECK (R301 to R303): the next word of the sweep is read, checked and, where needed, corrected. -/
def execScrubWordCheck (ecc : Ecc) (bit : Fin 72) (now : Time) (s : State) : Host.Outcome State Fault Refusal := s.on fun c =>
  let c := c.arrive now
  let n := c.flt.scrubPos
  if !c.flt.sweeping || scrubWords ≤ n then c
  else
    let a := wordIn sramRegions n
    let arr := (sramArray a).getD 0
    let c := match ecc with
      | .ok => c
      | .corrected =>
        let again := c.flt.seen.contains (n, bit.val)
        let c := (c.eccNote a 0).modFlt fun f => { f with found := f.found ++ [(n, bit.val)] }
        if again then c.replaceRow arr a else c
      | .uncorrectable =>
        let row := !c.rowPoisoned a
        let c := (((c.incSat FLT_ECC.UNCCNT).set1 FLT_STAT.UNCORR)).scrubBad a arr
        if row then c.replaceRow arr a else c
    let c := (c.modFlt fun f => { f with scrubPos := n + 1 }).put FLT_SCRUB.PROG ((n + 1) * 1000 / scrubWords)
    if n + 1 = scrubWords then (c.incSat FLT_SCRUB.SWEEPS).modFlt fun f => { f with sweeping := false } else c

end Sys2Proof.Machine
end

