-- ==== Sys2Proof/Machine/Dispatch.lean ====
section
/-! DEFINITION. One arm per command: each calls the command's meaning, or rejects it by name. -/

namespace Sys2Proof.Machine

/-- The effect of a command on everything but the queue. -/
def exec (i : Instr) (s : State) : Host.Outcome State Fault Refusal :=
  match i with
  | .registerWrite a => Sys2Proof.Machine.execRegisterWrite a s
  | .agentMemoryAccess a => Sys2Proof.Machine.execAgentMemoryAccess a s
  | .powerOnReset p now => Sys2Proof.Machine.execPowerOnReset p now s
  | .pinReset now => Sys2Proof.Machine.execPinReset now s
  | .powerGoodLost now => Sys2Proof.Machine.execPowerGoodLost now s
  | .pfailStartupWaitEnd now => Sys2Proof.Machine.execPfailStartupWaitEnd now s
  | .bootSequence b now => Sys2Proof.Machine.execBootSequence b now s
  | .refclkStopped now => Sys2Proof.Machine.execRefclkStopped now s
  | .sysStop w => Sys2Proof.Machine.execSysStop w s
  | .stopTransitionComplete now => Sys2Proof.Machine.execStopTransitionComplete now s
  | .sysRunCold w => Sys2Proof.Machine.execSysRunCold w s
  | .sysRunWarm w => Sys2Proof.Machine.execSysRunWarm w s
  | .startModeRestart now => Sys2Proof.Machine.execStartModeRestart now s
  | .ringReadyTimeout r now => Sys2Proof.Machine.execRingReadyTimeout r now s
  | .sysIntermission w => Sys2Proof.Machine.execSysIntermission w s
  | .sysLeaveSafehold w => Sys2Proof.Machine.execSysLeaveSafehold w s
  | .sysSoftwareReset w => Sys2Proof.Machine.execSysSoftwareReset w s
  | .fenceNAsserted now => Sys2Proof.Machine.execFenceNAsserted now s
  | .nop o => Sys2Proof.Machine.execNop o s
  | .ldsb o => Sys2Proof.Machine.execLdsb o s
  | .ldub o => Sys2Proof.Machine.execLdub o s
  | .ldsh o => Sys2Proof.Machine.execLdsh o s
  | .lduh o => Sys2Proof.Machine.execLduh o s
  | .ldw o => Sys2Proof.Machine.execLdw o s
  | .ldl o => Sys2Proof.Machine.execLdl o s
  | .ldah o => Sys2Proof.Machine.execLdah o s
  | .stby o => Sys2Proof.Machine.execStby o s
  | .sthw o => Sys2Proof.Machine.execSthw o s
  | .stw o => Sys2Proof.Machine.execStw o s
  | .stl o => Sys2Proof.Machine.execStl o s
  | .stah o => Sys2Proof.Machine.execStah o s
  | .lea o => Sys2Proof.Machine.execLea o s
  | .psh o => Sys2Proof.Machine.execPsh o s
  | .pop o => Sys2Proof.Machine.execPop o s
  | .movr o => Sys2Proof.Machine.execMovr o s
  | .add o => Sys2Proof.Machine.execAdd o s
  | .adc o => Sys2Proof.Machine.execAdc o s
  | .sub o => Sys2Proof.Machine.execSub o s
  | .sbc o => Sys2Proof.Machine.execSbc o s
  | .rsb o => Sys2Proof.Machine.execRsb o s
  | .muls o => Sys2Proof.Machine.execMuls o s
  | .mulu o => Sys2Proof.Machine.execMulu o s
  | .divs o => Sys2Proof.Machine.execDivs o s
  | .divu o => Sys2Proof.Machine.execDivu o s
  | .neg o => Sys2Proof.Machine.execNeg o s
  | .abs o => Sys2Proof.Machine.execAbs o s
  | .cmp o => Sys2Proof.Machine.execCmp o s
  | .chk o => Sys2Proof.Machine.execChk o s
  | .adx o => Sys2Proof.Machine.execAdx o s
  | .ady o => Sys2Proof.Machine.execAdy o s
  | .andW o => Sys2Proof.Machine.execAndW o s
  | .orW o => Sys2Proof.Machine.execOrW o s
  | .xorW o => Sys2Proof.Machine.execXorW o s
  | .notW o => Sys2Proof.Machine.execNotW o s
  | .shl o => Sys2Proof.Machine.execShl o s
  | .shr o => Sys2Proof.Machine.execShr o s
  | .sar o => Sys2Proof.Machine.execSar o s
  | .rol o => Sys2Proof.Machine.execRol o s
  | .ror o => Sys2Proof.Machine.execRor o s
  | .ldx o => Sys2Proof.Machine.execLdx o s
  | .ldy o => Sys2Proof.Machine.execLdy o s
  | .stx o => Sys2Proof.Machine.execStx o s
  | .sty o => Sys2Proof.Machine.execSty o s
  | .sext o => Sys2Proof.Machine.execSext o s
  | .zext o => Sys2Proof.Machine.execZext o s
  | .addl o => Sys2Proof.Machine.execAddl o s
  | .subl o => Sys2Proof.Machine.execSubl o s
  | .cmpl o => Sys2Proof.Machine.execCmpl o s
  | .negl o => Sys2Proof.Machine.execNegl o s
  | .mull o => Sys2Proof.Machine.execMull o s
  | .divsl o => Sys2Proof.Machine.execDivsl o s
  | .remsl o => Sys2Proof.Machine.execRemsl o s
  | .divul o => Sys2Proof.Machine.execDivul o s
  | .shfl o => Sys2Proof.Machine.execShfl o s
  | .andl o => Sys2Proof.Machine.execAndl o s
  | .orl o => Sys2Proof.Machine.execOrl o s
  | .xorl o => Sys2Proof.Machine.execXorl o s
  | .notl o => Sys2Proof.Machine.execNotl o s
  | .cvt o => Sys2Proof.Machine.execCvt o s
  | .sel o => Sys2Proof.Machine.execSel o s
  | .ldb o => Sys2Proof.Machine.execLdb o s
  | .ldbn o => Sys2Proof.Machine.execLdbn o s
  | .andb o => Sys2Proof.Machine.execAndb o s
  | .andbn o => Sys2Proof.Machine.execAndbn o s
  | .orb o => Sys2Proof.Machine.execOrb o s
  | .orbn o => Sys2Proof.Machine.execOrbn o s
  | .xorb o => Sys2Proof.Machine.execXorb o s
  | .stbt o => Sys2Proof.Machine.execStbt o s
  | .stbn o => Sys2Proof.Machine.execStbn o s
  | .setb o => Sys2Proof.Machine.execSetb o s
  | .rstb o => Sys2Proof.Machine.execRstb o s
  | .bao o => Sys2Proof.Machine.execBao o s
  | .pshb o => Sys2Proof.Machine.execPshb o s
  | .popb o => Sys2Proof.Machine.execPopb o s
  | .ldbb o => Sys2Proof.Machine.execLdbb o s
  | .stbb o => Sys2Proof.Machine.execStbb o s
  | .br o => Sys2Proof.Machine.execBr o s
  | .call o => Sys2Proof.Machine.execCall o s
  | .cale o => Sys2Proof.Machine.execCale o s
  | .cali o => Sys2Proof.Machine.execCali o s
  | .ret o => Sys2Proof.Machine.execRet o s
  | .ipa o => Sys2Proof.Machine.execIpa o s
  | .aloc o => Sys2Proof.Machine.execAloc o s
  | .endt o => Sys2Proof.Machine.execEndt o s
  | .ton o => Sys2Proof.Machine.execTon o s
  | .tof o => Sys2Proof.Machine.execTof o s
  | .tp o => Sys2Proof.Machine.execTp o s
  | .trs o => Sys2Proof.Machine.execTrs o s
  | .red o => Sys2Proof.Machine.execRed o s
  | .fed o => Sys2Proof.Machine.execFed o s
  | .ldg o => Sys2Proof.Machine.execLdg o s
  | .tsc o => Sys2Proof.Machine.execTsc o s
  | .fadd o => Sys2Proof.Machine.execFadd o s
  | .fsub o => Sys2Proof.Machine.execFsub o s
  | .fmul o => Sys2Proof.Machine.execFmul o s
  | .fdiv o => Sys2Proof.Machine.execFdiv o s
  | .fcmp o => Sys2Proof.Machine.execFcmp o s
  | .fsqrt o => Sys2Proof.Machine.execFsqrt o s
  | .fun o => Sys2Proof.Machine.execFun o s
  | .dadd o => Sys2Proof.Machine.execDadd o s
  | .dsub o => Sys2Proof.Machine.execDsub o s
  | .dmul o => Sys2Proof.Machine.execDmul o s
  | .ddiv o => Sys2Proof.Machine.execDdiv o s
  | .dcmp o => Sys2Proof.Machine.execDcmp o s
  | .dsqrt o => Sys2Proof.Machine.execDsqrt o s
  | .bmov o => Sys2Proof.Machine.execBmov o s
  | .bfil o => Sys2Proof.Machine.execBfil o s
  | .bcmp o => Sys2Proof.Machine.execBcmp o s
  | .bbmv o => Sys2Proof.Machine.execBbmv o s
  | .bbpk o => Sys2Proof.Machine.execBbpk o s
  | .bbup o => Sys2Proof.Machine.execBbup o s
  | .btw o => Sys2Proof.Machine.execBtw o s
  | .bpw o => Sys2Proof.Machine.execBpw o s
  | .movs o => Sys2Proof.Machine.execMovs o s
  | .reti o => Sys2Proof.Machine.execReti o s
  | .wfi o => Sys2Proof.Machine.execWfi o s
  | .reservedOpcode opc o => Sys2Proof.Machine.execReservedOpcode opc o s
  | .interruptEntry m now => Sys2Proof.Machine.execInterruptEntry m now s
  | .wfiResume m now => Sys2Proof.Machine.execWfiResume m now s
  | .taskSwitch e now => Sys2Proof.Machine.execTaskSwitch e now s
  | .debugHalt x now => Sys2Proof.Machine.execDebugHalt x now s
  | .debugResume x now => Sys2Proof.Machine.execDebugResume x now s
  | .cyclicRelease t now => Sys2Proof.Machine.execCyclicRelease t now s
  | .inputPhase t now => Sys2Proof.Machine.execInputPhase t now s
  | .comparePhase t ecc now => Sys2Proof.Machine.execComparePhase t ecc now s
  | .outputPhase t now => Sys2Proof.Machine.execOutputPhase t now s
  | .housekeepPhase t now => Sys2Proof.Machine.execHousekeepPhase t now s
  | .eventSourceFire t now => Sys2Proof.Machine.execEventSourceFire t now s
  | .eventRelease t now => Sys2Proof.Machine.execEventRelease t now s
  | .errorTaskRelease t now => Sys2Proof.Machine.execErrorTaskRelease t now s
  | .paceWindowEnd e rate now => Sys2Proof.Machine.execPaceWindowEnd e rate now s
  | .slackWindowEnd e slack now => Sys2Proof.Machine.execSlackWindowEnd e slack now s
  | .mismatchVerdict e pass now => Sys2Proof.Machine.execMismatchVerdict e pass now s
  | .spareMappingComplete e now => Sys2Proof.Machine.execSpareMappingComplete e now s
  | .shdTmodeWrite t w => Sys2Proof.Machine.execShdTmodeWrite t w s
  | .warmupCopyComplete t now => Sys2Proof.Machine.execWarmupCopyComplete t now s
  | .olcLoad w => Sys2Proof.Machine.execOlcLoad w s
  | .olcLoadComplete p now => Sys2Proof.Machine.execOlcLoadComplete p now s
  | .olcDisarm w => Sys2Proof.Machine.execOlcDisarm w s
  | .olcActivate w => Sys2Proof.Machine.execOlcActivate w s
  | .olcDiscard w => Sys2Proof.Machine.execOlcDiscard w s
  | .activationExchange now => Sys2Proof.Machine.execActivationExchange now s
  | .alltaskExchange now => Sys2Proof.Machine.execAlltaskExchange now s
  | .forceSet w => Sys2Proof.Machine.execForceSet w s
  | .forceClear w => Sys2Proof.Machine.execForceClear w s
  | .forceClearAll w => Sys2Proof.Machine.execForceClearAll w s
  | .ringCycleStart r now => Sys2Proof.Machine.execRingCycleStart r now s
  | .cycFrameReturn r leg f now => Sys2Proof.Machine.execCycFrameReturn r leg f now s
  | .monFrameCheck r now => Sys2Proof.Machine.execMonFrameCheck r now s
  | .ringCycleInputsComplete r now => Sys2Proof.Machine.execRingCycleInputsComplete r now s
  | .ringLinksAligned r now => Sys2Proof.Machine.execRingLinksAligned r now s
  | .enumerationComplete r e now => Sys2Proof.Machine.execEnumerationComplete r e now s
  | .ringLostRetrain r now => Sys2Proof.Machine.execRingLostRetrain r now s
  | .stnAqsubSubmit r w => Sys2Proof.Machine.execStnAqsubSubmit r w s
  | .acrReceived r tag a now => Sys2Proof.Machine.execAcrReceived r tag a now s
  | .acyclicTimeout r tag now => Sys2Proof.Machine.execAcyclicTimeout r tag now s
  | .hbFrameReceived h r now => Sys2Proof.Machine.execHbFrameReceived h r now s
  | .hbPath2Record r now => Sys2Proof.Machine.execHbPath2Record r now s
  | .heartbeatSend now => Sys2Proof.Machine.execHeartbeatSend now s
  | .statusFrameSend now => Sys2Proof.Machine.execStatusFrameSend now s
  | .tokenReceived h t k now => Sys2Proof.Machine.execTokenReceived h t k now s
  | .inpartReceived h t bits words now => Sys2Proof.Machine.execInpartReceived h t bits words now s
  | .ledgerReceived h l now => Sys2Proof.Machine.execLedgerReceived h l now s
  | .retractReceived h t index now => Sys2Proof.Machine.execRetractReceived h t index now s
  | .endmkReceived h t num how code now => Sys2Proof.Machine.execEndmkReceived h t num how code now s
  | .hashReceived h t num hash now => Sys2Proof.Machine.execHashReceived h t num hash now s
  | .stageReceived h t addr value num now => Sys2Proof.Machine.execStageReceived h t addr value num now s
  | .statusReceived h rings build staged crc ofs now => Sys2Proof.Machine.execStatusReceived h rings build staged crc ofs now s
  | .rspageReceived h page data now => Sys2Proof.Machine.execRspageReceived h page data now s
  | .rsctlReceived h r now => Sys2Proof.Machine.execRsctlReceived h r now s
  | .replayTimeout now => Sys2Proof.Machine.execReplayTimeout now s
  | .laneAlignmentLost lane now => Sys2Proof.Machine.execLaneAlignmentLost lane now s
  | .heartbeatPathLost path2 now => Sys2Proof.Machine.execHeartbeatPathLost path2 now s
  | .path1LossConfirm now => Sys2Proof.Machine.execPath1LossConfirm now s
  | .ilkLineFault out now => Sys2Proof.Machine.execIlkLineFault out now s
  | .ilkFaultClear out now => Sys2Proof.Machine.execIlkFaultClear out now s
  | .claimBegin now => Sys2Proof.Machine.execClaimBegin now s
  | .claimSample now => Sys2Proof.Machine.execClaimSample now s
  | .claimUnit0Confirm now => Sys2Proof.Machine.execClaimUnit0Confirm now s
  | .claimWithdrawTimeout now => Sys2Proof.Machine.execClaimWithdrawTimeout now s
  | .arbGntNGrant now => Sys2Proof.Machine.execArbGntNGrant now s
  | .arbCanAnswer grant pid nonce now => Sys2Proof.Machine.execArbCanAnswer grant pid nonce now s
  | .arbTimeout now => Sys2Proof.Machine.execArbTimeout now s
  | .hsbResync w => Sys2Proof.Machine.execHsbResync w s
  | .hsbRsabort w => Sys2Proof.Machine.execHsbRsabort w s
  | .hsbHandover w => Sys2Proof.Machine.execHsbHandover w s
  | .hsbLgcstart w => Sys2Proof.Machine.execHsbLgcstart w s
  | .hsbLgcabort w => Sys2Proof.Machine.execHsbLgcabort w s
  | .hsbArbclr w => Sys2Proof.Machine.execHsbArbclr w s
  | .handoverAckTimeout now => Sys2Proof.Machine.execHandoverAckTimeout now s
  | .handoverSilenceEnd now => Sys2Proof.Machine.execHandoverSilenceEnd now s
  | .resyncPassEnd now => Sys2Proof.Machine.execResyncPassEnd now s
  | .resyncJoinComplete now => Sys2Proof.Machine.execResyncJoinComplete now s
  | .resyncTimeout now => Sys2Proof.Machine.execResyncTimeout now s
  | .legacyStateBlock b now => Sys2Proof.Machine.execLegacyStateBlock b now s
  | .legacyHandoverRecord r now => Sys2Proof.Machine.execLegacyHandoverRecord r now s
  | .faultReport f now => Sys2Proof.Machine.execFaultReport f now s
  | .rotationWindowStart now => Sys2Proof.Machine.execRotationWindowStart now s
  | .rotationSegmentComplete e pass now => Sys2Proof.Machine.execRotationSegmentComplete e pass now s
  | .rotationForceDeadline now => Sys2Proof.Machine.execRotationForceDeadline now s
  | .spareTestStart now => Sys2Proof.Machine.execSpareTestStart now s
  | .spareTestComplete p pass now => Sys2Proof.Machine.execSpareTestComplete p pass now s
  | .coreTestStart m now => Sys2Proof.Machine.execCoreTestStart m now s
  | .coreTestComplete m pass now => Sys2Proof.Machine.execCoreTestComplete m pass now s
  | .blockCheckStart b now => Sys2Proof.Machine.execBlockCheckStart b now s
  | .blockCheckComplete b pass now => Sys2Proof.Machine.execBlockCheckComplete b pass now s
  | .scrubSweepStart now => Sys2Proof.Machine.execScrubSweepStart now s
  | .scrubWordCheck ecc bit now => Sys2Proof.Machine.execScrubWordCheck ecc bit now s
  | .defectMapEntryWrite ok now => Sys2Proof.Machine.execDefectMapEntryWrite ok now s
  | .fltDmClear w => Sys2Proof.Machine.execFltDmClear w s
  | .canOpmodeApply n now => Sys2Proof.Machine.execCanOpmodeApply n now s
  | .canRecover n w => Sys2Proof.Machine.execCanRecover n w s
  | .canAbortall n w => Sys2Proof.Machine.execCanAbortall n w s
  | .canEnable n w => Sys2Proof.Machine.execCanEnable n w s
  | .canDisable n w => Sys2Proof.Machine.execCanDisable n w s
  | .canTxreq n w => Sys2Proof.Machine.execCanTxreq n w s
  | .canTxabort n w => Sys2Proof.Machine.execCanTxabort n w s
  | .canClrnew n w => Sys2Proof.Machine.execCanClrnew n w s
  | .canFifocfgWrite n f w => Sys2Proof.Machine.execCanFifocfgWrite n f w s
  | .canTxAttemptStart n now => Sys2Proof.Machine.execCanTxAttemptStart n now s
  | .canTxAttemptEnd n r now => Sys2Proof.Machine.execCanTxAttemptEnd n r now s
  | .canFrameReceived n f now => Sys2Proof.Machine.execCanFrameReceived n f now s
  | .canBusError n e now => Sys2Proof.Machine.execCanBusError n e now s
  | .canRecoveryCountDone n now => Sys2Proof.Machine.execCanRecoveryCountDone n now s
  | .hostLinkReset now => Sys2Proof.Machine.execHostLinkReset now s
  | .mbxH2cset w => Sys2Proof.Machine.execMbxH2cset w s
  | .mbxH2cdbClear w => Sys2Proof.Machine.execMbxH2cdbClear w s
  | .mbxC2hset w => Sys2Proof.Machine.execMbxC2hset w s
  | .mbxC2hdbClear w => Sys2Proof.Machine.execMbxC2hdbClear w s
  | .msixPendingDeliver masked on now => Sys2Proof.Machine.execMsixPendingDeliver masked on now s
  | .mbxChpost k w => Sys2Proof.Machine.execMbxChpost k w s
  | .mbxChpop k w => Sys2Proof.Machine.execMbxChpop k w s
  | .mbxChcfgWrite k w => Sys2Proof.Machine.execMbxChcfgWrite k w s
  | .mbxWdataWrite k w => Sys2Proof.Machine.execMbxWdataWrite k w s
  | .mbxWtakeRead k agent now => Sys2Proof.Machine.execMbxWtakeRead k agent now s
  | .recorderPost k w => Sys2Proof.Machine.execRecorderPost k w s
  | .recorderAccumulate now => Sys2Proof.Machine.execRecorderAccumulate now s
  | .recordIntervalClose code now => Sys2Proof.Machine.execRecordIntervalClose code now s
  | .recordEarlyClose code now => Sys2Proof.Machine.execRecordEarlyClose code now s
  | .recordDeferredClose code now => Sys2Proof.Machine.execRecordDeferredClose code now s
  | .recorderDrainStart now => Sys2Proof.Machine.execRecorderDrainStart now s
  | .recorderSectorWritten ok now => Sys2Proof.Machine.execRecorderSectorWritten ok now s
  | .keepAreaWritten ok now => Sys2Proof.Machine.execKeepAreaWritten ok now s
  | .recorderNextseqFound now => Sys2Proof.Machine.execRecorderNextseqFound now s
  | .tailRestoreComplete now => Sys2Proof.Machine.execTailRestoreComplete now s
  | .recDrain w => Sys2Proof.Machine.execRecDrain w s
  | .recCloseall w => Sys2Proof.Machine.execRecCloseall w s
  | .recCommission w => Sys2Proof.Machine.execRecCommission w s
  | .recRdseqWrite w => Sys2Proof.Machine.execRecRdseqWrite w s
  | .recordFetchComplete ok now => Sys2Proof.Machine.execRecordFetchComplete ok now s
  | .recRdwin15AutoRead agent now => Sys2Proof.Machine.execRecRdwin15AutoRead agent now s
  | .nvsWrite w => Sys2Proof.Machine.execNvsWrite w s
  | .nvsRead w => Sys2Proof.Machine.execNvsRead w s
  | .nvsInval w => Sys2Proof.Machine.execNvsInval w s
  | .nvsRelock w => Sys2Proof.Machine.execNvsRelock w s
  | .nvsRecordCmdComplete ok ecc now => Sys2Proof.Machine.execNvsRecordCmdComplete ok ecc now s
  | .nvsCntinc ok w => Sys2Proof.Machine.execNvsCntinc ok w s
  | .nvsCntlRead agent now => Sys2Proof.Machine.execNvsCntlRead agent now s
  | .nvsPwEnter w => Sys2Proof.Machine.execNvsPwEnter w s
  | .nvsPwChange ok w => Sys2Proof.Machine.execNvsPwChange ok w s
  | .retentiveAreaArmed now => Sys2Proof.Machine.execRetentiveAreaArmed now s
  | .tailAreaArmed now => Sys2Proof.Machine.execTailAreaArmed now s
  | .rtcSecondBoundary now => Sys2Proof.Machine.execRtcSecondBoundary now s
  | .rtcTake w => Sys2Proof.Machine.execRtcTake w s
  | .rtcArm w => Sys2Proof.Machine.execRtcArm w s
  | .rtcCancel w => Sys2Proof.Machine.execRtcCancel w s
  | .trimSlotEnd now => Sys2Proof.Machine.execTrimSlotEnd now s
  | .vbatMeasure mv now => Sys2Proof.Machine.execVbatMeasure mv now s
  | .ppsEdge now => Sys2Proof.Machine.execPpsEdge now s
  | .ppsLossTimeout now => Sys2Proof.Machine.execPpsLossTimeout now s
  | .wdiService now => Sys2Proof.Machine.execWdiService now s
  | .wdgFirstPeriodEnd now => Sys2Proof.Machine.execWdgFirstPeriodEnd now s
  | .wdgSecondPeriodEnd now => Sys2Proof.Machine.execWdgSecondPeriodEnd now s
  | .watchdogReset now => Sys2Proof.Machine.execWatchdogReset now s
  | .wdgKeyWrite w => Sys2Proof.Machine.execWdgKeyWrite w s
  | .wdgCtlWrite w => Sys2Proof.Machine.execWdgCtlWrite w s
  | .mimEnSet w => Sys2Proof.Machine.execMimEnSet w s
  | .mimFrameBoundary ack again now => Sys2Proof.Machine.execMimFrameBoundary ack again now s
  | .mimFill w => Sys2Proof.Machine.execMimFill w s
  | .mimCopy w => Sys2Proof.Machine.execMimCopy w s
  | .mimFlush w => Sys2Proof.Machine.execMimFlush w s
  | .mimStagingComplete now => Sys2Proof.Machine.execMimStagingComplete now s
  | .mimBatchCommit now => Sys2Proof.Machine.execMimBatchCommit now s
  | .mimSensorReading r now => Sys2Proof.Machine.execMimSensorReading r now s
  | .crackStep s0 s1 now => Sys2Proof.Machine.execCrackStep s0 s1 now s
  | .feedLost f now => Sys2Proof.Machine.execFeedLost f now s
  | .feedGood f now => Sys2Proof.Machine.execFeedGood f now s
  | .autoReturn d now => Sys2Proof.Machine.execAutoReturn d now s
  | .feedCompare mv now => Sys2Proof.Machine.execFeedCompare mv now s
  | .tempSensorUpdate tj now => Sys2Proof.Machine.execTempSensorUpdate tj now s
  | .turnstileGrant cls now => Sys2Proof.Machine.execTurnstileGrant cls now s
  | .pwrBudgetWrite w => Sys2Proof.Machine.execPwrBudgetWrite w s
  | .intermissionEntryComplete now => Sys2Proof.Machine.execIntermissionEntryComplete now s
  | .wakeSource k now => Sys2Proof.Machine.execWakeSource k now s
  | .intermissionExitComplete now => Sys2Proof.Machine.execIntermissionExitComplete now s
  | .powerFailTrigger pin now => Sys2Proof.Machine.execPowerFailTrigger pin now s
  | .flushComplete now => Sys2Proof.Machine.execFlushComplete now s
  | .flushRecoveryReset now => Sys2Proof.Machine.execFlushRecoveryReset now s
  | .updWrite media layout w => Sys2Proof.Machine.execUpdWrite media layout w s
  | .updWriteComplete ok now => Sys2Proof.Machine.execUpdWriteComplete ok now s
  | .updArm w => Sys2Proof.Machine.execUpdArm w s
  | .updPreloadComplete tables now => Sys2Proof.Machine.execUpdPreloadComplete tables now s
  | .updDisarm w => Sys2Proof.Machine.execUpdDisarm w s
  | .updCoreOk w => Sys2Proof.Machine.execUpdCoreOk w s
  | .updConfirm w => Sys2Proof.Machine.execUpdConfirm w s
  | .updActivationInstant now => Sys2Proof.Machine.execUpdActivationInstant now s
  | .updCoreokTimeout now => Sys2Proof.Machine.execUpdCoreokTimeout now s
  | .updConfirmWindowEnd now => Sys2Proof.Machine.execUpdConfirmWindowEnd now s
  | .updAgreeAnswer id kind agree now => Sys2Proof.Machine.execUpdAgreeAnswer id kind agree now s
  | .grdPropose w => Sys2Proof.Machine.execGrdPropose w s
  | .grdAgree w => Sys2Proof.Machine.execGrdAgree w s
  | .keySlotWrite now => Sys2Proof.Machine.execKeySlotWrite now s
  | .grdWithdraw w => Sys2Proof.Machine.execGrdWithdraw w s
  | .grdLockdbg w => Sys2Proof.Machine.execGrdLockdbg w s
  | .proposalExpiry now => Sys2Proof.Machine.execProposalExpiry now s
  | .grantExpiry now => Sys2Proof.Machine.execGrantExpiry now s
  | .debugUnlockExpiry now => Sys2Proof.Machine.execDebugUnlockExpiry now s
  | .refusalSecondEnd now => Sys2Proof.Machine.execRefusalSecondEnd now s
  | .fenceNReleased now => Sys2Proof.Machine.execFenceNReleased now s
  | .ilkInChange lineT lineC now => Sys2Proof.Machine.execIlkInChange lineT lineC now s
  | .monFrameReturned r now => Sys2Proof.Machine.execMonFrameReturned r now s
  | .syncLaneAligned lane now => Sys2Proof.Machine.execSyncLaneAligned lane now s
  | .hostLinkDown now => Sys2Proof.Machine.execHostLinkDown now s
  | .hostLinkUp speed width now => Sys2Proof.Machine.execHostLinkUp speed width now s
  | .legacyTimeout now => Sys2Proof.Machine.execLegacyTimeout now s
  | .commissionComplete now => Sys2Proof.Machine.execCommissionComplete now s
  | .backupDomainBrownout now => Sys2Proof.Machine.execBackupDomainBrownout now s
  | .canBusIntegrated n now => Sys2Proof.Machine.execCanBusIntegrated n now s

end Sys2Proof.Machine
end

