-- ==== Sys2Proof/Machine/Balls.lean ====
section
/-! DEFINITION. The levels of the balls in reset and LOAD (R493, Table 21.6), and those that the model follows after it. -/

namespace Sys2Proof.Machine

/-- What a transmit ball does: it rests at differential 0 V or in electrical idle, or its block drives it. -/
inductive Drive where
  | idle
  | block
deriving DecidableEq, Repr

/-- The levels of the output balls (Table 21.6); none where the waveform is the owning block's. CAN*n*_TX stands for the four of them, and `rings`,
`sync`, `panel` and `host` for the pairs SRx_TXk, SY_TXk, PNL and PE_TXk. -/
structure Balls where
  ilkT : Bool
  ilkC : Bool
  arbReqN : Bool
  wdo : Bool
  row : RowPins
  hbTx : Option Bool
  crkDrv : Option Bool
  canTx : Option Bool
  xspiCsN : Option Bool
  xspiResetN : Bool
  emmcRstN : Option Bool
  mimReleased : Option Bool
  tdoHighZ : Option Bool
  rings : Drive
  sync : Drive
  panel : Drive
  host : Drive
deriving DecidableEq, Repr

/-- The chip is in a reset or in LOAD. -/
def Chip.inLoad (c : Chip) : Bool := c.mode == mLOAD || c.sys.held != .no

/-- The balls now: in reset and LOAD at the states of Table 21.6. XSPI_RESET_N pulses low for 10 µs at the boot ROM's first access, and EMMC_RST_N
rises with the first use of the device. -/
def Chip.balls (c : Chip) : Balls :=
  let load := c.inLoad
  let own (v : Bool) : Option Bool := if load then some v else none
  let drive : Drive := if load then .idle else .block
  { ilkT := c.flag HSB_ILK.OUTT
    ilkC := !c.flag HSB_ILK.OUTT
    arbReqN := !c.hsb.arbReq
    wdo := !load && c.flag WDG_STAT.WDOLVL
    row := if load then ⟨false, false, false⟩ else c.rowPins
    hbTx := own false
    crkDrv := own false
    canTx := own true
    xspiCsN := own true
    xspiResetN := !(c.pins.xspiAt.any fun t => c.t < t.toNat + 10000)
    emmcRstN := if c.pins.emmcUsed then none else some false
    mimReleased := own true
    tdoHighZ := own true
    rings := drive
    sync := drive
    panel := drive
    host := drive }

end Sys2Proof.Machine
end

