-- ==== Sys2Proof/Safety.lean ====
section
/-! DEFINITION. What claims about a run are stated in: the canonical form of the arrays, and safe runs. -/

namespace Sys2Proof.Safety

open Sys2Proof.Machine

/-- The image stores are in canonical form: an unlisted word reads 0. -/
def imgWf (m : Img) : Bool :=
  spWf (fun _ => 0) m.wI && spWf (fun _ => 0) m.wQ && spWf (fun _ => 0) m.curB && spWf (fun _ => 0) m.curW &&
    spWf (fun _ => 0) m.rxB && spWf (fun _ => 0) m.rxW && spWf (fun _ => 0) m.txB && spWf (fun _ => 0) m.txW &&
    spWf (fun _ => 0) m.outB && spWf (fun _ => 0) m.outW && spWf (fun _ => 0) m.lastB

/-- Memory, the register file and the image stores are in canonical form, so that equal contents are equal data. -/
abbrev Canonical (s : State) : Prop :=
  Memory.wf s.chip.mem = true ∧ spWf regReset s.chip.regs = true ∧ imgWf s.chip.img = true

/-- The bounds of the hardware: admitted operations and slots, and one request and one operation of a requester in a class (R445); 256 entries of a return
stack (R70, R87); 16 of a pointer channel (R340). -/
def WithinBounds (c : Chip) : Prop :=
  (∀ cls, (c.turn.filter fun a => a.cls == cls && a.admitted).length ≤ turnSlots cls) ∧
  (c.turn.map fun a => (a.cls, a.who, a.admitted)).Nodup ∧
  (∀ p, (c.ph p).stack.length ≤ 256 ∧ (c.ph p).shStack.length ≤ 256) ∧ (∀ m, (c.core m).stack.length ≤ 256) ∧
  ∀ k : Fin 28, c.mbx.queues[k].length ≤ 16

/-- The chip is neither held after a power-fail flush nor in power-on reset (R455, R490). -/
abbrev Powered (s : State) : Prop := s.chip.sys.held = .no

/-- The state whose chip is `c`, with the queue as it was. -/
def at_ (s : State) (c : Chip) : State := { s with chip := c }

/-- The command answers a next state with the queue as it was and a chip of which `P` holds. -/
def Leads (i : Instr) (s : State) (P : Chip → Prop) : Prop := ∃ t, exec i s = .next t ∧ t.pending = s.pending ∧ P t.chip

/-! ### Commands of the block -/

/-- The chip at the instant of an event. -/
def came (s : State) (now : Time) : Chip := s.chip.arrive now

/-- The chip when a write comes that its agent may make: a host's sets its wake bit (R450), and the write completes without error. -/
def written (s : State) (w : Cmd) : Chip := ((s.chip.arrive w.now).hostWake w.agent).answer []

/-- On a powered chip the command leads to exactly `c`, with the queue as it was. -/
def Does (s : State) (i : Instr) (c : Chip) : Prop := Powered s → exec i s = .next (at_ s c)

/-- The host reaches the chip (R330, R334, R496), and its write wakes nothing (Table 18.4): REFCLK runs, the function is not in D3hot, and the mode
is neither LOAD nor that of a chip asleep. -/
abbrev HostReaches (s : State) : Prop :=
  s.chip.pins.refclk = true ∧ s.chip.mbx.pci.d3hot = false ∧ s.chip.mode ≠ mLOAD ∧ s.chip.asleep = false

/-- The writer is a management core, or the host where it reaches the chip. -/
abbrev ByMcHost (s : State) (w : Cmd) : Prop := isMc w.agent = true ∨ (isHost w.agent = true ∧ HostReaches s)

/-! ### Kazhin instructions on a scan engine -/

/-- The chip at the instant of an instruction's issue. -/
def issued (s : State) (o : Op) : Chip := s.chip.arrive o.now

/-- The registers of task `t` before an instruction. -/
def regsOf (s : State) (o : Op) (t : Fin 32) : Ctx := ((issued s o).task t).ctx

/-- What the primary copy of task `t` on engine `p` sees. -/
def view (s : State) (o : Op) (opc : Nat) (t : Fin 32) (p : Fin 18) : KIn :=
  (issued s o).kin t p false false opc o.am o.opd o.ext (regsOf s o t)

/-- Logical engine `e`, on physical engine `p`, issues the instruction for task `t`, outside a block repeat: nothing keeps it from
issuing, the fetch is admitted and the encoding is not reserved, memory reads without error, and the condition holds. -/
abbrev Issues (s : State) (o : Op) (opc : Nat) (e : Fin 16) (t : Fin 32) (p : Fin 18) : Prop :=
  Powered s ∧ o.x = .le e ∧ o.ecc = .ok ∧ (issued s o).canIssue e = some (t, p) ∧
  (issued s o).fetchExc p opc o (regsOf s o t).pc = none ∧ condHolds o.cond (regsOf s o t).flg (regsOf s o t).ba = true ∧
  ((issued s o).task t).waiting = false ∧ ((issued s o).task t).inBlock = false ∧ ((issued s o).task t).admitted = false ∧
  ((issued s o).task t).resumed = false

/-- The same of a SINGLE task. -/
abbrev Runs (s : State) (o : Op) (opc : Nat) (e : Fin 16) (t : Fin 32) (p : Fin 18) : Prop :=
  Issues s o opc e t p ∧ ((issued s o).task t).paired = false

/-- `n` more steps stay within the step budget of the task (R145). -/
abbrev InBudget (s : State) (o : Op) (t : Fin 32) (n : Nat) : Prop :=
  ((issued s o).task t).steps + n ≤ (issued s o).get (SCN_TBUD.TBUD t)

/-- The address of the next instruction (R94). -/
def nextAddr (s : State) (o : Op) (opc : Nat) (t : Fin 32) : Word := (regsOf s o t).pc + (if hasExt opc o.am then 8 else 4)

/-- The state in which the task has registers `x` and `n` more steps, and nothing else but TB has changed. -/
def ranTo (s : State) (o : Op) (t : Fin 32) (x : Ctx) (n : Nat) : State :=
  at_ s ((issued s o).modTask t fun k => { k with ctx := x, steps := k.steps + n })

/-- A SINGLE task runs an instruction with the 32-bit operand `b` in `n` steps and the surcharge, within its budget. -/
abbrev RunsWord (s : State) (o : Op) (opc : Nat) (e : Fin 16) (t : Fin 32) (p : Fin 18) (b : Word) (n : Nat) : Prop :=
  Runs s o opc e t p ∧ (view s o opc t p).word = .ok b ∧ InBudget s o t (n + (view s o opc t p).s)

/-- The same with a 64-bit operand. -/
abbrev RunsLong (s : State) (o : Op) (opc : Nat) (e : Fin 16) (t : Fin 32) (p : Fin 18) (b : Long) (n : Nat) : Prop :=
  Runs s o opc e t p ∧ (view s o opc t p).long = .ok b ∧ InBudget s o t (n + (view s o opc t p).sL)

/-- A SINGLE task runs an instruction without memory operand in `n` steps. -/
abbrev RunsIn (s : State) (o : Op) (opc : Nat) (e : Fin 16) (t : Fin 32) (p : Fin 18) (n : Nat) : Prop :=
  Runs s o opc e t p ∧ InBudget s o t n

/-- Where a 32-bit operation of `n` steps with operand leads. -/
def wordTo (s : State) (o : Op) (opc : Nat) (t : Fin 32) (p : Fin 18) (n : Nat) (x : Ctx) : Host.Outcome State Fault Refusal :=
  .next (ranTo s o t { x with pc := nextAddr s o opc t } (n + (view s o opc t p).s))

/-- Where a 64-bit operation of `n` steps with operand leads. -/
def longTo (s : State) (o : Op) (opc : Nat) (t : Fin 32) (p : Fin 18) (n : Nat) (x : Ctx) : Host.Outcome State Fault Refusal :=
  .next (ranTo s o t { x with pc := nextAddr s o opc t } (n + (view s o opc t p).sL))

/-- Where an operation of `n` steps without memory operand leads. -/
def plainTo (s : State) (o : Op) (opc : Nat) (t : Fin 32) (n : Nat) (x : Ctx) : Host.Outcome State Fault Refusal :=
  .next (ranTo s o t { x with pc := nextAddr s o opc t } n)

/-- The integer is outside the signed range of `w` bits. -/
def overflows (w : Nat) (i : Int) : Bool := i < -(2 : Int) ^ (w - 1) || (2 : Int) ^ (w - 1) ≤ i

/-- Between two chips, task `t` has gone to registers `x` in `n` more steps, and every control register, image store and return stack is as it
was. -/
def TaskWent (c c' : Chip) (t : Fin 32) (x : Ctx) (n : Nat) : Prop :=
  c'.tasks = (c.modTask t fun k => { k with ctx := x, steps := k.steps + n }).tasks ∧ c'.regs = c.regs ∧ c'.img = c.img ∧ c'.phys = c.phys

/-- Between two chips, the `n` bytes from address `a` have taken the value `v`, little-endian, and every other byte is as it was. -/
def BytesTook (c c' : Chip) (a n v : Nat) : Prop :=
  c'.ld a n = v % 2 ^ (8 * n) ∧ ∀ b, b < a ∨ a + n ≤ b → c'.ldB b = c.ldB b

/-- Between two chips, bit `b` of the bit space has taken the value `v`, and every other bit and every byte outside the bit store's view of it is
as it was. -/
def BitTook (c c' : Chip) (b : Nat) (v : Bool) : Prop :=
  c'.ldBit b = v ∧ (∀ i, i ≠ b → c'.ldBit i = c.ldBit i) ∧ ∀ a, a ≠ 0x28000000 + b / 8 → c'.ldB a = c.ldB a

/-- No byte of memory has changed. -/
def BytesKept (c c' : Chip) : Prop := ∀ a, c'.ldB a = c.ldB a

/-- A SINGLE task, outside a warm-up scan, runs an instruction in `n` steps; memory is in canonical form, as it always is. -/
abbrev RunsStore (s : State) (o : Op) (opc : Nat) (e : Fin 16) (t : Fin 32) (p : Fin 18) (n : Nat) : Prop :=
  RunsIn s o opc e t p n ∧ ((issued s o).task t).warm = false ∧ Memory.wf s.chip.mem = true

/-- A SINGLE task, outside a warm-up scan, issues a block repeat that needs no admission, has it, or is already under way, within its budget. -/
abbrev RunsBlock (s : State) (o : Op) (opc : Nat) (e : Fin 16) (t : Fin 32) (p : Fin 18) (n : Nat) : Prop :=
  Powered s ∧ o.x = .le e ∧ o.ecc = .ok ∧ (issued s o).canIssue e = some (t, p) ∧
    (issued s o).fetchExc p opc o (regsOf s o t).pc = none ∧ condHolds o.cond (regsOf s o t).flg (regsOf s o t).ba = true ∧
    ((issued s o).task t).paired = false ∧ ((issued s o).task t).warm = false ∧
    (((issued s o).task t).inBlock = true ∨ needsAdmission opc o.opd (regsOf s o t) = false ∨ (issued s o).turnHas 4 (.le e) = true) ∧
    Memory.wf s.chip.mem = true ∧ InBudget s o t ((if ((issued s o).task t).inBlock || ((issued s o).task t).resumed then 0 else 2) + n)

/-- The steps of an element: `n`, and the setup where the issue begins with it (R117); that of an issue resumed after a switch is the switch's
(R126). -/
def blockSteps (s : State) (o : Op) (t : Fin 32) (n : Nat) : Nat :=
  (if ((issued s o).task t).inBlock || ((issued s o).task t).resumed then 0 else 2) + n

/-- After an element that advanced BRS by `ds` and BRD by `dd`: BRC has fallen by 1, PC goes on after the last element alone, and an admission for
which the task waited is its own until then (R119). -/
def ElementDone (s : State) (o : Op) (e : Fin 16) (t : Fin 32) (ds dd n : Nat) (f : BitVec 5) (c' : Chip) : Prop :=
  let c := issued s o
  let x := regsOf s o t
  let last := x.brc = 1
  let own := (c.task t).waiting || (c.task t).admitted
  (c'.task t).ctx = { x with brc := x.brc - 1, brs := x.brs + BitVec.ofNat 32 ds, brd := x.brd + BitVec.ofNat 32 dd, flg := f,
                             pc := if last then x.pc + 4 else x.pc } ∧
  (c'.task t).inBlock = decide (¬last) ∧ (c'.task t).steps = (c.task t).steps + blockSteps s o t n ∧
  (c'.task t).waiting = false ∧ (c'.task t).admitted = (own && !decide last) ∧
  c'.turn = (if own && decide last then c.turnEnd 4 (.le e) else c).turn ∧
  c'.regs = c.regs ∧ ∀ u, u ≠ t → c'.task u = c.task u

/-! ### The instructions that issue alike -/

/-- Instructions with their OPC and meaning, part 0. -/
def issueRows0 : List ((Op → Instr) × Nat × Sem) :=
  [(.nop, 0x00, semNop),
   (.ldsb, 0x01, (semLoad 1 fun x v => { x with acc := (v.setWidth 8).signExtend 32 })),
   (.ldub, 0x02, (semLoad 1 fun x v => { x with acc := (v.setWidth 8).setWidth 32 })),
   (.ldsh, 0x03, (semLoad 2 fun x v => { x with acc := (v.setWidth 16).signExtend 32 })),
   (.lduh, 0x04, (semLoad 2 fun x v => { x with acc := (v.setWidth 16).setWidth 32 })),
   (.ldw, 0x05, (semWord fun x v => { x with acc := v })),
   (.ldl, 0x06, semLdl),
   (.ldah, 0x07, (semWord fun x v => { x with ach := v })),
   (.stby, 0x08, (semStore 1 fun x => (x.acc.setWidth 8).setWidth 64)),
   (.sthw, 0x09, (semStore 2 fun x => (x.acc.setWidth 16).setWidth 64)),
   (.stw, 0x0A, semStw),
   (.stl, 0x0B, (semStore 8 Ctx.long)),
   (.stah, 0x0C, (semStore 4 fun x => x.ach.setWidth 64)),
   (.lea, 0x0D, semLea),
   (.psh, 0x0E, semPsh),
   (.pop, 0x0F, semPopAcc),
   (.movr, 0x10, semMovr),
   (.ldx, 0x29, (semWord fun x v => { x with ix := v })),
   (.ldy, 0x2A, (semWord fun x v => { x with iy := v })),
   (.stx, 0x2B, (semStore 4 fun x => x.ix.setWidth 64)),
   (.sty, 0x2C, (semStore 4 fun x => x.iy.setWidth 64)),
   (.sel, 0x3E, (semWord fun x v => if x.ba then { x with acc := v } else x)),
   (.add, 0x11, (semAlu 1 fun x b => aluAdd x.flg x.acc b false)),
   (.adc, 0x12, (semAlu 1 fun x b => aluAdd x.flg x.acc b (fC x.flg))),
   (.sub, 0x13, (semAlu 1 fun x b => aluSub x.flg x.acc b false)),
   (.sbc, 0x14, (semAlu 1 fun x b => aluSub x.flg x.acc b (!fC x.flg))),
   (.rsb, 0x15, (semAlu 1 fun x b => aluSub x.flg b x.acc false)),
   (.muls, 0x16, (semMul true))]

/-- Instructions with their OPC and meaning, part 1. -/
def issueRows1 : List ((Op → Instr) × Nat × Sem) :=
  [(.mulu, 0x17, (semMul false)),
   (.divs, 0x18, semDivs),
   (.divu, 0x19, semDivu),
   (.neg, 0x1A, (semAlu1 fun x => aluSub x.flg 0 x.acc false)),
   (.abs, 0x1B, (semAlu1 fun x => aluAbs x.flg x.acc)),
   (.cmp, 0x1C, (semCmp fun x b => aluSub x.flg x.acc b false)),
   (.chk, 0x1D, semChk),
   (.adx, 0x1E, (semAdXY fun x v => { x with ix := x.ix + v })),
   (.ady, 0x1F, (semAdXY fun x v => { x with iy := x.iy + v })),
   (.andW, 0x20, (semAlu 1 fun x b => aluLog x.flg (x.acc &&& b))),
   (.orW, 0x21, (semAlu 1 fun x b => aluLog x.flg (x.acc ||| b))),
   (.xorW, 0x22, (semAlu 1 fun x b => aluLog x.flg (x.acc ^^^ b))),
   (.notW, 0x23, (semAlu1 fun x => aluLog x.flg (~~~x.acc))),
   (.shl, 0x24, (semShift .shl)),
   (.shr, 0x25, (semShift .shr)),
   (.sar, 0x26, (semShift .sar)),
   (.rol, 0x27, (semShift .rol)),
   (.ror, 0x28, (semShift .ror)),
   (.sext, 0x2D, (semExtend true)),
   (.zext, 0x2E, (semExtend false)),
   (.btw, 0x76, semBtw),
   (.bpw, 0x77, semBpw),
   (.addl, 0x30, (semAluL 2 fun x b => aluAdd x.flg x.long b false)),
   (.subl, 0x31, (semAluL 2 fun x b => aluSub x.flg x.long b false)),
   (.cmpl, 0x32, (semCmpL 2 fun x b => aluSub x.flg x.long b false)),
   (.negl, 0x33, (semAluL1 fun x => aluSub x.flg 0 x.long false)),
   (.mull, 0x34, (semAluL 6 mull)),
   (.divsl, 0x35, (semDivL divsl))]

/-- Instructions with their OPC and meaning, part 2. -/
def issueRows2 : List ((Op → Instr) × Nat × Sem) :=
  [(.remsl, 0x36, (semDivL fun x b => aluLog x.flg (x.long.srem b))),
   (.divul, 0x37, (semDivL fun x b => aluLog x.flg (x.long / b))),
   (.shfl, 0x38, semShfl),
   (.andl, 0x39, (semAluL 2 fun x b => aluLog x.flg (x.long &&& b))),
   (.orl, 0x3A, (semAluL 2 fun x b => aluLog x.flg (x.long ||| b))),
   (.xorl, 0x3B, (semAluL 2 fun x b => aluLog x.flg (x.long ^^^ b))),
   (.notl, 0x3C, (semAluL1 fun x => aluLog x.flg (~~~x.long))),
   (.cvt, 0x3D, semCvt),
   (.ldb, 0x40, (semBit fun _ v => v)),
   (.ldbn, 0x41, (semBit fun _ v => !v)),
   (.andb, 0x42, (semBit fun b v => b && v)),
   (.andbn, 0x43, (semBit fun b v => b && !v)),
   (.orb, 0x44, (semBit fun b v => b || v)),
   (.orbn, 0x45, (semBit fun b v => b || !v)),
   (.xorb, 0x46, (semBit fun b v => b != v)),
   (.stbt, 0x47, (semStBit fun x => x.ba)),
   (.stbn, 0x48, (semStBit fun x => !x.ba)),
   (.setb, 0x49, (semStBit fun _ => true)),
   (.rstb, 0x4A, (semStBit fun _ => false)),
   (.bao, 0x4B, semBao),
   (.pshb, 0x4C, (semPush 2 fun x => BitVec.ofNat 64 x.ba.toNat)),
   (.popb, 0x4D, semPopb),
   (.ldbb, 0x4E, (semLoad 1 fun x v => { x with ba := v.setWidth 8 != 0 })),
   (.stbb, 0x4F, (semStore 1 fun x => BitVec.ofNat 64 x.ba.toNat)),
   (.red, 0x5C, (semEdge fun b p => b && !p)),
   (.fed, 0x5D, (semEdge fun b p => !b && p)),
   (.br, 0x50, semBr),
   (.call, 0x51, semCall)]

/-- Instructions with their OPC and meaning, part 3. -/
def issueRows3 : List ((Op → Instr) × Nat × Sem) :=
  [(.cale, 0x52, semCale),
   (.cali, 0x53, semCali),
   (.ret, 0x54, semRet),
   (.ipa, 0x55, semIpa),
   (.aloc, 0x56, semAloc),
   (.ton, 0x58, (semTimer .ton)),
   (.tof, 0x59, (semTimer .tof)),
   (.tp, 0x5A, (semTimer .tp)),
   (.trs, 0x5B, semTrs),
   (.tsc, 0x5F, semTsc),
   (.fadd, 0x60, (semF 4 (b32.add false))),
   (.fsub, 0x61, (semF 4 (b32.add true))),
   (.fmul, 0x62, (semF 4 b32.mul)),
   (.fdiv, 0x63, (semF 14 b32.div)),
   (.fcmp, 0x64, semFcmp),
   (.fsqrt, 0x65, semFsqrt),
   (.fun, 0x66, semFun),
   (.dadd, 0x67, (semD 5 (b64.add false))),
   (.dsub, 0x68, (semD 5 (b64.add true))),
   (.dmul, 0x69, (semD 6 b64.mul)),
   (.ddiv, 0x6A, (semD 28 b64.div)),
   (.dcmp, 0x6B, semDcmp),
   (.dsqrt, 0x6C, semDsqrt),
   (.bmov, 0x70, semBmov),
   (.bfil, 0x71, semBfil),
   (.bcmp, 0x72, semBcmp),
   (.bbmv, 0x73, semBbmv),
   (.bbpk, 0x74, semBbpk)]

/-- Instructions with their OPC and meaning, part 4. -/
def issueRows4 : List ((Op → Instr) × Nat × Sem) :=
  [(.bbup, 0x75, semBbup)]

/-- Every instruction whose meaning is a function of what it sees (LDG, ENDT and the Kazhin-M instructions have their own). -/
def issueRows : List ((Op → Instr) × Nat × Sem) := issueRows0 ++ issueRows1 ++ issueRows2 ++ issueRows3 ++ issueRows4

end Sys2Proof.Safety
end

