-- ==== Sys2Proof/Certificates/Slice0/Obligations.lean ====
section
/-! DEFINITION. The statements for the provers. A result statement gives the whole next state: what it does not name has not changed. The events
and the commands of a block lead to a chip that is written with the operations of the model, and the register, memory and queue contents that the
rule gives are stated beside it. Where a value is the model's choice, the docstring names the log entry (notes/assumptions). -/

open Sys2Proof Sys2Proof.Machine Sys2Proof.Safety

/-- ADD, ADC, SUB, SBC, RSB, CMP, NEG and ABS of a SINGLE task (Table 4.5, R56, R82): the result wraps, Z and N come from it, C is the carry or the
absent borrow, V signed overflow, and V sets the sticky O; nothing but ACC, FLG, PC, the step count and TB changes. -/
def Obligations.IntegerArithmeticResults : Prop :=
  ∀ (s : State) (o : Op) (e : Fin 16) (t : Fin 32) (p : Fin 18) (b : Word),
    let x := regsOf s o t
    let a := x.acc
    let f := x.flg
    let flags (r : Word) (c : Bool) (exact : Int) : BitVec 5 :=
      mkFlg (r == 0) r.msb c (overflows 32 exact) (fO f || overflows 32 exact)
    (RunsWord s o 0x11 e t p b 1 → exec (.add o) s =
      wordTo s o 0x11 t p 1 { x with acc := a + b, flg := flags (a + b) (2 ^ 32 ≤ a.toNat + b.toNat) (a.toInt + b.toInt) }) ∧
    (RunsWord s o 0x12 e t p b 1 → exec (.adc o) s =
      wordTo s o 0x12 t p 1
        { x with acc := a + b + BitVec.ofNat 32 (fC f).toNat,
                 flg := flags (a + b + BitVec.ofNat 32 (fC f).toNat) (2 ^ 32 ≤ a.toNat + b.toNat + (fC f).toNat)
                   (a.toInt + b.toInt + (fC f).toNat) }) ∧
    (RunsWord s o 0x13 e t p b 1 → exec (.sub o) s =
      wordTo s o 0x13 t p 1 { x with acc := a - b, flg := flags (a - b) (b.toNat ≤ a.toNat) (a.toInt - b.toInt) }) ∧
    (RunsWord s o 0x14 e t p b 1 → exec (.sbc o) s =
      wordTo s o 0x14 t p 1
        { x with acc := a - b - BitVec.ofNat 32 (1 - (fC f).toNat),
                 flg := flags (a - b - BitVec.ofNat 32 (1 - (fC f).toNat)) (b.toNat + (1 - (fC f).toNat) ≤ a.toNat)
                   (a.toInt - b.toInt - (1 - (fC f).toNat : Nat)) }) ∧
    (RunsWord s o 0x15 e t p b 1 → exec (.rsb o) s =
      wordTo s o 0x15 t p 1 { x with acc := b - a, flg := flags (b - a) (a.toNat ≤ b.toNat) (b.toInt - a.toInt) }) ∧
    (RunsWord s o 0x1C e t p b 1 → exec (.cmp o) s =
      wordTo s o 0x1C t p 1 { x with flg := flags (a - b) (b.toNat ≤ a.toNat) (a.toInt - b.toInt) }) ∧
    (RunsIn s o 0x1A e t p 1 → exec (.neg o) s =
      plainTo s o 0x1A t 1 { x with acc := -a, flg := flags (-a) (a == 0) (-a.toInt) }) ∧
    (RunsIn s o 0x1B e t p 1 → exec (.abs o) s =
      plainTo s o 0x1B t 1
        { x with acc := BitVec.ofInt 32 |a.toInt|,
                 flg := mkFlg (a == 0) (a == 0x80000000) (fC f) (a == 0x80000000) (fO f || a == 0x80000000) })

/-- AND, OR, XOR, NOT, the five shifts, SEXT, ZEXT, BTW and BPW of a SINGLE task (Table 4.5, R107): the value, Z and N from it, C from the last bit
shifted out where a shift moves any, and every other flag kept. -/
def Obligations.LogicAndShiftResults : Prop :=
  ∀ (s : State) (o : Op) (e : Fin 16) (t : Fin 32) (p : Fin 18) (b : Word),
    let x := regsOf s o t
    let a := x.acc
    let f := x.flg
    let n := b.toNat % 64
    let zn (r : Word) : BitVec 5 := mkFlg (r == 0) r.msb (fC f) (fV f) (fO f)
    let znc (r : Word) (c : Bool) : BitVec 5 := mkFlg (r == 0) r.msb c (fV f) (fO f)
    (RunsWord s o 0x20 e t p b 1 → exec (.andW o) s = wordTo s o 0x20 t p 1 { x with acc := a &&& b, flg := zn (a &&& b) }) ∧
    (RunsWord s o 0x21 e t p b 1 → exec (.orW o) s = wordTo s o 0x21 t p 1 { x with acc := a ||| b, flg := zn (a ||| b) }) ∧
    (RunsWord s o 0x22 e t p b 1 → exec (.xorW o) s = wordTo s o 0x22 t p 1 { x with acc := a ^^^ b, flg := zn (a ^^^ b) }) ∧
    (RunsIn s o 0x23 e t p 1 → exec (.notW o) s = plainTo s o 0x23 t 1 { x with acc := ~~~a, flg := zn (~~~a) }) ∧
    (RunsWord s o 0x24 e t p b 1 → exec (.shl o) s =
      wordTo s o 0x24 t p 1
        { x with acc := a <<< n,
                 flg := znc (a <<< n) (if n = 0 then fC f else if n ≤ 32 then a.getLsbD (32 - n) else false) }) ∧
    (RunsWord s o 0x25 e t p b 1 → exec (.shr o) s =
      wordTo s o 0x25 t p 1
        { x with acc := a >>> n, flg := znc (a >>> n) (if n = 0 then fC f else a.getLsbD (n - 1)) }) ∧
    (RunsWord s o 0x26 e t p b 1 → exec (.sar o) s =
      wordTo s o 0x26 t p 1
        { x with acc := a.sshiftRight n,
                 flg := znc (a.sshiftRight n) (if n = 0 then fC f else if n < 32 then a.getLsbD (n - 1) else a.msb) }) ∧
    (RunsWord s o 0x27 e t p b 1 → exec (.rol o) s =
      wordTo s o 0x27 t p 1
        { x with acc := a.rotateLeft n,
                 flg := znc (a.rotateLeft n) (if n % 32 = 0 then fC f else (a.rotateLeft n).getLsbD 0) }) ∧
    (RunsWord s o 0x28 e t p b 1 → exec (.ror o) s =
      wordTo s o 0x28 t p 1
        { x with acc := a.rotateRight n,
                 flg := znc (a.rotateRight n) (if n % 32 = 0 then fC f else (a.rotateRight n).msb) }) ∧
    (RunsIn s o 0x2D e t p 1 → exec (.sext o) s =
      let r : Word := if o.opd = 0 then (a.setWidth 8).signExtend 32 else (a.setWidth 16).signExtend 32
      plainTo s o 0x2D t 1 { x with acc := r, flg := zn r }) ∧
    (RunsIn s o 0x2E e t p 1 → exec (.zext o) s =
      let r : Word := if o.opd = 0 then a &&& 0xFF else a &&& 0xFFFF
      plainTo s o 0x2E t 1 { x with acc := r, flg := zn r }) ∧
    (RunsIn s o 0x76 e t p 1 → exec (.btw o) s = plainTo s o 0x76 t 1 { x with ba := a.getLsbD o.opd.toNat }) ∧
    (RunsIn s o 0x77 e t p 1 → ∃ r : Word, exec (.bpw o) s = plainTo s o 0x77 t 1 { x with acc := r } ∧
      r.getLsbD o.opd.toNat = (o.opd.toNat < 32 && x.ba) ∧ ∀ i, i ≠ o.opd.toNat → r.getLsbD i = a.getLsbD i)

/-- MULS, MULU, DIVS, DIVU, ADX and ADY of a SINGLE task (R105, Table 4.5): the full product in ACH:ACC, V when it does not fit 32 bits; the quotient
truncated toward zero in ACC and the remainder in ACH; and index registers moved by the sign-extended OPD. -/
def Obligations.MultiplyDivideAndIndexResults : Prop :=
  ∀ (s : State) (o : Op) (e : Fin 16) (t : Fin 32) (p : Fin 18) (b : Word),
    let x := regsOf s o t
    let a := x.acc
    let f := x.flg
    (RunsWord s o 0x16 e t p b 3 → exec (.muls o) s =
      let m : Int := a.toInt * b.toInt
      wordTo s o 0x16 t p 3
        { x with acc := BitVec.ofInt 32 m, ach := (BitVec.ofInt 64 m).extractLsb' 32 32,
                 flg := mkFlg (m == 0) (m < 0) (fC f) (overflows 32 m) (fO f || overflows 32 m) }) ∧
    (RunsWord s o 0x17 e t p b 3 → exec (.mulu o) s =
      let m : Nat := a.toNat * b.toNat
      wordTo s o 0x17 t p 3
        { x with acc := BitVec.ofNat 32 m, ach := BitVec.ofNat 32 (m / 2 ^ 32),
                 flg := mkFlg (m == 0) (2 ^ 63 ≤ m) (fC f) (2 ^ 32 ≤ m) (fO f || 2 ^ 32 ≤ m) }) ∧
    (RunsWord s o 0x18 e t p b 18 → b ≠ 0 → exec (.divs o) s =
      let q : Word := BitVec.ofInt 32 (a.toInt.tdiv b.toInt)
      let v := a == 0x80000000 && b == 0xFFFFFFFF
      wordTo s o 0x18 t p 18
        { x with acc := q, ach := BitVec.ofInt 32 (a.toInt.tmod b.toInt), flg := mkFlg (q == 0) q.msb (fC f) v (fO f || v) }) ∧
    (RunsWord s o 0x19 e t p b 18 → b ≠ 0 → exec (.divu o) s =
      let q : Word := BitVec.ofNat 32 (a.toNat / b.toNat)
      wordTo s o 0x19 t p 18
        { x with acc := q, ach := BitVec.ofNat 32 (a.toNat % b.toNat), flg := mkFlg (q == 0) q.msb (fC f) (fV f) (fO f) }) ∧
    (RunsIn s o 0x1E e t p 1 → exec (.adx o) s = plainTo s o 0x1E t 1 { x with ix := x.ix + o.opd.signExtend 32 }) ∧
    (RunsIn s o 0x1F e t p 1 → exec (.ady o) s = plainTo s o 0x1F t 1 { x with iy := x.iy + o.opd.signExtend 32 })

/-- CHK of a SINGLE task (R106): with ACC between the limits, both taken as signed, it changes nothing but PC and the step count; below the lower or above
the upper limit it raises 0x0A, with no other effect. -/
def Obligations.BoundsCheckComparesWithItsLimits : Prop :=
  ∀ (s : State) (o : Op) (e : Fin 16) (t : Fin 32) (p : Fin 18) (lo hi : Word),
    let x := regsOf s o t
    let k := view s o 0x1D t p
    let limits : Prop := if o.am = 1 then lo = (o.ext.setWidth 16).signExtend 32 ∧ hi = (o.ext.extractLsb' 16 16).signExtend 32
      else k.rd k.ea 8 = .ok (hi ++ lo)
    Runs s o 0x1D e t p → limits →
      (lo.toInt ≤ x.acc.toInt → x.acc.toInt ≤ hi.toInt → InBudget s o t (2 + k.sL) → exec (.chk o) s = longTo s o 0x1D t p 2 x) ∧
      (x.acc.toInt < lo.toInt ∨ hi.toInt < x.acc.toInt → exec (.chk o) s = .next (at_ s ((issued s o).except t ⟨0x0A, 0, none⟩)))

/-- The 64-bit arithmetic and logic of a SINGLE task (Table 4.5, R105, R107): ACH:ACC takes the result; the flags are those of all 64 bits. -/
def Obligations.LongArithmeticResults : Prop :=
  ∀ (s : State) (o : Op) (e : Fin 16) (t : Fin 32) (p : Fin 18) (b : Long),
    let x := regsOf s o t
    let a : Long := x.ach ++ x.acc
    let f := x.flg
    let put (r : Long) (g : BitVec 5) : Ctx := { x with ach := r.extractLsb' 32 32, acc := r.setWidth 32, flg := g }
    let flags (r : Long) (c : Bool) (exact : Int) : BitVec 5 :=
      mkFlg (r == 0) r.msb c (overflows 64 exact) (fO f || overflows 64 exact)
    let zn (r : Long) : BitVec 5 := mkFlg (r == 0) r.msb (fC f) (fV f) (fO f)
    (RunsLong s o 0x30 e t p b 2 → exec (.addl o) s =
      longTo s o 0x30 t p 2 (put (a + b) (flags (a + b) (2 ^ 64 ≤ a.toNat + b.toNat) (a.toInt + b.toInt)))) ∧
    (RunsLong s o 0x31 e t p b 2 → exec (.subl o) s =
      longTo s o 0x31 t p 2 (put (a - b) (flags (a - b) (b.toNat ≤ a.toNat) (a.toInt - b.toInt)))) ∧
    (RunsLong s o 0x32 e t p b 2 → exec (.cmpl o) s =
      longTo s o 0x32 t p 2 { x with flg := flags (a - b) (b.toNat ≤ a.toNat) (a.toInt - b.toInt) }) ∧
    (RunsIn s o 0x33 e t p 2 → exec (.negl o) s = plainTo s o 0x33 t 2 (put (-a) (flags (-a) (a == 0) (-a.toInt)))) ∧
    (RunsLong s o 0x34 e t p b 6 → exec (.mull o) s =
      longTo s o 0x34 t p 6 (put (a * b)
        (mkFlg (a * b == 0) (a * b).msb (fC f) (overflows 64 (a.toInt * b.toInt)) (fO f || overflows 64 (a.toInt * b.toInt))))) ∧
    (RunsLong s o 0x35 e t p b 34 → b ≠ 0 → exec (.divsl o) s =
      let q : Long := BitVec.ofInt 64 (a.toInt.tdiv b.toInt)
      let v := a == 0x8000000000000000 && b == 0xFFFFFFFFFFFFFFFF
      longTo s o 0x35 t p 34 (put q (mkFlg (q == 0) q.msb (fC f) v (fO f || v)))) ∧
    (RunsLong s o 0x36 e t p b 34 → b ≠ 0 → exec (.remsl o) s =
      let r : Long := BitVec.ofInt 64 (a.toInt.tmod b.toInt)
      longTo s o 0x36 t p 34 (put r (zn r))) ∧
    (RunsLong s o 0x37 e t p b 34 → b ≠ 0 → exec (.divul o) s =
      let q : Long := BitVec.ofNat 64 (a.toNat / b.toNat)
      longTo s o 0x37 t p 34 (put q (zn q))) ∧
    (RunsIn s o 0x38 e t p 2 → exec (.shfl o) s =
      let n := if o.opd.getLsbD 8 then x.ix.toNat % 64 else o.opd.toNat % 64
      let r : Long := if o.opd.toNat / 64 % 4 = 0 then a <<< n else if o.opd.toNat / 64 % 4 = 1 then a >>> n else a.sshiftRight n
      let c := if n = 0 then fC f else if o.opd.toNat / 64 % 4 = 0 then a.getLsbD (64 - n) else a.getLsbD (n - 1)
      plainTo s o 0x38 t 2 (put r (mkFlg (r == 0) r.msb c (fV f) (fO f)))) ∧
    (RunsLong s o 0x39 e t p b 2 → exec (.andl o) s = longTo s o 0x39 t p 2 (put (a &&& b) (zn (a &&& b)))) ∧
    (RunsLong s o 0x3A e t p b 2 → exec (.orl o) s = longTo s o 0x3A t p 2 (put (a ||| b) (zn (a ||| b)))) ∧
    (RunsLong s o 0x3B e t p b 2 → exec (.xorl o) s = longTo s o 0x3B t p 2 (put (a ^^^ b) (zn (a ^^^ b)))) ∧
    (RunsIn s o 0x3C e t p 2 → exec (.notl o) s = plainTo s o 0x3C t 2 (put (~~~a) (zn (~~~a))))

/-- Loads, moves and address instructions of a SINGLE task (R103, R104, R111, R113, Table 4.5): the operand or register goes where the table says, flags
stay, and nothing in memory changes. -/
def Obligations.LoadAndMoveResults : Prop :=
  ∀ (s : State) (o : Op) (e : Fin 16) (t : Fin 32) (p : Fin 18) (b : Word) (l : Long),
    let x := regsOf s o t
    let load (opc : Nat) (n : Nat) : Prop :=
      Runs s o opc e t p ∧ (view s o opc t p).rd (view s o opc t p).ea n = .ok l ∧ InBudget s o t (1 + (view s o opc t p).s)
    (RunsIn s o 0x00 e t p 1 → exec (.nop o) s = plainTo s o 0x00 t 1 x) ∧
    (load 0x01 1 → exec (.ldsb o) s = wordTo s o 0x01 t p 1 { x with acc := (l.setWidth 8).signExtend 32 }) ∧
    (load 0x02 1 → exec (.ldub o) s = wordTo s o 0x02 t p 1 { x with acc := BitVec.ofNat 32 (l.toNat % 256) }) ∧
    (load 0x03 2 → exec (.ldsh o) s = wordTo s o 0x03 t p 1 { x with acc := (l.setWidth 16).signExtend 32 }) ∧
    (load 0x04 2 → exec (.lduh o) s = wordTo s o 0x04 t p 1 { x with acc := BitVec.ofNat 32 (l.toNat % 65536) }) ∧
    (RunsWord s o 0x05 e t p b 1 → exec (.ldw o) s = wordTo s o 0x05 t p 1 { x with acc := b }) ∧
    (RunsLong s o 0x06 e t p l 1 → exec (.ldl o) s =
      longTo s o 0x06 t p 1 { x with acc := l.setWidth 32, ach := l.extractLsb' 32 32 }) ∧
    (RunsWord s o 0x07 e t p b 1 → exec (.ldah o) s = wordTo s o 0x07 t p 1 { x with ach := b }) ∧
    (RunsWord s o 0x29 e t p b 1 → exec (.ldx o) s = wordTo s o 0x29 t p 1 { x with ix := b }) ∧
    (RunsWord s o 0x2A e t p b 1 → exec (.ldy o) s = wordTo s o 0x2A t p 1 { x with iy := b }) ∧
    (RunsWord s o 0x3E e t p b 1 → exec (.sel o) s = wordTo s o 0x3E t p 1 { x with acc := if x.ba then b else x.acc }) ∧
    (load 0x4E 1 → exec (.ldbb o) s = wordTo s o 0x4E t p 1 { x with ba := l.toNat % 256 ≠ 0 }) ∧
    (RunsIn s o 0x0D e t p (if o.am = 6 then 2 else 1) → exec (.lea o) s =
      plainTo s o 0x0D t (if o.am = 6 then 2 else 1) { x with acc := (view s o 0x0D t p).ea }) ∧
    (RunsIn s o 0x10 e t p 1 → o.opd.toNat / 16 ≠ 4 → exec (.movr o) s =
      let v := (view s o 0x10 t p).reg (o.opd.toNat % 16)
      plainTo s o 0x10 t 1 (match o.opd.toNat / 16 % 16 with
        | 0 => { x with acc := v }
        | 1 => { x with ach := v }
        | 2 => { x with ix := v }
        | 3 => { x with iy := v }
        | 4 => { x with dsp := v }
        | 5 => { x with brc := v }
        | 6 => { x with brs := v }
        | 7 => { x with brd := v }
        | 8 => { x with flg := v.setWidth 5 }
        | _ => { x with ba := v.getLsbD 0 })) ∧
    (RunsIn s o 0x55 e t p 2 → exec (.ipa o) s =
      plainTo s o 0x55 t 2
        { x with acc := x.ibD + BitVec.ofNat 32 (8 * o.opd.toNat),
                 ach := BitVec.ofNat 32 ((x.ibB.toNat + 8 * (o.ext.toNat / 2 ^ 22)) % 2 ^ 24) }) ∧
    (RunsIn s o 0x5F e t p 1 → exec (.tsc o) s =
      let ts := ((issued s o).task t).ts
      plainTo s o 0x5F t 1 { x with acc := ts.setWidth 32, ach := ts.extractLsb' 32 32 }) ∧
    (RunsIn s o 0x4B e t p 1 → exec (.bao o) s =
      plainTo s o 0x4B t 1 { x with ba := if o.opd = 0 then !x.ba else decide (o.opd = 1) })

/-- The stores of a SINGLE task outside a warm-up (R103, R65, Table 4.5): the operand's bytes take the register's low bytes, every other byte, every
register but PC and every flag stay. The address is the operand's effective address. -/
def Obligations.StoreResults : Prop :=
  ∀ (s : State) (o : Op) (e : Fin 16) (t : Fin 32) (p : Fin 18),
    let c := issued s o
    let x := regsOf s o t
    let store (i : Instr) (opc n v : Nat) : Prop :=
      let k := view s o opc t p
      let steps := 1 + if n = 8 then k.sL else k.s
      RunsStore s o opc e t p steps → k.ck k.ea n = none →
        Leads i s fun c' => BytesTook c c' k.ea.toNat n v ∧ TaskWent c c' t { x with pc := nextAddr s o opc t } steps
    store (.stby o) 0x08 1 x.acc.toNat ∧ store (.sthw o) 0x09 2 x.acc.toNat ∧
    (o.am ≠ 7 → store (.stw o) 0x0A 4 x.acc.toNat) ∧
    store (.stl o) 0x0B 8 (x.acc.toNat + 2 ^ 32 * x.ach.toNat) ∧ store (.stah o) 0x0C 4 x.ach.toNat ∧
    store (.stx o) 0x2B 4 x.ix.toNat ∧ store (.sty o) 0x2C 4 x.iy.toNat ∧ store (.stbb o) 0x4F 1 x.ba.toNat ∧
    (o.am = 7 → RunsStore s o 0x0A e t p 2 → (view s o 0x0A t p).ckImg true (view s o 0x0A t p).imgIdx = none → o.opd.getLsbD 17 = true →
      exec (.stw o) s = .next (at_ s (((ranTo s o t { x with pc := nextAddr s o 0x0A t } 2).chip.modImg fun m =>
        { m with wQ := imgSet (view s o 0x0A t p).imgIdx x.acc m.wQ }).markWords imgWorkQ (view s o 0x0A t p).imgIdx 1)))

/-- The data stack of a SINGLE task outside a warm-up (R68, R69, R104, Table 4.5): a push lowers DSP by 8 and fills the slot, a pop takes the slot and
raises DSP by 8, ALOC and MOVR move DSP within the stack, a move beyond its floor or top raises the data-stack exceptions, and MOVR of a DSP that is no
multiple of 8 raises 0x03. That ALOC with a result below 0 raises 0x05 as one below the floor is the model's reading (log entry 89). -/
def Obligations.DataStackResults : Prop :=
  ∀ (s : State) (o : Op) (e : Fin 16) (t : Fin 32) (p : Fin 18) (l : Long),
    let c := issued s o
    let x := regsOf s o t
    let floor := c.get (SCN_TSTKLO.FLOOR t)
    let top := c.get (SCN_TSTKHI.TOP t)
    let push (i : Instr) (opc n v : Nat) : Prop :=
      RunsStore s o opc e t p n → floor + 8 ≤ x.dsp.toNat → (view s o opc t p).ck (x.dsp - 8) 8 = none →
        Leads i s fun c' => BytesTook c c' (x.dsp.toNat - 8) 8 v ∧ TaskWent c c' t { x with dsp := x.dsp - 8, pc := nextAddr s o opc t } n
    let pop (i : Instr) (opc n : Nat) (y : Ctx) : Prop :=
      RunsIn s o opc e t p n → x.dsp.toNat + 8 ≤ top → (view s o opc t p).rd x.dsp 8 = .ok l →
        exec i s = plainTo s o opc t n { y with dsp := x.dsp + 8 }
    (o.opd = 0 → push (.psh o) 0x0E 2 x.acc.toNat) ∧
    (o.opd = 1 → push (.psh o) 0x0E 3 (x.acc.toNat + 2 ^ 32 * x.ach.toNat)) ∧
    push (.pshb o) 0x4C 2 x.ba.toNat ∧
    (o.opd = 0 → pop (.pop o) 0x0F 2 { x with acc := l.setWidth 32 }) ∧
    (o.opd = 1 → pop (.pop o) 0x0F 3 { x with acc := l.setWidth 32, ach := l.extractLsb' 32 32 }) ∧
    (o.opd = 0 → pop (.popb o) 0x4D 2 { x with ba := l.getLsbD 0 }) ∧
    (o.opd = 1 → pop (.popb o) 0x4D 2 { x with ba := x.ba && l.getLsbD 0 }) ∧
    (o.opd = 2 → pop (.popb o) 0x4D 2 { x with ba := x.ba || l.getLsbD 0 }) ∧
    (RunsIn s o 0x56 e t p 1 → floor ≤ x.dsp.toNat + 8 * o.opd.toInt → x.dsp.toNat + 8 * o.opd.toInt ≤ top →
      exec (.aloc o) s = plainTo s o 0x56 t 1 { x with dsp := x.dsp + 8 * o.opd.signExtend 32 }) ∧
    (RunsIn s o 0x56 e t p 1 → x.dsp.toNat + 8 * o.opd.toInt < floor →
      exec (.aloc o) s = .next (at_ s (c.except t ⟨0x05, 0, none⟩))) ∧
    (RunsIn s o 0x56 e t p 1 → floor ≤ x.dsp.toNat + 8 * o.opd.toInt → top < x.dsp.toNat + 8 * o.opd.toInt →
      exec (.aloc o) s = .next (at_ s (c.except t ⟨0x06, 0, none⟩))) ∧
    (RunsIn s o 0x10 e t p 1 → o.opd.toNat / 16 = 4 →
      let v := (view s o 0x10 t p).reg (o.opd.toNat % 16)
      (v.toNat % 8 = 0 → floor ≤ v.toNat → v.toNat ≤ top → exec (.movr o) s = plainTo s o 0x10 t 1 { x with dsp := v }) ∧
      (v.toNat % 8 ≠ 0 → exec (.movr o) s = .next (at_ s (c.except t ⟨0x03, 0, none⟩))) ∧
      (v.toNat % 8 = 0 → v.toNat < floor → exec (.movr o) s = .next (at_ s (c.except t ⟨0x05, 0, none⟩))) ∧
      (v.toNat % 8 = 0 → floor ≤ v.toNat → top < v.toNat → exec (.movr o) s = .next (at_ s (c.except t ⟨0x06, 0, none⟩)))) ∧
    (RunsIn s o 0x0E e t p 2 → x.dsp.toNat < floor + 8 → x.dsp.toNat % 8 = 0 →
      (view s o 0x0E t p).ck (x.dsp - 8) 8 = none → exec (.psh o) s = .next (at_ s (c.except t ⟨0x05, 0, none⟩))) ∧
    (RunsIn s o 0x0F e t p 2 → top < x.dsp.toNat + 8 → (view s o 0x0F t p).rd x.dsp 8 = .ok l →
      exec (.pop o) s = .next (at_ s (c.except t ⟨0x06, 0, none⟩)))

/-- The bit instructions of a SINGLE task outside a warm-up (R98, R115, Table 4.5): a bit operand combines with BA, a bit store writes one bit and no
other, and RED and FED answer the edge and keep the original BA in the previous-state bit. -/
def Obligations.BitResults : Prop :=
  ∀ (s : State) (o : Op) (e : Fin 16) (t : Fin 32) (p : Fin 18) (b : Nat) (v : Bool),
    let c := issued s o
    let x := regsOf s o t
    let load (i : Instr) (opc : Nat) (r : Bool) : Prop :=
      let k := view s o opc t p
      RunsIn s o opc e t p (1 + k.sB) → k.bitEa = .ok b → k.bit b = .ok v → exec i s = plainTo s o opc t (1 + k.sB) { x with ba := r }
    let store (i : Instr) (opc : Nat) (w : Bool) : Prop :=
      let k := view s o opc t p
      RunsStore s o opc e t p (2 + k.sB) → k.bitEa = .ok b → k.ckBit b = none →
        Leads i s fun c' => BitTook c c' b w ∧ TaskWent c c' t { x with pc := nextAddr s o opc t } (2 + k.sB)
    let edge (i : Instr) (opc : Nat) (r : Bool) : Prop :=
      let k := view s o opc t p
      RunsStore s o opc e t p (2 + k.sB) → k.bitEa = .ok b → k.bit b = .ok v → k.ckBit b = none →
        Leads i s fun c' => BitTook c c' b x.ba ∧ TaskWent c c' t { x with ba := r, pc := nextAddr s o opc t } (2 + k.sB)
    load (.ldb o) 0x40 v ∧ load (.ldbn o) 0x41 (!v) ∧ load (.andb o) 0x42 (x.ba && v) ∧ load (.andbn o) 0x43 (x.ba && !v) ∧
    load (.orb o) 0x44 (x.ba || v) ∧ load (.orbn o) 0x45 (x.ba || !v) ∧ load (.xorb o) 0x46 (xor x.ba v) ∧
    store (.stbt o) 0x47 x.ba ∧ store (.stbn o) 0x48 (!x.ba) ∧ store (.setb o) 0x49 true ∧ store (.rstb o) 0x4A false ∧
    edge (.red o) 0x5C (x.ba && !v) ∧ edge (.fed o) 0x5D (!x.ba && v)

/-- Branches, calls and returns of a SINGLE task (R70, R99, R110): BR goes to its target; a call pushes the return address with IB, FLG and BA, loads IB
and goes to the callee; RET restores PC and IB and pops. Memory and every control register stay. -/
def Obligations.FlowResults : Prop :=
  ∀ (s : State) (o : Op) (e : Fin 16) (t : Fin 32) (p : Fin 18) (a : Word) (r : RetEntry) (l : Long),
    let c := issued s o
    let x := regsOf s o t
    let st := (c.ph p).stack
    let ret (opc : Nat) : RetEntry := ⟨nextAddr s o opc t, x.ibD, x.ibB, x.flg, x.ba⟩
    let callee : Word := x.pc + 4 * (o.ext.setWidth 22).signExtend 32
    let goes (i : Instr) (n : Nat) (y : Ctx) (stack : List RetEntry) : Prop :=
      exec i s = .next (at_ s ((ranTo s o t y n).chip.modPh p fun q => { q with stack := stack }))
    let steps (n : Nat) : Nat := if o.am = 1 then n + 1 else n
    (RunsIn s o 0x50 e t p (steps 2) → (view s o 0x50 t p).target = .ok a → exec (.br o) s = .next (ranTo s o t { x with pc := a } (steps 2))) ∧
    (RunsIn s o 0x51 e t p (steps 3) → (view s o 0x51 t p).target = .ok a → st.length < 256 →
      goes (.call o) (steps 3) { x with pc := a } (ret 0x51 :: st)) ∧
    (RunsIn s o 0x52 e t p 4 → st.length < 256 →
      let d := (x.ibD.toNat + 8 * o.opd.toNat) % 2 ^ 32
      let b := x.ibB.toNat + 8 * (o.ext.toNat / 2 ^ 22)
      ibBad d b = false → goes (.cale o) 4 { x with pc := callee, ibD := BitVec.ofNat 32 d, ibB := BitVec.ofNat 24 b } (ret 0x52 :: st)) ∧
    (o.am = 0 → RunsIn s o 0x53 e t p 4 → st.length < 256 → x.ach.toNat / 2 ^ 24 = 0 → ibBad x.acc.toNat x.ach.toNat = false →
      goes (.cali o) 4 { x with pc := callee, ibD := x.acc, ibB := x.ach.setWidth 24 } (ret 0x53 :: st)) ∧
    (o.am ≠ 0 → RunsIn s o 0x53 e t p 6 → (view s o 0x53 t p).rd (view s o 0x53 t p).ea 8 = .ok l → st.length < 256 →
      l.toNat / 2 ^ 56 = 0 → ibBad (l.toNat % 2 ^ 32) (l.toNat / 2 ^ 32) = false →
      goes (.cali o) 6 { x with pc := callee, ibD := l.setWidth 32, ibB := l.extractLsb' 32 24 } (ret 0x53 :: st)) ∧
    (RunsIn s o 0x54 e t p 3 → st.head? = some r → (c.task t).depth < st.length →
      goes (.ret o) 3 { x with pc := r.pc, ibD := r.ibD, ibB := r.ibB } st.tail) ∧
    (RunsIn s o 0x54 e t p 3 → (c.task t).depth = st.length → exec (.ret o) s = .next (at_ s (c.except t ⟨0x08, 0, none⟩)))

/-- TON, TOF, TP and TRS of a SINGLE task outside a warm-up (R75, R114, Table 4.9): BA is Q, ACH:ACC is ET, the status DWORD takes RUN, Q and
IN_PREV = IN, START takes TS where the timer starts, and no other byte changes; TRS clears the status DWORD alone. -/
def Obligations.TimerResults : Prop :=
  ∀ (s : State) (o : Op) (e : Fin 16) (t : Fin 32) (p : Fin 18) (start preset : Long) (run q prev : Bool),
    let c := issued s o
    let x := regsOf s o t
    let ts := (c.task t).ts
    let pre : Long := if preset.msb then 0 else preset
    let n := if o.am = 6 then 9 else 8
    let timer (i : Instr) (opc : Nat) (running : Bool) (q' : Bool) (et : Long) (starts : Bool) : Prop :=
      let k := view s o opc t p
      RunsStore s o opc e t p n → k.rd k.ea 8 = .ok start → k.rd (k.ea + 8) 8 = .ok preset →
      k.rd (k.ea + 16) 4 = .ok (BitVec.ofNat 64 (run.toNat + 2 * q.toNat + 4 * prev.toNat)) → k.ck k.ea 8 = none →
      k.ck (k.ea + 16) 4 = none →
        Leads i s fun c' =>
          c'.ld (k.ea.toNat + 16) 4 = running.toNat + 2 * q'.toNat + 4 * x.ba.toNat ∧
          (∀ b, b < k.ea.toNat ∨ (k.ea.toNat + 8 ≤ b ∧ b < k.ea.toNat + 16) ∨ k.ea.toNat + 20 ≤ b → c'.ldB b = c.ldB b) ∧
          c'.ld k.ea.toNat 8 = (if starts then ts.toNat else c.ld k.ea.toNat 8) ∧
          TaskWent c c' t { x with ba := q', acc := et.setWidth 32, ach := et.extractLsb' 32 32, pc := nextAddr s o opc t } n
    let elapsed (st : Long) : Bool := pre.toNat ≤ (ts - st).toNat
    let et (st : Long) : Long := if elapsed st then pre else ts - st
    (x.ba = false → timer (.ton o) 0x58 false false 0 false) ∧
    (x.ba = true → prev = false → timer (.ton o) 0x58 (!elapsed ts) (elapsed ts) (et ts) true) ∧
    (x.ba = true → prev = true → run = true → timer (.ton o) 0x58 (!elapsed start) (if elapsed start then true else q) (et start) false) ∧
    (x.ba = true → prev = true → run = false → timer (.ton o) 0x58 false q (if q then pre else 0) false) ∧
    (x.ba = true → timer (.tof o) 0x59 false true 0 false) ∧
    (x.ba = false → prev = true → timer (.tof o) 0x59 (!elapsed ts) (if elapsed ts then false else q) (et ts) true) ∧
    (x.ba = false → prev = false → run = true → timer (.tof o) 0x59 (!elapsed start) (if elapsed start then false else q) (et start) false) ∧
    (x.ba = false → prev = false → run = false → timer (.tof o) 0x59 false q pre false) ∧
    (run = false → x.ba = true → prev = false → timer (.tp o) 0x5A (!elapsed ts) (!elapsed ts) (et ts) true) ∧
    (run = true → timer (.tp o) 0x5A (!elapsed start) (if elapsed start then false else q) (et start) false) ∧
    (run = false → (x.ba = false ∨ prev = true) → timer (.tp o) 0x5A false q (if x.ba then pre else 0) false) ∧
    (RunsStore s o 0x5B e t p (if o.am = 6 then 4 else 3) → (view s o 0x5B t p).ea.toNat % 8 = 0 →
      (view s o 0x5B t p).ck ((view s o 0x5B t p).ea + 16) 4 = none →
      Leads (.trs o) s fun c' => BytesTook c c' ((view s o 0x5B t p).ea + 16).toNat 4 0 ∧
        TaskWent c c' t { x with pc := nextAddr s o 0x5B t } (if o.am = 6 then 4 else 3))

/-- Floating point and conversions of a SINGLE task (R82, R83, R108, R109, Tables 4.7 and 4.8): the correctly rounded result, Z of a zero of either sign,
N the sign, O set when the operation signals; FCMP and DCMP set the flags of the relation; FUN touches the sign bit alone. -/
def Obligations.FloatingPointResults : Prop :=
  ∀ (s : State) (o : Op) (e : Fin 16) (t : Fin 32) (p : Fin 18) (b : Word) (l : Long),
    let x := regsOf s o t
    let a := x.acc.toNat
    let d := (x.ach ++ x.acc : Long).toNat
    let f := x.flg
    let single (r : FRes) : Ctx :=
      let w : Word := BitVec.ofNat 32 r.val
      { x with acc := w, flg := mkFlg (w &&& 0x7FFFFFFF == 0) w.msb (fC f) (fV f) (fO f || r.exc) }
    let double (r : FRes) : Ctx :=
      let w : Long := BitVec.ofNat 64 r.val
      { x with acc := w.setWidth 32, ach := w.extractLsb' 32 32,
               flg := mkFlg (w &&& 0x7FFFFFFFFFFFFFFF == 0) w.msb (fC f) (fV f) (fO f || r.exc) }
    let cmp (g : FFmt) (u v : Nat) : Ctx :=
      let sig := (g.dec u).sig || (g.dec v).sig
      { x with flg := match g.cmp u v with
        | .less => mkFlg false true false false (fO f || sig)
        | .equal => mkFlg true false true false (fO f || sig)
        | .greater => mkFlg false false true false (fO f || sig)
        | .unordered => mkFlg false false true true true }
    (RunsWord s o 0x60 e t p b 4 → exec (.fadd o) s = wordTo s o 0x60 t p 4 (single (b32.add false a b.toNat))) ∧
    (RunsWord s o 0x61 e t p b 4 → exec (.fsub o) s = wordTo s o 0x61 t p 4 (single (b32.add true a b.toNat))) ∧
    (RunsWord s o 0x62 e t p b 4 → exec (.fmul o) s = wordTo s o 0x62 t p 4 (single (b32.mul a b.toNat))) ∧
    (RunsWord s o 0x63 e t p b 14 → exec (.fdiv o) s = wordTo s o 0x63 t p 14 (single (b32.div a b.toNat))) ∧
    (RunsWord s o 0x64 e t p b 3 → exec (.fcmp o) s = wordTo s o 0x64 t p 3 (cmp b32 a b.toNat)) ∧
    (RunsIn s o 0x65 e t p 16 → exec (.fsqrt o) s = plainTo s o 0x65 t 16 (single (b32.sqrt a))) ∧
    (RunsLong s o 0x67 e t p l 5 → exec (.dadd o) s = longTo s o 0x67 t p 5 (double (b64.add false d l.toNat))) ∧
    (RunsLong s o 0x68 e t p l 5 → exec (.dsub o) s = longTo s o 0x68 t p 5 (double (b64.add true d l.toNat))) ∧
    (RunsLong s o 0x69 e t p l 6 → exec (.dmul o) s = longTo s o 0x69 t p 6 (double (b64.mul d l.toNat))) ∧
    (RunsLong s o 0x6A e t p l 28 → exec (.ddiv o) s = longTo s o 0x6A t p 28 (double (b64.div d l.toNat))) ∧
    (RunsLong s o 0x6B e t p l 3 → exec (.dcmp o) s = longTo s o 0x6B t p 3 (cmp b64 d l.toNat)) ∧
    (RunsIn s o 0x6C e t p 30 → exec (.dsqrt o) s = plainTo s o 0x6C t 30 (double (b64.sqrt d))) ∧
    (RunsIn s o 0x66 e t p 1 → o.opd.getLsbD 1 = false → exec (.fun o) s =
      let r : Word := if o.opd.getLsbD 0 then x.acc &&& 0x7FFFFFFF else x.acc ^^^ 0x80000000
      plainTo s o 0x66 t 1 { x with acc := r, flg := mkFlg (r &&& 0x7FFFFFFF == 0) r.msb (fC f) (fV f) (fO f) }) ∧
    (RunsIn s o 0x66 e t p 1 → o.opd.getLsbD 1 = true → exec (.fun o) s =
      let r : Word := if o.opd.getLsbD 0 then x.ach &&& 0x7FFFFFFF else x.ach ^^^ 0x80000000
      plainTo s o 0x66 t 1 { x with ach := r, flg := mkFlg (r &&& 0x7FFFFFFF == 0 && x.acc == 0) r.msb (fC f) (fV f) (fO f) }) ∧
    (RunsIn s o 0x3D e t p 3 → exec (.cvt o) s = plainTo s o 0x3D t 3 (cvt o.opd.toNat x)) ∧
    (∀ sel, sel < 0x10 → let y := cvt sel x
      (sel ∈ [0x00, 0x07] → y.ach = x.ach) ∧ (sel ∈ [0x01, 0x02, 0x0C, 0x0D, 0x0F] → y.ach = x.ach) ∧
      (sel = 0x08 → y.acc = x.acc ∧ y.ach = if x.acc.msb then 0xFFFFFFFF else 0) ∧ (sel = 0x09 → y.acc = x.acc ∧ y.ach = 0) ∧
      (sel = 0x0A → y.acc = x.acc ∧ y.ach = x.ach ∧ fV y.flg = overflows 32 (x.ach ++ x.acc : Long).toInt) ∧
      y.ix = x.ix ∧ y.iy = x.iy ∧ y.dsp = x.dsp ∧ y.ba = x.ba ∧ fC y.flg = fC f ∧ (sel ≠ 0x0A → fV y.flg = fV f) ∧ (fO f = true → fO y.flg = true))

/-- Block repeat by a SINGLE task outside a warm-up (R77, R117, R118, R119): with BRC 0 nothing is touched; otherwise one element is processed, BRC falls by
1, BRS and BRD advance, and PC stays until the last; BCMP stops at an unequal element; a long move first asks for an admission in the block-move class and
waits, and with it processes its elements and frees the slot after the last. -/
def Obligations.BlockRepeatResults : Prop :=
  ∀ (s : State) (o : Op) (e : Fin 16) (t : Fin 32) (p : Fin 18) (v w : Long) (bs : Fin 8 → Bool) (d : Bool),
    let c := issued s o
    let x := regsOf s o t
    let z := 2 ^ (o.opd.toNat % 4)
    let per (n : Nat) : Nat := if z = 8 then n + 1 else n
    let nothing (i : Instr) (opc : Nat) (f : BitVec 5) : Prop :=
      x.brc = 0 → RunsBlock s o opc e t p 0 → Leads i s fun c' =>
        BytesKept c c' ∧ (c'.task t).ctx = { x with pc := x.pc + 4, flg := f } ∧ (c'.task t).inBlock = false ∧ c'.regs = c.regs
    let long (i : Instr) (opc : Nat) : Prop :=
      Powered s → o.x = .le e → c.canIssue e = some (t, p) → c.fetchExc p opc o x.pc = none → condHolds o.cond x.flg x.ba = true →
      (c.task t).paired = false → (c.task t).inBlock = false → (c.task t).admitted = false → c.turnHas 4 (.le e) = false →
      let waits : Chip := c.modTask t fun k => { k with waiting := true }
      ((c.turn.any fun a => a.cls == 4 && a.who == .le e) = false →
        exec i s = .next (at_ s { waits with turn := c.turn ++ [⟨4, .le e, false, c.tb⟩] })) ∧
      ((c.turn.any fun a => a.cls == 4 && a.who == .le e) = true → exec i s = .next (at_ s waits))
    (4096 < x.brc.toNat * z → long (.bmov o) 0x70 ∧ long (.bfil o) 0x71) ∧
    (4096 < x.brc.toNat → long (.bbpk o) 0x74 ∧ long (.bbup o) 0x75) ∧
    nothing (.bmov o) 0x70 x.flg ∧ nothing (.bfil o) 0x71 x.flg ∧ nothing (.bcmp o) 0x72 (setZ x.flg true) ∧
    nothing (.bbmv o) 0x73 x.flg ∧ nothing (.bbpk o) 0x74 x.flg ∧ nothing (.bbup o) 0x75 x.flg ∧
    (x.brc ≠ 0 → RunsBlock s o 0x70 e t p (per 2) → (view s o 0x70 t p).rd x.brs z = .ok v → (view s o 0x70 t p).ck x.brd z = none →
      Leads (.bmov o) s fun c' => BytesTook c c' x.brd.toNat z v.toNat ∧ ElementDone s o e t z z (per 2) x.flg c') ∧
    (x.brc ≠ 0 → RunsBlock s o 0x71 e t p 2 → (view s o 0x71 t p).ck x.brd z = none →
      Leads (.bfil o) s fun c' =>
        BytesTook c c' x.brd.toNat z (x.acc.toNat + 2 ^ 32 * x.ach.toNat) ∧ ElementDone s o e t 0 z 2 x.flg c') ∧
    (x.brc ≠ 0 → RunsBlock s o 0x72 e t p (per 3) → (view s o 0x72 t p).rd x.brs z = .ok v → (view s o 0x72 t p).rd x.brd z = .ok w →
      (v = w → Leads (.bcmp o) s fun c' =>
        BytesKept c c' ∧ ElementDone s o e t z z (per 3) (if x.brc = 1 then setZ x.flg true else x.flg) c') ∧
      (v ≠ w → Leads (.bcmp o) s fun c' =>
        BytesKept c c' ∧ (c'.task t).ctx = { x with pc := x.pc + 4, flg := setZ x.flg false } ∧ (c'.task t).inBlock = false)) ∧
    (x.brc ≠ 0 → RunsBlock s o 0x73 e t p 2 → x.brs.toNat < 2 ^ 24 → x.brd.toNat < 2 ^ 24 → (view s o 0x73 t p).bit x.brs.toNat = .ok d →
      (view s o 0x73 t p).ckBit x.brd.toNat = none →
      Leads (.bbmv o) s fun c' => BitTook c c' x.brd.toNat d ∧ ElementDone s o e t 1 1 2 x.flg c') ∧
    (x.brc ≠ 0 → RunsBlock s o 0x74 e t p 4 → x.brs.toNat + 8 ≤ 2 ^ 24 → (∀ i : Fin 8, (view s o 0x74 t p).bit (x.brs.toNat + i) = .ok (bs i)) →
      (view s o 0x74 t p).ck x.brd 1 = none →
      Leads (.bbpk o) s fun c' => (∀ i : Fin 8, (c'.ldB x.brd.toNat).getLsbD i = bs i) ∧ (∀ a, a ≠ x.brd.toNat → c'.ldB a = c.ldB a) ∧
        ElementDone s o e t 8 1 4 x.flg c') ∧
    (x.brc ≠ 0 → RunsBlock s o 0x75 e t p 4 → x.brd.toNat + 8 ≤ 2 ^ 24 → (view s o 0x75 t p).rd x.brs 1 = .ok v →
      (∀ i : Fin 8, (view s o 0x75 t p).ckBit (x.brd.toNat + i) = none) →
      Leads (.bbup o) s fun c' => (∀ i : Fin 8, c'.ldBit (x.brd.toNat + i) = v.getLsbD i) ∧
        (∀ b, b < x.brd.toNat ∨ x.brd.toNat + 8 ≤ b → c'.ldBit b = c.ldBit b) ∧ ElementDone s o e t 1 8 4 x.flg c')

/-- LDG and ENDT of a task on an active unit (R112, R116, R137, R155, Table 4.10): LDG delivers its source and holds it as the next entry of the ledger;
ENDT of a cyclic task frees the engine, the return-stack entries of the activation go, and the scan enters COMPARE. -/
def Obligations.LedgerReadAndEndOfTask : Prop :=
  ∀ (s : State) (o : Op) (e : Fin 16) (t : Fin 32) (p : Fin 18),
    let c := issued s o
    let x := regsOf s o t
    let k := c.task t
    let sel := o.opd.toNat % 2 ^ 14
    let reads (P : Chip → Ctx → Prop) : Prop :=
      Leads (.ldg o) s fun c' => P c' (c'.task t).ctx ∧ (c'.task t).ctx.pc = x.pc + 4 ∧ (c'.task t).ctx.flg = x.flg ∧
        (c'.task t).steps = k.steps + 4 ∧ (c'.task t).ledgPos = k.ledgPos + 1 ∧ (c'.task t).ledgUsed = k.ledgPos + 1
    let ready : Prop := Canonical s ∧ RunsIn s o 0x5E e t p 4 ∧ c.mode = mRUN ∧ c.leading = false ∧ k.ledgUsed = k.ledgPos ∧
      c.partnerEntry t k.ledgPos = none ∧ k.ledgPos < c.get (SCN_TCFG.LEDGMAX t)
    (ready → o.opd = 0 → reads fun c' y =>
      y = { x with acc := c.tb.setWidth 32, ach := c.tb.extractLsb' 32 32, pc := x.pc + 4 } ∧
      (c'.ledgGet t k.ledgPos).value = c.tb) ∧
    (ready → o.opd.toNat = 2 ^ 14 → reads fun _ y =>
      y = { x with acc := c.dateAndTime.setWidth 32, ach := c.dateAndTime.extractLsb' 32 32, ba := !c.flag RTC_STATE.TIMEINV, pc := x.pc + 4 }) ∧
    (o.opd.toNat / 2 ^ 14 = 2 →
      let r : Fin 4 := Fin.ofNat 4 (sel / 2 ^ 11)
      let n := sel / 2 ^ 6 % 32
      let i := 32 * r.val + n
      let word := sel / 2 ^ 13 = 0
      (ready → n < c.get (STN_STATE.NSTN r) → c.flt.poison = [] → reads fun _ y =>
        y = { x with acc := if word then c.inWord i (sel % 64) else c.inBits i (sel % 16), ba := !c.bitOf (STN_DROP.DROP r) n, pc := x.pc + 4 }) ∧
      (RunsIn s o 0x5E e t p 4 → c.mode = mRUN → k.ledgUsed = k.ledgPos → c.get (STN_STATE.NSTN r) ≤ n →
        exec (.ldg o) s = .next (at_ s (c.except t ⟨0x01, 0, none⟩)))) ∧
    (ready → o.opd.toNat / 2 ^ 14 = 3 → 28 ≤ sel → sel < 32 → c.flag (MBX_WCFG.WEN (sel - 28)) = true → c.get (MBX_WCFG.RDCLS (sel - 28)) = 0 →
      reads fun c' y => y.acc = c.rd (MBX_WDATA.reg (sel - 28)) ∧ y.ba = c.flag (MBX_WINFO.FULL (sel - 28)) ∧
        c'.flag (MBX_WINFO.FULL (sel - 28)) = false) ∧
    (ready → o.opd.toNat / 2 ^ 14 = 4 → reads fun _ y => y = { x with ba := c.statusBit t sel, pc := x.pc + 4 }) ∧
    (RunsIn s o 0x5E e t p 4 → c.mode = mRUN → c.leading = false → k.ledgUsed = k.ledgPos → c.partnerEntry t k.ledgPos = none →
      c.get (SCN_TCFG.LEDGMAX t) ≤ k.ledgPos → o.opd = 0 → exec (.ldg o) s = .next (at_ s (c.overrun t 3))) ∧
    (RunsIn s o 0x57 e t p 2 → c.mode = mRUN → c.kind t = kCYC → c.leOf t = e → k.live = true → k.begun = true → c.leading = false → c.above t = none →
      Leads (.endt o) s fun c' => c'.phase t = 3 ∧ (c'.task t).live = false ∧ (c'.eng e).run ≠ some t ∧
        (c'.ph p).stack.length = min (c.ph p).stack.length k.base)

/-- What keeps an instruction of a SINGLE task from its effect (R59, R80, R81, R95, R122; R85 says that an exception leaves no other effect): a
condition that does not hold costs one step and leads past the instruction; an exception that its meaning raises leaves nothing behind but the
abandonment, and that of a cyclic task asks for ERR_EXEC with the entry registers of Table 3.9 (R84); a reserved encoding raises 0x01 and a Kazhin-M
instruction 0x02. The fields of the first word lie where R93 puts them. -/
def Obligations.ConditionsAndExceptionsOnAnEngine : Prop :=
  ∀ (s : State) (o : Op) (e : Fin 16) (t : Fin 32) (p : Fin 18) (cond : BitVec 4) (opc : BitVec 7) (am : BitVec 3) (opd : BitVec 18),
    let c := issued s o
    let x := regsOf s o t
    let front : Prop := Powered s ∧ o.x = .le e ∧ c.canIssue e = some (t, p)
    let fetched : Prop := 0x10000000 ≤ x.pc.toNat ∧ x.pc.toNat + 4 ≤ 0x10300000 ∧ c.admits (engineAgent p) false x.pc.toNat 4 = true
    let raises (i : Instr) (code : Nat) : Prop := exec i s = .next (at_ s (c.except t ⟨code, 0, none⟩))
    decodeKazhin (cond ++ opc ++ am ++ opd) o.ext o.x o.ecc o.upset o.now = kazhinRow opc { o with cond, am, opd } ∧
    (∀ r ∈ issueRows, decodeKazhin (o.cond ++ BitVec.ofNat 7 r.2.1 ++ o.am ++ o.opd) o.ext o.x o.ecc o.upset o.now = r.1 o) ∧
    (∀ r ∈ issueRows, front → o.ecc = .ok → (c.task t).paired = false → c.fetchExc p r.2.1 o x.pc = none → condHolds o.cond x.flg x.ba = false →
      InBudget s o t 1 → exec (r.1 o) s = .next (ranTo s o t { x with pc := nextAddr s o r.2.1 t } 1)) ∧
    (∀ r ∈ issueRows, ∀ ex : Exc, Runs s o r.2.1 e t p → needsAdmission r.2.1 o.opd x = false → r.2.2 (view s o r.2.1 t p) = .error ex →
      exec (r.1 o) s = .next (at_ s (c.raiseLe p t ex)) ∧ (ex.acc = none → ex.code ≠ 0x0B → c.raiseLe p t ex = c.except t ex) ∧
      (Canonical s → c.mode = mRUN → c.flushing = false → c.flag SYS_MODE.TRANS = false → c.leading = false → c.kind t = kCYC →
        ex.acc = none → ex.code < 0x0B → (c.errTask 1).isSome = true → c.flt.execQ.length < 8 →
        (c.handling.find? fun q => q.skind == 1 && q.inst == t.val + 2 ^ 8 * (c.leOf t).val && q.cause == ex.code) = none →
        Leads (r.1 o) s fun c' => (c'.task t).live = false ∧ c'.flag FLT_STAT.TASK = true ∧ ∃ q ∈ c'.flt.execQ,
          q.acc.toNat = ex.code + 2 ^ 8 * t.val + 2 ^ 16 * (c.leOf t).val ∧ q.ach = c.tb.setWidth 32 ∧ q.ix = x.pc ∧ q.iy = ex.addr)) ∧
    (∀ opc : BitVec 7, front → fetched → isReserved false opc.toNat o.am o.opd o.ext = true → raises (.reservedOpcode opc o) 0x01) ∧
    (front → fetched → isReserved false 0x78 o.am o.opd 0 = false → raises (.movs o) 0x02) ∧
    (front → fetched → o.am = 0 → o.opd = 0 → raises (.reti o) 0x02 ∧ raises (.wfi o) 0x02)

/-- Instructions of a PAIRED task (R159, R166, R168, R170, R171, R176): both copies execute; when they agree, the primary's registers and the complement
of the shadow's take the result, and their stores enter the journal and nothing else, or, where that would take it above JMAX, the
activation is abandoned with verdict 6 (R173); when they differ, the engine stops issuing, the mismatch flag sets, and no
byte, bit or image word has changed. -/
def Obligations.PairedTasksIssueTwice : Prop :=
  ∀ (s : State) (o : Op) (e : Fin 16) (t : Fin 32) (p : Fin 18) (out sout : KOut), ∀ r ∈ issueRows,
    let c := issued s o
    let k := c.task t
    let x := regsOf s o t
    let sx := shadowCtx o k.sctx
    let ext := hasExt r.2.1 o.am
    Canonical s → Issues s o r.2.1 e t p → k.paired = true → condHolds o.cond sx.flg sx.ba = true → needsAdmission r.2.1 o.opd x = false →
    isReserved false r.2.1 o.am (o.opd ^^^ o.upset.opd) o.ext = false →
    r.2.2 (view s o r.2.1 t p) = .ok out →
    r.2.2 (c.kin t p true false r.2.1 o.am (o.opd ^^^ o.upset.opd) o.ext sx) = .ok sout →
    let j := jStore t (c.ph p).journal out.stores
    let held := (j.filter fun x => x.task == t).length
    (outDiff out sout = none → out.stores ≠ [] → out.next ≠ .stay → InBudget s o t out.steps → held ≤ c.get (SHD_TCFG.JMAX t) →
      Leads (r.1 o) s fun c' =>
        (c'.task t).ctx = nextPc out x.pc ext ∧ (c'.task t).sctx = (nextPc sout sx.pc ext).compl ∧
        (c'.task t).steps = k.steps + out.steps ∧ c'.mem = c.mem ∧ c'.img = c.img ∧ (c'.ph p).journal = j ∧
        c'.get (SHD_TSTAT.JHWM t) = max (c.get (SHD_TSTAT.JHWM t)) held ∧ c'.get (SHD_LEJRN.USED e) = j.length % 2 ^ 13 ∧
        ∀ u, u ≠ t → c'.task u = c.task u) ∧
    (outDiff out sout = none → out.stores ≠ [] → c.get (SHD_TCFG.JMAX t) < held →
      exec (r.1 o) s = .next (at_ s (c.journalLimit e t out.stores.head?))) ∧
    (outDiff out sout = none → out.stores = [] → out.next ≠ .stay → InBudget s o t out.steps →
      Leads (r.1 o) s fun c' =>
        (c'.task t).ctx = nextPc out x.pc ext ∧ (c'.task t).sctx = (nextPc sout sx.pc ext).compl ∧
        (c'.task t).steps = k.steps + out.steps ∧ c'.mem = c.mem ∧ c'.img = c.img ∧ c'.regs = c.regs ∧
        ∀ u, u ≠ t → c'.task u = c.task u) ∧
    (∀ kind a pv sv, outDiff out sout = some (kind, a, pv, sv) →
      Leads (r.1 o) s fun c' =>
        c'.canIssue e = none ∧ (c'.eng e).run = none ∧ (c'.eng e).mismatch = some t ∧ c'.flag SHD_STAT.MM = true ∧
        (c'.task t).mm = k.mm + 1 ∧ (c'.task t).ledgUsed = k.ledgUsed ∧ c'.mem = c.mem ∧ c'.img = c.img)

/-- Instructions on a management core, and the Kazhin-M profile (R59, R87 to R91, R120, R121): one whose condition holds and that needs no access has the
effect of its meaning on the registers and the return stack of the core alone; a load reads management memory and a store writes it over the system map;
one whose condition does not hold leads past itself; an exception pushes an entry, clears IE, sets XH and goes through its vector. MOVS reads and
writes the special registers, an entry saves PC, IB, FLG and BA on the return stack, clears IE and goes to the handler, RETI
undoes it with IE set, WFI waits exactly while no enabled line is pending, and an exception inside a handler or with a full return stack stops the
core. -/
def Obligations.InstructionsAndInterruptsOfACore : Prop :=
  ∀ (s : State) (o : Op) (m : Fin 2) (out : KOut) (ex : Exc) (now : Time),
    let b := issued s o
    let c := b.coreStarts m
    let k := c.core m
    let x := k.ctx
    let d := s.chip.arrive now
    let n := o.opd.toNat % 16
    let runs (opc : Nat) : Prop := Powered s ∧ o.x = .mc m ∧ o.ecc = .ok ∧ b.coreRuns m = true ∧ (b.core m).waiting = false ∧ c.coreFetch m opc o = none ∧
      condHolds o.cond x.flg x.ba = true
    let goes (i : Instr) (k' : Core) : Prop := exec i s = .next (at_ s (c.modCore m fun _ => k'))
    let next : Ctx := { x with pc := x.pc + 4 }
    let memory (n : Nat) (write : Bool) : Prop :=
      let a := (c.kinMc m [] o).ea.toNat
      2 ≤ o.am.toNat ∧ o.am ≠ 7 ∧ a % n = 0 ∧ 0x3C000000 ≤ a ∧ a + n ≤ 0x3C0A0000 ∧ c.barred (coreAgent m) write a n = none ∧ c.flt.poison = [] ∧
        Memory.wf s.chip.mem = true
    let past (opc : Nat) (y : Ctx) : Ctx := { y with pc := x.pc + (if hasExt opc o.am then 8 else 4) }
    let load (i : Instr) (opc n : Nat) (y : Long → Ctx) : Prop :=
      runs opc → memory n false → Leads i s fun c' => BytesKept c c' ∧ c'.regs = c.regs ∧
        c'.core m = { k with inBlock := false, ctx := past opc (y (BitVec.ofNat 64 (c.ld (c.kinMc m [] o).ea.toNat n))) }
    let store (i : Instr) (opc n v : Nat) : Prop :=
      runs opc → memory n true → Leads i s fun c' => BytesTook c c' (c.kinMc m [] o).ea.toNat n v ∧ c'.regs = c.regs ∧
        c'.core m = { k with inBlock := false, ctx := past opc x }
    let enters (c' : Chip) (d : Chip) (v : Nat) (xh : Bool) : Prop :=
      (∃ pc, (c'.core m).ctx = { (d.core m).ctx with pc := pc }) ∧
      (c'.core m).stack = ⟨(d.core m).ctx.pc, (d.core m).ctx.ibD, (d.core m).ctx.ibB, (d.core m).ctx.flg, (d.core m).ctx.ba⟩ :: (d.core m).stack ∧
      (c'.core m).mst = (if xh then 2 else 0) ∧ (c'.core m).vb = (d.core m).vb ∧ (c'.core m).ien = (d.core m).ien ∧ (c'.core m).waiting = false ∧
      (d.barred (coreAgent m) false ((d.core m).vb.toNat + 4 * v) 4 = none → (d.core m).vb.toNat + 4 * v + 4 ≤ 0x3C0A0000 →
        0x3C000000 ≤ (d.core m).vb.toNat → d.flt.poison = [] →
        (c'.core m).ctx.pc = BitVec.ofNat 32 (d.ld ((d.core m).vb.toNat + 4 * v) 4))
    (b.get (coreFld m) = 0 → (b.core m).step = false → c = b) ∧
    (∀ r ∈ issueRows,
      let ext := hasExt r.2.1 o.am
      let after : Word := x.pc + (if ext then 8 else 4)
      Powered s → o.x = .mc m → o.ecc = .ok → b.coreRuns m = true → (b.core m).waiting = false → c.coreFetch m r.2.1 o = none →
      (condHolds o.cond x.flg x.ba = false →
        exec (r.1 o) s = .next (at_ s (c.modCore m fun k => { k with ctx := { x with pc := after } }))) ∧
      (condHolds o.cond x.flg x.ba = true → r.2.2 (c.kinMc m [] o) = .ok out → out.stores = [] →
        exec (r.1 o) s = .next (at_ s (c.modCore m fun k =>
          { k with ctx := nextPc out x.pc ext,
                   stack := if out.push then ⟨after, x.ibD, x.ibB, x.flg, x.ba⟩ :: k.stack else if out.pop then k.stack.tail else k.stack,
                   inBlock := decide (out.next = .stay) }))) ∧
      (condHolds o.cond x.flg x.ba = true → r.2.2 (c.kinMc m [] o) = .error ex → ex.code ∉ [0x04, 0x0B] → ex.code < 0x100 →
        exec (r.1 o) s = .next (at_ s (c.coreExc m ex.code)))) ∧
    (load (.ldsb o) 0x01 1 fun v => { x with acc := (v.setWidth 8).signExtend 32 }) ∧
    (load (.ldub o) 0x02 1 fun v => { x with acc := v.setWidth 32 }) ∧
    (load (.ldsh o) 0x03 2 fun v => { x with acc := (v.setWidth 16).signExtend 32 }) ∧
    (load (.lduh o) 0x04 2 fun v => { x with acc := v.setWidth 32 }) ∧
    (load (.ldw o) 0x05 4 fun v => { x with acc := v.setWidth 32 }) ∧
    (load (.ldl o) 0x06 8 fun v => { x with acc := v.setWidth 32, ach := v.extractLsb' 32 32 }) ∧
    store (.stby o) 0x08 1 x.acc.toNat ∧ store (.sthw o) 0x09 2 x.acc.toNat ∧ store (.stw o) 0x0A 4 x.acc.toNat ∧
    store (.stl o) 0x0B 8 (x.acc.toNat + 2 ^ 32 * x.ach.toNat) ∧
    (runs 0x78 → o.opd.getLsbD 4 = false → n < 6 →
      goes (.movs o) { k with ctx := { next with acc := match n with
        | 0 => k.mst
        | 1 => k.vb
        | 2 => k.ien.setWidth 32
        | 3 => k.ien.extractLsb' 32 32
        | 4 => c.ipend.setWidth 32
        | _ => c.ipend.extractLsb' 32 32 } }) ∧
    (runs 0x78 → o.opd.getLsbD 4 = true →
      (n = 0 → goes (.movs o) { k with mst := x.acc &&& 3, ctx := next }) ∧
      (n = 1 → x.acc.toNat % 256 = 0 → (x.acc.toNat < 0x10000 ∨ (0x3C000000 ≤ x.acc.toNat ∧ x.acc.toNat < 0x3C0A0000)) →
        goes (.movs o) { k with vb := x.acc, ctx := next }) ∧
      (n = 2 → goes (.movs o) { k with ien := k.ien.extractLsb' 32 32 ++ x.acc, ctx := next }) ∧
      (n = 3 → goes (.movs o) { k with ien := x.acc ++ k.ien.setWidth 32, ctx := next }) ∧
      (n = 1 → x.acc.toNat % 256 ≠ 0 → exec (.movs o) s = .next (at_ s (c.coreExc m 0x03)))) ∧
    (∀ r l, runs 0x79 → k.stack = r :: l →
      goes (.reti o) { k with stack := l, mst := 1, inBlock := false,
                              ctx := { x with pc := r.pc, ibD := r.ibD, ibB := r.ibB, flg := r.flg, ba := r.ba } }) ∧
    (runs 0x7A → goes (.wfi o) { k with waiting := (c.irqOf m).isNone, ctx := next }) ∧
    (Powered s → d.coreRuns m = true → (d.irqOf m).isSome = true →
      exec (.wfiResume m now) s = .next (at_ s (d.modCore m fun k => { k with waiting := false }))) ∧
    (∀ i, Powered s → d.coreRuns m = true → (d.core m).inBlock = false → (d.core m).mst.getLsbD 0 = true → d.irqOf m = some i →
      (d.core m).stack.length < 256 →
      Leads (.interruptEntry m now) s fun c' => enters c' d i ((d.core m).mst.getLsbD 1)) ∧
    (∀ code, k.mst.getLsbD 1 = false → k.stack.length < 256 → enters (c.coreExc m code) c code true) ∧
    (∀ code, k.mst.getLsbD 1 = true ∨ k.stack.length = 256 → c.coreExc m code = c.coreHalt m)

/-- Commands to the mode controller (R29, R30, R32, R33, R38, R47, R48, R53, R449, R468, R501): from a core or the host, with the key, what each mode lets
each one do, and the CMDERR of the others, which change nothing but SYS_CMDSTAT; a RUN that R48 or R501 refuses leaves the chip in STOP with CMDERR 4 and
the CFGERR of its check. That a command with a wrong key sets LASTCMD too is the model's reading (log entry 71). -/
def Obligations.ModeCommandsDoWhatTheModeLets : Prop :=
  ∀ (s : State) (w : Cmd),
    let c := written s w
    let d (n : Nat) : Chip := c.put SYS_CMDSTAT.LASTCMD n
    let err (n e : Nat) : Chip := (d n).put SYS_CMDSTAT.CMDERR e
    let keyed : Prop := SYS_CMD.KEY.of w.value = 0xC3A5 ∧ w.preempted = false ∧ c.flag SYS_MODE.TRANS = false
    let rows : List ((Cmd → Instr) × Nat) :=
      [(.sysStop, 1), (.sysRunCold, 2), (.sysRunWarm, 3), (.sysIntermission, 4), (.sysLeaveSafehold, 5), (.sysSoftwareReset, 6)]
    let refuses (i : Instr) (n : Nat) (e : Option Nat) : Prop :=
      Canonical s → Powered s → c.sys.runReq = none → c.get SYS_MODE.TARGET ≠ mRUN → Leads i s fun c' =>
        c'.get SYS_CMDSTAT.LASTCMD = n ∧ c'.get SYS_CMDSTAT.CMDERR = 4 ∧ c'.mode = mSTOP ∧ c'.flag SYS_MODE.TRANS = false ∧ c'.tasks = c.tasks ∧
        c'.get SYS_BOOTSTAT.CFGERR = e.getD (c.get SYS_BOOTSTAT.CFGERR)
    ByMcHost s w →
    (∀ r ∈ rows, (SYS_CMD.KEY.of w.value ≠ 0xC3A5 → Does s (r.1 w) (err r.2 1)) ∧
      (SYS_CMD.KEY.of w.value = 0xC3A5 → w.preempted = true → Does s (r.1 w) (err r.2 5)) ∧
      (SYS_CMD.KEY.of w.value = 0xC3A5 → w.preempted = false → c.flag SYS_MODE.TRANS = true → Does s (r.1 w) (err r.2 3))) ∧
    (keyed → c.mode = mRUN ∨ c.mode = mFOLLOW →
      Does s (.sysStop w) (((err 1 0).set1 SYS_MODE.TRANS).put SYS_MODE.TARGET mSTOP).cancelArmed) ∧
    (keyed → c.mode ≠ mRUN → c.mode ≠ mFOLLOW → Does s (.sysStop w) (err 1 2)) ∧
    (keyed → c.mode = mSTOP → (d 2).ringsReady = true → (d 2).flushing = false → (d 2).checkRun = 0 → (d 2).pairMember = false →
      Does s (.sysRunCold w) (((d 2).restart false 1).put SYS_CMDSTAT.CMDERR 0)) ∧
    (keyed → c.mode = mSTOP → (d 3).ringsReady = true → (d 3).flushing = false → (d 3).checkRun = 0 → (d 3).warmOk = true →
      (d 3).pairMember = false → Does s (.sysRunWarm w) (((d 3).restart true 1).put SYS_CMDSTAT.CMDERR 0)) ∧
    (keyed → c.mode = mSTOP → (d 2).ringsReady = false ∨ (d 2).flushing = true → refuses (.sysRunCold w) 2 none) ∧
    (keyed → c.mode = mSTOP → (d 3).ringsReady = false ∨ (d 3).flushing = true → refuses (.sysRunWarm w) 3 none) ∧
    (keyed → c.mode = mSTOP → (d 2).ringsReady = true → (d 2).flushing = false → (d 2).checkRun ≠ 0 →
      refuses (.sysRunCold w) 2 (some ((d 2).checkRun % 256))) ∧
    (keyed → c.mode = mSTOP → (d 3).ringsReady = true → (d 3).flushing = false →
      ((d 3).checkRun ≠ 0 → refuses (.sysRunWarm w) 3 (some ((d 3).checkRun % 256))) ∧
      ((d 3).checkRun = 0 → (d 3).warmOk = false → refuses (.sysRunWarm w) 3 (some 6))) ∧
    (keyed → c.mode ≠ mSTOP → Does s (.sysRunCold w) (err 2 2) ∧ Does s (.sysRunWarm w) (err 3 2) ∧ Does s (.sysIntermission w) (err 4 2)) ∧
    (keyed → c.mode = mSTOP → (d 4).turnHeld.turn = [] → (d 4).get PWR_WAKEEN.EN ≠ 0 →
      let down : Chip := (((err 4 0).set1 SYS_MODE.TRANS).put SYS_MODE.TARGET mINTER).modPwr fun p =>
        { p with wakeEn := c.get PWR_WAKEEN.EN, kept := c.keptRing, wake := none }
      (c.keptRing = none → Does s (.sysIntermission w) down) ∧
      (∀ r, c.keptRing = some r → c.get (STN_STATE.NSTN r) ≠ 0 → Does s (.sysIntermission w) (down.retrain r))) ∧
    (keyed → c.mode = mSTOP → (d 4).turnHeld.turn ≠ [] ∨ (d 4).get PWR_WAKEEN.EN = 0 → Does s (.sysIntermission w) (err 4 4)) ∧
    (keyed → c.mode = mSAFE → c.sys.unitHold = false → c.pins.fence = false → Does s (.sysLeaveSafehold w) ((err 5 0).enterStop 1).bootWindow) ∧
    (keyed → c.mode ≠ mSAFE → Does s (.sysLeaveSafehold w) (err 5 2)) ∧
    (keyed → c.mode = mSAFE → c.sys.unitHold = true ∨ c.pins.fence = true → Does s (.sysLeaveSafehold w) (err 5 4)) ∧
    (keyed → Does s (.sysSoftwareReset w) ((d 6).pinReset SYS_RSTCAUSE.SW))

/-- Events of the mode controller (R30, R31, R34, R48, R269, R496, R501): the end of a transition to STOP leaves no activation, no queued request and
the mode of Table 2.1; a start mode restarts once every ring is ready; a ring that has had its time counts as ready; FENCE_N and a stopped reference
clock, which is a UNIT fault, lead to SAFE-HOLD, and LOAD keeps FENCE_N until its end. The model's own: the gate of a fenced unit closes at once (log
entry 10), CMDERR is 0 at a start mode that runs (log entry 97), the host link is lost when the reference clock stops (log entry 98), and a pending start
mode ends in SAFE-HOLD (log entry 127). -/
def Obligations.ModeEvents : Prop :=
  ∀ (s : State) (r : Fin 4) (now : Time) (st : Nat),
    let c := came s now
    let fenced : Chip := { c with pins := { c.pins with fence := true } }
    let begun : Chip := c.modSys fun y => { y with start := none }
    let stops : Prop := c.flag SYS_MODE.TRANS = true ∧ c.get SYS_MODE.TARGET = mSTOP ∧ c.flushing = false ∧ c.scansDone = true ∧ c.sys.handing = false
    let starts : Prop := c.sys.start = some st ∧ c.mode = mSTOP ∧ c.flag SYS_MODE.TRANS = false ∧ c.sys.runReq = none ∧ c.ringsReady = true
    let idle (c' : Chip) : Prop := (∀ t, (c'.task t).live = false) ∧ (∀ e, (c'.eng e).run = none) ∧ (∀ p, c'.ph p = ⟨[], [], []⟩) ∧
      c'.flt.execQ = [] ∧ c'.flt.commQ = [] ∧ c'.flt.sysQ = [] ∧ ∀ q, (c'.ring q).ioq = []
    let entered (c' : Chip) (m reason : Nat) : Prop :=
      c'.mode = m ∧ c'.get SYS_MODE.PREV = c.mode ∧ c'.get SYS_MODE.REASON = reason ∧ c'.flag SYS_MODE.TRANS = false ∧ idle c'
    (stops → c.mode = mRUN → Does s (.stopTransitionComplete now) (c.enterStop 1)) ∧
    (Canonical s → Powered s → stops → c.mode = mRUN ∨ c.mode = mFOLLOW →
      Leads (.stopTransitionComplete now) s fun c' => entered c' mSTOP 1 ∧ c'.sys.stopAt = c.tb) ∧
    (c.scansDone = false → Does s (.stopTransitionComplete now) c) ∧
    (starts → begun.flushing = false → begun.checkRun = 0 → c.pairMember = false →
      (st = 1 → Does s (.startModeRestart now) ((begun.restart false 2).put SYS_CMDSTAT.CMDERR 0)) ∧
      (st = 3 → begun.warmOk = true → Does s (.startModeRestart now) ((begun.restart true 2).put SYS_CMDSTAT.CMDERR 0)) ∧
      (st = 2 → c.warmOk = true → Does s (.startModeRestart now) ((begun.restart true 2).put SYS_CMDSTAT.CMDERR 0))) ∧
    (starts → (st = 1 → Does s (.startModeRestart now) (c.askRun false 2)) ∧ (st = 3 → Does s (.startModeRestart now) (c.askRun true 2)) ∧
      (st = 2 → c.warmOk = false → Does s (.startModeRestart now) ((c.flushNotes.put SYS_BOOTSTAT.CFGERR 6).askRun false 2))) ∧
    (c.sys.start = none → Does s (.startModeRestart now) c) ∧
    (c.mode = mSTOP → c.get (STN_STATE.NSTN r) ≠ 0 → c.sys.stopAt.toNat + 2000000 + 40000000 * c.get (STN_STATE.NSTN r) ≤ c.tb.toNat →
      Does s (.ringReadyTimeout r now) (c.modRing r fun g => { g with ready := true }) ∧
      (Powered s → Leads (.ringReadyTimeout r now) s fun c' => (c'.ring r).ready = true ∧ c'.regs = c.regs ∧ ∀ q, q ≠ r → c'.ring q = c.ring q)) ∧
    (c.hsb.arb = none → c.mode = mLOAD → Does s (.fenceNAsserted now) (fenced.modSys fun y => { y with fenceSeen := true })) ∧
    (c.hsb.arb = none → c.mode = mSAFE → Does s (.fenceNAsserted now) fenced.releaseClaim) ∧
    (Canonical s → Powered s → c.hsb.arb = none → c.mode ≠ mLOAD → c.mode ≠ mSAFE →
      Leads (.fenceNAsserted now) s fun c' => entered c' mSAFE 4 ∧ c'.pins.fence = true ∧ c'.get HSB_STATE.CLM = 0 ∧ c'.gateOpen = false) ∧
    Does s (.fenceNReleased now) { c with pins := { c.pins with fence := false } }.updateGates ∧
    Does s (.refclkStopped now) ({ c with pins := { c.pins with refclk := false } }.hostLinkLost.fault 3 0x0F 0 0x4C) ∧
    (Canonical s → Powered s → c.mode ≠ mLOAD → c.mode ≠ mSAFE →
      Leads (.refclkStopped now) s fun c' => entered c' mSAFE 3 ∧ c'.pins.refclk = false ∧ c'.sys.unitHold = true ∧ c'.flag FLT_STAT.UNIT = true)

/-- Resets (R38, R376, R402, R413, R455, R489 to R493; Tables 2.3 and 21.6): what each leaves as it was, the states of the balls, and its cause; an
erase unit of the parameter store that is
under way completes first; the version field of the IDCODE reads 0x1 (R2). The reset values of registers that the spec leaves open are the model's own
and are not claimed here; that TB goes on and that volatile memory reads as after power-on are its choices too (log entries 21 and 3), and registers
that a chapter preserves are those of log entry 22. -/
def Obligations.ResetsPreserveWhatTheTableSays : Prop :=
  ∀ (s : State) (p : PowerOn) (now : Time) (o n : Nat) (l : List (Nat × Nat)),
    let c := came s now
    let idle : Prop := c.turnHas 0 .store = false ∧ c.nvs.inc = none
    let erases : Prop := c.turnHas 0 .store = true ∧ c.cellWriter = false ∧ c.nvs.erasing = (o, n) :: l
    let kept (b c' : Chip) : Prop :=
      (∀ a, nonvolatile a = true → c'.ldB a = b.ldB a) ∧ (∀ a, nonvolatile a = false → c'.ldB a = memDefault a) ∧
      (∀ j, j < 16 → c'.rd (RTC_BKP.reg j) = c.rd (RTC_BKP.reg j)) ∧ c'.rd RTC_ALM.reg = c.rd RTC_ALM.reg ∧ c'.rd RTC_TRIM.reg = c.rd RTC_TRIM.reg ∧
      c'.flt.fuses = c.flt.fuses ∧ c'.nvs.worn = c.nvs.worn ∧ c'.tb = c.tb ∧ c'.mode = mLOAD ∧ c'.turn = [] ∧ c'.sys.booted = false ∧
      c'.idcode.extractLsb' 28 4 = (1 : BitVec 4) ∧
      c'.balls = ⟨false, true, true, false, ⟨false, false, false⟩, some false, some false, some true, some true, true, some false, some true, some true,
        .idle, .idle, .idle, .idle⟩
    let pin (b c' : Chip) : Prop :=
      kept b c' ∧ c'.flt.log = c.flt.log ∧ c'.rd FLT_LOGSEQ.reg = c.rd FLT_LOGSEQ.reg ∧ c'.mbx = c.mbx ∧ c'.rtc.pre = c.rtc.pre ∧ c'.sys.held = .no
    (Canonical s → idle → p.testen = false → p.a = true ∨ p.b = true →
      Leads (.powerOnReset p now) s fun c' => kept c c' ∧ c'.rd SYS_RSTCAUSE.reg = BitVec.ofNat 32 (2 ^ SYS_RSTCAUSE.POR.lo) ∧
        c'.flt.log = Vector.replicate 64 (Vector.replicate 4 0) ∧ c'.pins.pairId = p.pairId ∧ c'.sys.held = (if p.rstLow then .pin else .no)) ∧
    (p.testen = true → exec (.powerOnReset p now) s = .fault .testMode) ∧
    (Canonical s → s.chip.sys.held ≠ .power → s.chip.sys.held ≠ .pin →
      (idle → Leads (.pinReset now) s fun c' => pin c c' ∧ c'.flag SYS_RSTCAUSE.PIN = true) ∧
      (erases → Leads (.pinReset now) s fun c' => pin (c.eraseNvs o 4096) c' ∧ c'.flag SYS_RSTCAUSE.PIN = true)) ∧
    (s.chip.sys.held = .pin → exec (.pinReset now) s = .next (at_ s (c.modSys fun y => { y with held := .no }))) ∧
    (s.chip.sys.held = .power → exec (.pinReset now) s = .next (at_ s c)) ∧
    (Canonical s → idle → Leads (.powerGoodLost now) s fun c' => kept c c' ∧ c'.sys.held = .power) ∧
    (Canonical s → Powered s → c.wdg.due = true → idle → Leads (.watchdogReset now) s fun c' => pin c c' ∧ c'.flag SYS_RSTCAUSE.WDG = true) ∧
    (Powered s → c.wdg.due = false ∨ erases → exec (.watchdogReset now) s = .next (at_ s c)) ∧
    (Canonical s → s.chip.sys.held = .flushed → idle → c.flag PWR_FEED.AGOOD = true → c.flag PWR_FEED.BGOOD = true →
      Leads (.flushRecoveryReset now) s fun c' => pin c c' ∧ c'.flag SYS_RSTCAUSE.PFLUSH = true ∧
        c'.flag PWR_FEED.AGOOD = true ∧ c'.flag PWR_FEED.BGOOD = true ∧ c'.rd PWR_FLUSH.reg = c.rd PWR_FLUSH.reg) ∧
    (s.chip.sys.held ≠ .flushed → exec (.flushRecoveryReset now) s = .next (at_ s c)) ∧
    Does s (.pfailStartupWaitEnd now) { c with pins := { c.pins with pfailLow := false } }

/-- The watchdog (R407, R408, R410, R414, R415): a service begins a first period afresh, the end of a first period warns and begins the second at that
instant, the end of the second makes the reset due, and WDG_CTL clears EN only after both keys of the same agent within 1 ms, never while locked; a
write of EN = 0 outside a sequence is recorded as a refused access. -/
def Obligations.WatchdogPeriodsAndKeys : Prop :=
  ∀ (s : State) (w : Cmd) (now t : Time) (l : Nat) (a : AgentId),
    let c := came s now
    let d := s.chip.arrive w.now
    let key := w.value.toNat % 2 ^ 16
    let keys (k : Option (Nat × Time × AgentId)) : Prop := Does s (.wdgKeyWrite w) ((written s w).modWdg fun g => { g with key := k })
    let service : Chip := (c.putB WDG_STAT.WDILVL (!c.flag WDG_STAT.WDILVL)).put WDG_CNT.SVCCNT
      ((c.putB WDG_STAT.WDILVL (!c.flag WDG_STAT.WDILVL)).get WDG_CNT.SVCCNT + 1)
    (c.wdg.period = none → Does s (.wdiService now) service) ∧
    (c.wdg.period.isSome = true → service.debugHalts = false →
      Does s (.wdiService now) ((service.clr WDG_STAT.PHASE).modWdg fun g =>
        { g with period := some (c.tb, service.get WDG_CTL.PERIOD * 1000000), frozen := none })) ∧
    (c.wdg.period = some (t, l) → c.wdg.frozen = none → t.toNat + l ≤ c.tb.toNat →
      (c.flag WDG_STAT.PHASE = false → Does s (.wdgFirstPeriodEnd now)
        (((((c.set1 WDG_STAT.WARN).incSat WDG_CNT.WARNCNT).set1 WDG_STAT.PHASE).modWdg fun g =>
          { g with period := some (t + BitVec.ofNat 64 l, l) }).degradeSys 0x0E 1 0x5B)) ∧
      (c.flag WDG_STAT.PHASE = true → Does s (.wdgSecondPeriodEnd now) (c.modWdg fun g => { g with due := true }))) ∧
    (c.wdg.period = some (t, l) → c.wdg.frozen = none → c.tb.toNat < t.toNat + l →
      Does s (.wdgFirstPeriodEnd now) c ∧ Does s (.wdgSecondPeriodEnd now) c) ∧
    (ByMcHost s w → d.flag WDG_CTL.LOCK = false →
      (key = 0x5A17 → keys (some (1, d.tb, w.agent))) ∧
      (key = 0xE8C2 → d.wdg.key = some (1, t, a) → a = w.agent → d.tb.toNat ≤ t.toNat + 1000000 → keys (some (2, d.tb, w.agent))) ∧
      (key = 0xE8C2 → d.wdg.key = some (1, t, a) → a ≠ w.agent ∨ t.toNat + 1000000 < d.tb.toNat → keys none) ∧
      (key ≠ 0x5A17 → key ≠ 0xE8C2 → keys none)) ∧
    (ByMcHost s w → Powered s → Canonical s → Leads (.wdgCtlWrite w) s fun c' =>
      c'.wdg.key = none ∧ (w.value.getLsbD 30 = false → d.flag WDG_CTL.LOCK = true ∨ d.wdgUnlocked w.agent = false →
        c'.rd GRD_VADDR.reg = BitVec.ofNat 32 WDG_CTL.reg ∧ c'.get GRD_VCNT.CNT = min (d.get GRD_VCNT.CNT + 1) (2 ^ GRD_VCNT.CNT.width - 1)) ∧
          c'.flag WDG_CTL.WIEN = decide (WDG_CTL.WIEN.of w.value ≠ 0) ∧
      (d.flag WDG_CTL.LOCK = true → c'.flag WDG_CTL.LOCK = true ∧ c'.flag WDG_CTL.EN = d.flag WDG_CTL.EN ∧
        c'.get WDG_CTL.PERIOD = d.get WDG_CTL.PERIOD) ∧
      (d.flag WDG_CTL.LOCK = false → c'.flag WDG_CTL.LOCK = w.value.getLsbD 31 ∧
        c'.get WDG_CTL.PERIOD = max (WDG_CTL.PERIOD.of w.value) 1 ∧
        (c'.flag WDG_CTL.EN = true ↔ w.value.getLsbD 30 = true ∨ (d.flag WDG_CTL.EN = true ∧ d.wdgUnlocked w.agent = false)))) ∧
    (isMc w.agent = false → isHost w.agent = false →
      Does s (.wdgKeyWrite w) (((d.modWdg fun g => { g with key := none }).refuse w.agent true WDG_KEY.reg).denied w.agent 0) ∧
      Does s (.wdgCtlWrite w) (((d.modWdg fun g => { g with key := none }).refuse w.agent true WDG_CTL.reg).denied w.agent 0))

/-- Feeds, temperature and the Turnstile (R438 to R443, R446 to R448): a lost or restored feed and the domains that follow it, the return to the preferred
feed, the feed comparison, ENV, the grant of the next request with WMAX to a requester that is not powered down, a retraining's slot that its maximum
hold frees (log entry 64), the converted image that a grant writes to the other bank, body first and header
last (R46; the size of a burst is the model's choice, log entry 101), and PWR_BUDGET with its bounds and lock. -/
def Obligations.FeedsAndTurnstile : Prop :=
  ∀ (s : State) (w : Cmd) (f : Fin 2) (d : Fin 3) (mv : Nat) (tj : BitVec 16) (cls : Fin 7) (a : Admission) (now : Time) (v : Conv),
    let c := came s now
    let u := written s w
    let pref : Fin 2 := Fin.ofNat 2 (c.get PWR_CTL.PREF)
    let base := PWR_BUDGET.BASE.of w.value
    let bud := PWR_BUDGET.BUDGET.of w.value
    let wait := min 65535 ((c.tb.toNat - a.since.toNat) / 1000)
    let n := if 30 < mv then c.pwr.diffs + 1 else 0
    let h := c.turnHeld
    let granted : Chip :=
      let x := if h.get (PWR_TSCLS.WMAX cls) < wait then h.put (PWR_TSCLS.WMAX cls) wait else h
      (if cls = 1 then { x with pins := { x.pins with emmcUsed := true } } else x).turnAdmit a
    let cmp : Chip := (c.put PWR_FEED.DIFF (min 255 mv)).modPwr fun p => { p with diffs := n }
    (c.feedGood f = true → Does s (.feedLost f now)
      (((((c.clr (goodFld f)).set1 PWR_STAT.FEEDLOST).modPwr fun p => { p with diffs := 0 }).feedsFollow).degradeSys 0x0A 0 0x50)) ∧
    (c.feedGood f = false → Does s (.feedLost f now) c ∧ Does s (.feedGood f now)
      (((((c.set1 (goodFld f)).set1 PWR_STAT.FEEDREST).modPwr fun p => { p with goodAt := p.goodAt.set f c.tb }).feedsFollow).fault 0 0x0A 0 0x52)) ∧
    (c.feedGood f = true → Does s (.feedGood f now) c) ∧
    (c.flag PWR_CTL.AUTORET = true → c.pwr.left[d] = true → c.feedOf d ≠ pref → c.feedGood pref = true →
      c.pwr.goodAt[pref].toNat + 100000000 ≤ c.tb.toNat → Does s (.autoReturn d now) (c.switchTo d pref).envUpdate) ∧
    (c.flag PWR_CTL.AUTORET = false → Does s (.autoReturn d now) c) ∧
    (c.feedGood 0 = true → c.feedGood 1 = true → Does s (.feedCompare mv now)
      (if 3 ≤ n ∧ cmp.flag PWR_STAT.FEEDMM = false then (cmp.set1 PWR_STAT.FEEDMM).degradeSys 0x0A 0 0x51 else cmp)) ∧
    Does s (.tempSensorUpdate tj now) (c.put PWR_TEMP.TJ tj.toNat).envUpdate ∧
    (c.flushing = false → h.turnNext cls = some a → h.sleeps a.who = true → Does s (.turnstileGrant cls now) h) ∧
    (c.flushing = false → h.turnNext cls = some a → h.sleeps a.who = false →
      (a.who ∉ [.xspi, .update, .mimic, .shadow, .olc, .store] → Does s (.turnstileGrant cls now) granted) ∧
      (a.who = .shadow → Does s (.turnstileGrant cls now) granted.warmGranted) ∧ (a.who = .olc → Does s (.turnstileGrant cls now) granted.loadPortion) ∧
      (a.who = .store → Does s (.turnstileGrant cls now) granted.storeGranted) ∧ (a.who = .mimic → Does s (.turnstileGrant cls now) granted.mimGranted) ∧
      (a.who = .update → Does s (.turnstileGrant cls now) granted.updReads) ∧
      (a.who = .xspi → c.sys.conv = none → Does s (.turnstileGrant cls now)
        (match c.upd.job with
          | some j => granted.updBurst j
          | none => granted.turnEnd 0 .xspi))) ∧
    (Canonical s → Powered s → c.flushing = false → c.mode ≠ mINTER → h.turnNext cls = some a → a.who = .xspi → c.sys.conv = some v → v.bank < 2 →
      64 ≤ v.image.length → v.image.length ≤ 0x800000 → Leads (.turnstileGrant cls now) s fun c' =>
        let adr (i : Nat) : Nat := cfgBank v.bank + i
        let full : Nat := (v.image.length + 4095) / 4096
        (v.bursts = 0 → c'.sys.conv = some { v with bursts := 1 } ∧ ∀ i, i < 0x800000 → c'.ldB (adr i) = 0xFF) ∧
        (0 < v.bursts → v.bursts ≤ full → c'.sys.conv = some { v with bursts := v.bursts + 1 } ∧ (∀ i, i < 64 → c'.ldB (adr i) = c.ldB (adr i)) ∧
          ∀ i, 64 ≤ i → 4096 * (v.bursts - 1) ≤ i → i < 4096 * v.bursts → i < v.image.length → c'.ldB (adr i) = v.image.getD i 0) ∧
        (full < v.bursts → c'.sys.conv = none ∧ (∀ i, i < 64 → c'.ldB (adr i) = v.image.getD i 0) ∧ ∀ i, 64 ≤ i → c'.ldB (adr i) = c.ldB (adr i))) ∧
    (c.flushing = false → h.turnNext cls = none → Does s (.turnstileGrant cls now) h) ∧
    (c.flushing = true → Does s (.turnstileGrant cls now) h) ∧
    (∀ b, b ∈ h.turn ↔ b ∈ c.turn ∧ ¬ (b.cls = 5 ∧ b.admitted = true ∧ b.since.toNat + 2000000 ≤ c.tb.toNat)) ∧
    (h.turnNext cls = some a → a ∈ h.turn ∧ a.cls = cls.val ∧ a.admitted = false ∧
      (h.turn.filter fun b => b.cls == cls.val && b.admitted).length < turnSlots cls) ∧
    (ByMcHost s w → u.flag PWR_BUDGET.LK = false → 100 ≤ base → base ≤ 1500 → 800 ≤ bud → bud ≤ 1500 → base + 304 ≤ bud →
      Does s (.pwrBudgetWrite w) (u.wr PWR_BUDGET.reg (w.value &&& 0x87FF07FF))) ∧
    (ByMcHost s w → base < 100 ∨ 1500 < base ∨ bud < 800 ∨ 1500 < bud ∨ bud < base + 304 → Does s (.pwrBudgetWrite w) (u.set1 PWR_STAT.BUDERR)) ∧
    (ByMcHost s w → 100 ≤ base → base ≤ 1500 → 800 ≤ bud → bud ≤ 1500 → base + 304 ≤ bud → u.flag PWR_BUDGET.LK = true →
      Does s (.pwrBudgetWrite w) u)

/-- INTERMISSION and the power-fail flush (R36, R241, R449 to R455): the entry completes and the mode is INTERMISSION, a wake is noted, the first enabled
one begins the exit, also one that comes during the entry, the exit leads to STOP; a power failure starts one flush, which ends all activations, keeps
only what the store has begun, waits for it, and at its end writes the retentive and tail areas and halts the chip. STATUS 7 of the transactions of a ring
that goes down is the model's choice (log entry 137). -/
def Obligations.IntermissionAndFlush : Prop :=
  ∀ (s : State) (k : Fin 5) (now t : Time),
    let c := came s now
    let noted := c.setBit PWR_WAKE.SRC k
    let down : Chip := c.forFin 4 fun r c => ((c.forIn (c.acPending r) fun t c => c.acDone r t 7).put (STN_LAT.STATE r) 0).modRing r fun g => { g with cyc := none }
    (c.mode = mSTOP → c.asleep = true → c.pwr.kept = none → c.pwr.wake = none →
      Does s (.intermissionEntryComplete now) (((down.mimStop.clr HSB_LINK.LANE1).linkRest true).enterMode mINTER 1)) ∧
    (c.mode ≠ mSTOP → Does s (.intermissionEntryComplete now) c) ∧
    (noted.asleep = false ∨ noted.pwr.wake.isSome = true ∨ noted.pwr.wakeEn.testBit k = false → Does s (.wakeSource k now) noted) ∧
    (noted.mode = mINTER → noted.pwr.wake = none → noted.pwr.wakeEn.testBit k = true →
      Does s (.wakeSource k now)
        ((((noted.put PWR_WAKE.FIRST k).modPwr fun p => { p with wake := some k }).set1 SYS_MODE.TRANS).put SYS_MODE.TARGET mSTOP)) ∧
    (noted.mode ≠ mINTER → noted.asleep = true → noted.pwr.wake = none → noted.pwr.wakeEn.testBit k = true →
      Does s (.wakeSource k now) ((noted.put PWR_WAKE.FIRST k).modPwr fun p => { p with wake := some k })) ∧
    (c.mode = mINTER → c.pwr.wake.isSome = true →
      Does s (.intermissionExitComplete now)
        ((((c.enterStop 7).set1 PWR_STAT.WOKE).modPwr fun p => { p with wake := none }).drainGo true)) ∧
    (c.mode ≠ mINTER ∨ c.pwr.wake = none → Does s (.intermissionExitComplete now) c) ∧
    (Powered s → c.pwr.flush = none → c.pins.pfailLow = false → Leads (.powerFailTrigger true now) s fun c' =>
      c'.pwr.flush = some c.tb ∧ (∀ u, (c'.task u).live = false) ∧ (∀ e, (c'.eng e).run = none) ∧ (∀ p, c'.ph p = ⟨[], [], []⟩) ∧
      c'.rcd.stopped = true ∧ c'.rcd.drain = none ∧ c'.sys.conv = none ∧
      (∀ a, a ∈ c'.turn ↔ a ∈ c.turn ∧ a.admitted = true ∧ a.cls = 0 ∧ a.who = .store) ∧ c'.mem = c.mem) ∧
    (c.flushing = true ∨ c.pins.pfailLow = true → Does s (.powerFailTrigger true now) c) ∧
    (c.pwr.flush = none → c.feedsLost = false → Does s (.powerFailTrigger false now) c) ∧
    (c.pwr.flush = some t → c.turnHas 0 .store = true → Does s (.flushComplete now) c) ∧
    (c.pwr.flush = some t → c.turnHas 0 .store = false →
      Does s (.flushComplete now) ((((c.flushRetentive.flushTail).put PWR_FLUSH.TIME (min 65535 ((c.tb.toNat - t.toNat) / 1000))).set1 PWR_FLUSH.DONE).modSys
        fun y => { y with held := .flushed })) ∧
    (c.flag NVS_STAT.TARM = false → c.flushTail = c.set1 NVS_STAT.TAILLOST) ∧
    (c.pwr.flush = none → Does s (.flushComplete now) c)

/-- The real-time clock and its backup domain (R394, R395, R397 to R401, R403 to R405): what a second does, a snapshot, ARM and CANCEL, the trim slots,
a battery reading, and the PPS edge with its measured error and lock, and its loss. The clock runs on while the chip is held. How TB is steered by the
measured error is the model's reading (log entry 117), and so is the weekday that ARM checks only where it is to be set (log entry 143). -/
def Obligations.RealTimeClock : Prop :=
  ∀ (s : State) (w : Cmd) (mv : Nat) (now p : Time),
    let c := came s now
    let u := written s w
    let r := c.rtc
    let day := civil (u.rtc.secs / 86400)
    let sec := u.rtc.secs % 86400
    let writer : Prop := s.chip.rtcWriter w.agent = true ∧ (isHost w.agent = true → HostReaches s)
    let pps (e : Int) (run : Nat) : Chip := (c.wr RTC_PPSERR.reg (BitVec.ofInt 32 e)).modRtc fun r =>
      { r with ppsAt := some now, ppsRun := run, slew := -e }
    (Canonical s → Leads (.rtcSecondBoundary now) s fun c' =>
      c'.rtc.pre = 0 ∧ c'.rtc.preAt = c.tb ∧ c'.tb = c.tb ∧ c'.flag RTC_STAT.TICK = true ∧
      c'.flag RTC_STAT.ALARM = (c.flag RTC_STAT.ALARM || c'.alarmHits) ∧
      c'.rtc.slot = (if c'.rtc.secs % 128 = 0 then 0
        else if c.flag RTC_STATE.WPEND = true ∧ c'.rtc.secs ≠ (r.secs + 1) % rtcSpan then 512 else r.slot) ∧
      (c.flag RTC_STATE.WPEND = false →
        c'.rtc.secs = (if r.secs + 1 = rtcSpan then 0 else r.secs + 1) ∧
        c'.rtc.wday = (if (r.secs + 1) % 86400 = 0 then (r.wday + 1) % 7 else r.wday) ∧
        c'.flag RTC_STATE.TIMEINV = (c.flag RTC_STATE.TIMEINV || decide (r.secs + 1 = rtcSpan))) ∧
      (c.flag RTC_STATE.WPEND = true →
        c'.rtc.secs = 86400 * daysOf (c.get RTC_WDATE.YEAR) (c.get RTC_WDATE.MONTH) (c.get RTC_WDATE.DAY) +
          3600 * c.get RTC_WTIME.HOUR + 60 * c.get RTC_WTIME.MIN + c.get RTC_WTIME.SEC ∧
        c'.rtc.wday = (if r.wdayEn then c.get RTC_WTIME.WDAY else r.wday) ∧
        c'.flag RTC_STATE.TIMEINV = false ∧ c'.flag RTC_STATE.WPEND = false ∧ c'.flag RTC_STAT.WDONE = true ∧
        c'.rd RTC_WTBL.reg = c.tb.setWidth 32 ∧ c'.rd RTC_WTBH.reg = c.tb.extractLsb' 32 32)) ∧
    (writer →
      Does s (.rtcTake w)
        ((((((((((u.put RTC_SDATE.YEAR day.1).put RTC_SDATE.MONTH day.2.1).put RTC_SDATE.DAY day.2.2).put RTC_STIME.WDAY u.rtc.wday).put
          RTC_STIME.HOUR (sec / 3600)).put RTC_STIME.MIN (sec / 60 % 60)).put RTC_STIME.SEC (sec % 60)).put RTC_SSUB.PRE u.rtcPre)).incWrap
          RTC_STATE.SNAPSEQ)) ∧
    (writer → RTC_WCMD.KEY.of w.value = 0x7C31 →
      (u.rtcStagedOk (w.value.getLsbD 4) = true → Does s (.rtcArm w) ((u.set1 RTC_STATE.WPEND).modRtc fun r => { r with wdayEn := w.value.getLsbD 4 })) ∧
      (u.rtcStagedOk (w.value.getLsbD 4) = false → Does s (.rtcArm w) (u.set1 RTC_STAT.WERR)) ∧
      Does s (.rtcCancel w) (u.clr RTC_STATE.WPEND)) ∧
    (writer → RTC_WCMD.KEY.of w.value ≠ 0x7C31 → Does s (.rtcArm w) u ∧ Does s (.rtcCancel w) u) ∧
    (r.slot < 512 → exec (.trimSlotEnd now) s = .next (at_ s (c.modRtc fun r =>
      { r with slot := r.slot + 1,
               pre := if r.slot < c.trim.natAbs then (if 0 < c.trim then r.pre + 1 else r.pre - 1) else r.pre }))) ∧
    (512 ≤ r.slot → exec (.trimSlotEnd now) s = .next (at_ s c)) ∧
    (2000 ≤ mv → Does s (.vbatMeasure mv now) c) ∧
    (mv < 2000 → r.vbatSaid = true → Does s (.vbatMeasure mv now) ((c.set1 RTC_STAT.VBATLOW).modRtc fun r => { r with vbatSaid := true })) ∧
    (mv < 2000 → r.vbatSaid = false →
      Does s (.vbatMeasure mv now) (((c.set1 RTC_STAT.VBATLOW).modRtc fun r => { r with vbatSaid := true }).fault 0 0x0E 0 0x58)) ∧
    (c.flag RTC_PPSCTL.EN = true → c.mode ≠ mFOLLOW → (r.ppsAt = none ∨ ∃ q, r.ppsAt = some q ∧ q.toNat + 999000000 ≤ now.toNat ∧
      now.toNat ≤ q.toNat + 1001000000) →
      let e := ppsErr now.toNat
      (e.natAbs ≤ 100 → 9 ≤ r.ppsRun → Does s (.ppsEdge now) ((pps e (r.ppsRun + 1)).set1 RTC_STATE.PPSLOCK)) ∧
      (e.natAbs ≤ 100 → r.ppsRun < 9 → Does s (.ppsEdge now) (pps e (r.ppsRun + 1))) ∧
      (100 < e.natAbs → e.natAbs ≤ 1000 → Does s (.ppsEdge now) (pps e 0)) ∧
      (1000 < e.natAbs → Does s (.ppsEdge now) ((pps e 0).clr RTC_STATE.PPSLOCK))) ∧
    (c.flag RTC_PPSCTL.EN = false ∨ c.mode = mFOLLOW → Does s (.ppsEdge now) c ∧ Does s (.ppsLossTimeout now) c) ∧
    (c.flag RTC_PPSCTL.EN = true → c.mode ≠ mFOLLOW → r.ppsAt = some p ∨ (r.ppsAt = none ∧ r.ppsOn = some p) → p.toNat + 3000000000 ≤ c.tb.toNat →
      Does s (.ppsLossTimeout now)
        ((((c.set1 RTC_STAT.PPSLOST).clr RTC_STATE.PPSLOCK).modRtc fun r => { r with ppsAt := none, ppsOn := none, ppsRun := 0, slew := 0 }).fault 0 0x0E 0 0x5A)) ∧
    (r.ppsAt = some p ∨ (r.ppsAt = none ∧ r.ppsOn = some p) → c.tb.toNat < p.toNat + 3000000000 → Does s (.ppsLossTimeout now) c) ∧
    (r.ppsAt = none → r.ppsOn = none → Does s (.ppsLossTimeout now) c) ∧
    exec (.backupDomainBrownout now) s = .next (at_ s (c.modRtc fun r => { r with latch := true }))

/-- Two-party agreement (R476 to R479, R482): PROPOSE, AGREE, WITHDRAW and LOCKDBG with their outcomes in the writer's own bank; a change of kind 1 is
carried out on the partition registers at once, kind 2 opens the debug port, kind 6 leaves a key to write, and one of kinds 3 to 5 leaves a grant. -/
def Obligations.TwoPartyAgreement : Prop :=
  ∀ (s : State) (w : Cmd) (p : Fin 16),
    let u := written s w
    let a := w.agent
    let cls := u.grdClass a
    let addr := (spGet 0 u.grd.raddr a.toNat).toNat
    let r := u.ldBytes addr 64
    let dig := sha256 r
    let listed := u.grd.agree.contains dig
    let placed : Prop := addr % 8 = 0 ∧ ((0x3C000000 ≤ addr ∧ addr + 64 ≤ 0x3C0A0000) ∨ (0x38000000 ≤ addr ∧ addr + 64 ≤ 0x38080000))
    let free : Prop := u.get GRD_PROP.STATE = 0 ∨ (u.get GRD_PROP.STATE = 1 ∧ u.get GRD_PROP.PCLASS = cls)
    let comes : Prop := grdAgent a = true ∧ (isHost a = true → HostReaches s)
    let keyed : Prop := comes ∧ GRD_CMD.KEY.of w.value = 0xA7D2
    let proposed : Chip := (((((u.grdProp (recField r 0 1) (recField r 1 1) cls 1).grdDig dig).modGrd fun g =>
      { g with record := r, since := u.tb }).setBit GRD_STAT.FLAGS 1).grdErr a 0)
    (comes → GRD_CMD.KEY.of w.value ≠ 0xA7D2 →
      ∀ i ∈ ([.grdPropose, .grdAgree, .grdWithdraw, .grdLockdbg] : List (Cmd → Instr)), Does s (i w) (u.grdErr a 1)) ∧
    (keyed → cls ≠ 0 → free → placed → u.grdValid r listed = true → ¬ (cls = 4 ∧ recField r 0 1 = 2) →
      (listed = false → Does s (.grdPropose w) proposed) ∧ (listed = true → Does s (.grdPropose w) (proposed.grdAgreed 3))) ∧
    (keyed → cls ≠ 0 → free → ¬ placed ∨ u.grdValid r listed = false → Does s (.grdPropose w) (u.grdErr a 4)) ∧
    (keyed → cls ≠ 0 → u.get GRD_PROP.STATE = 2 → Does s (.grdPropose w) (u.grdErr a 3)) ∧
    (keyed → cls ≠ 0 → u.get GRD_PROP.STATE = 1 → u.get GRD_PROP.PCLASS ≠ cls → u.tb.toNat ≤ u.grd.since.toNat + 2000000000 →
      ¬ (cls = 4 ∧ u.get GRD_PROP.KIND = 2) →
      (u.agentDig a = u.pendDig → Does s (.grdAgree w) ((u.grdErr a 0).grdAgreed cls)) ∧
      (u.agentDig a ≠ u.pendDig → Does s (.grdAgree w) (((u.incWrap GRD_PSEQ.SEQ).grdIdle).grdErr a 5))) ∧
    (keyed → cls ≠ 0 → u.get GRD_PROP.STATE = 1 → u.get GRD_PROP.PCLASS = cls → ¬ (cls = 4 ∧ u.get GRD_PROP.KIND = 2) →
      Does s (.grdAgree w) (u.grdErr a 6)) ∧
    (keyed → cls ≠ 0 → u.get GRD_PROP.STATE = 1 → u.get GRD_PROP.PCLASS = cls →
      Does s (.grdWithdraw w) (((u.incWrap GRD_PSEQ.SEQ).grdIdle).grdErr a 0)) ∧
    (keyed → u.get GRD_PROP.STATE ≠ 1 → Does s (.grdAgree w) (u.grdErr a 2) ∧ Does s (.grdWithdraw w) (u.grdErr a 2)) ∧
    (keyed → cls ≠ 0 → Does s (.grdLockdbg w) (u.dbgLock.grdErr a 0)) ∧
    (Canonical s → u.get GRD_PROP.KIND = 1 → u.get GRD_PROP.ARG = p.val →
      let v := u.grdAgreed cls
      let rec1 := u.grd.record
      v.get (GRD_PBASE.BASE p) = recField rec1 8 4 / 4096 ∧ v.get (GRD_PLIM.LIMIT p) = recField rec1 12 4 / 4096 ∧
      v.get (GRD_PBASE.EN p) = recField rec1 20 4 % 2 ∧ v.rd (GRD_PPERM.reg p) = BitVec.ofNat 32 (recField rec1 16 4) ∧
      v.get GRD_PROP.STATE = 0 ∧ v.get GRD_PSEQ.SEQ = (u.get GRD_PSEQ.SEQ + 1) % 2 ^ 32 ∧ v.mem = u.mem) ∧
    (Canonical s → u.get GRD_PROP.KIND = 2 → u.get GRD_PROP.ARG = 1 ∨ u.get GRD_PROP.ARG = 2 →
      (u.grdAgreed cls).get GRD_DBG.DBGST = u.get GRD_PROP.ARG ∧ (u.grdAgreed cls).get GRD_PROP.STATE = 0) ∧
    (Canonical s → u.get GRD_PROP.KIND = 6 →
      (u.grdAgreed cls).grd.keyJobs = u.grd.keyJobs ++ [u.grd.record] ∧ (u.grdAgreed cls).get GRD_PROP.STATE = 0) ∧
    (Canonical s → 3 ≤ u.get GRD_PROP.KIND → u.get GRD_PROP.KIND ≤ 5 → (u.grdAgreed cls).get GRD_PROP.STATE = 2 ∧ (u.grdAgreed cls).grd.since = u.tb)

/-- The guard's time and the debug port (R412, R475, R478, R479, R481, R482): expiry of a proposal, a grant and an unlock, the fault at the end of a TB second
with refusals, the writing of an agreed key, and halts that freeze the watchdog; a port at FULL halts, steps and inspects engines and cores, one at OBSERVE
reads their state without halting, and a locked one does nothing. The order of the words that the port reads is the model's (log entry 150). -/
def Obligations.GuardTimeAndDebugPort : Prop :=
  ∀ (s : State) (e : Fin 16) (m : Fin 2) (now t : Time) (r : List Byte) (l : List (List Byte)) (k : Nat) (q : RetEntry),
    let c := came s now
    let old : Prop := c.grd.since.toNat + 2000000000 ≤ c.tb.toNat
    let key := c.ldBytes (recField r 8 4) 64
    let put : Bool × Chip := ((c.modGrd fun g => { g with keyJobs := l }).storeEnd).cellsPut 3 c.keyCells
    let sec := c.tb.toNat / 1000000000
    (c.get GRD_PROP.STATE = 1 → old → Does s (.proposalExpiry now)
      ((((c.incWrap GRD_PSEQ.SEQ).grdIdle).setBit GRD_STAT.FLAGS 3).fault 0 0x0C 0 0x5F)) ∧
    (c.get GRD_PROP.STATE ≠ 1 ∨ ¬ old → Does s (.proposalExpiry now) c) ∧
    (c.get GRD_PROP.STATE = 2 → old → Does s (.grantExpiry now) c.grdIdle) ∧
    (c.get GRD_PROP.STATE ≠ 2 ∨ ¬ old → Does s (.grantExpiry now) c) ∧
    (c.grd.dbgUntil = some t → t.toNat ≤ c.tb.toNat → c.get GRD_DBG.DBGST ≠ 0 →
      Does s (.debugUnlockExpiry now)
        (((c.clr GRD_DBG.DBGST).setBit GRD_STAT.FLAGS 4).modGrd fun g => { g with dbgUntil := none }).releaseHalts) ∧
    (Canonical s → Powered s → c.grd.dbgUntil = some t → t.toNat ≤ c.tb.toNat → c.get GRD_DBG.DBGST ≠ 0 →
      Leads (.debugUnlockExpiry now) s fun c' => c'.get GRD_DBG.DBGST = 0 ∧ (∀ e, (c'.eng e).halted = false) ∧ (∀ m, (c'.core m).halted = false) ∧
        c'.wdg.frozen = none ∧ c'.flag WDG_STAT.FROZEN = false) ∧
    (c.grd.dbgUntil = none → Does s (.debugUnlockExpiry now) c) ∧
    ((∃ n ∈ c.grd.refused, n < sec) → Does s (.refusalSecondEnd now)
      ((c.modGrd fun g => { g with refused := g.refused.filter (sec ≤ ·) }).fault 1 0x0C 0 0x5D)) ∧
    ((∀ n ∈ c.grd.refused, sec ≤ n) → Does s (.refusalSecondEnd now) c) ∧
    (c.grd.keyJobs = r :: l → c.turnHas 0 .store = true →
      (sha256 key = (r.drop 12).take 32 → Does s (.keySlotWrite now) (if put.1 then put.2.fault 0 0x0C 0 0x5E else put.2)) ∧
      (Canonical s → Powered s → sha256 key = (r.drop 12).take 32 → c.nvs.stuck = [] → Leads (.keySlotWrite now) s fun c' =>
        let slot : Nat := 0x6006A080 + 64 * (recField r 1 1 % 4)
        c'.ldBytes slot 64 = key ∧ (∀ a, a < slot ∨ slot + 64 ≤ a → c'.ldB a = c.ldB a) ∧ c'.grd.keyJobs = l) ∧
      (sha256 key ≠ (r.drop 12).take 32 →
        Does s (.keySlotWrite now) (((c.modGrd fun g => { g with keyJobs := l }).storeEnd).setBit GRD_STAT.FLAGS 5))) ∧
    (c.grd.keyJobs = [] ∨ c.turnHas 0 .store = false → Does s (.keySlotWrite now) c) ∧
    (2 ≤ c.get GRD_DBG.DBGST →
      Does s (.debugHalt ⟨.le e, .halt⟩ now) (c.modEng e fun g => { g with halted := true }).wdgFreeze ∧
      Does s (.debugHalt ⟨.mc m, .halt⟩ now) (c.modCore m fun k => { k with halted := true }).wdgFreeze ∧
      ((c.core m).halted = true → Does s (.debugHalt ⟨.mc m, .step⟩ now) (c.modCore m fun k => { k with step := true })) ∧
      (∀ u, (c.eng e).run = some u → Does s (.debugHalt ⟨.le e, .step⟩ now)
        (c.modEng e fun g => { g with step := some (u, (c.task u).steps, (c.task u).ts) })) ∧
      Does s (.debugHalt ⟨.mc m, .stackPut k q.pc q.ibD q.ibB q.flg q.ba⟩ now) (c.modCore m fun y => { y with stack := y.stack.set k q }) ∧
      (∀ p, c.physOf e = some p → Does s (.debugHalt ⟨.le e, .stackPut k q.pc q.ibD q.ibB q.flg q.ba⟩ now)
        (c.modPh p fun y => { y with stack := y.stack.set k q })) ∧
      ∀ p x, c.physOf e = some p → (c.ph p).journal[k]? = some x →
        Does s (.debugHalt ⟨.le e, .journal k⟩ now) (c.answer (bytesOfWords x.words))) ∧
    (1 ≤ c.get GRD_DBG.DBGST → Does s (.debugHalt ⟨.mc m, .regs⟩ now) (c.answer (bytesOfWords (c.stateOf (.mc m)))) ∧
      Does s (.debugHalt ⟨.le e, .regs⟩ now) (c.answer (bytesOfWords (c.stateOf (.le e))))) ∧
    (∀ act, c.get GRD_DBG.DBGST = 0 ∨ (c.get GRD_DBG.DBGST = 1 ∧ act ≠ .regs) →
      Does s (.debugHalt ⟨.le e, act⟩ now) c ∧ Does s (.debugHalt ⟨.mc m, act⟩ now) c) ∧
    Does s (.debugResume (.le e) now) (c.modEng e fun g => { g with halted := false }).wdgFreeze ∧
    Does s (.debugResume (.mc m) now) (c.modCore m fun k => { k with halted := false, step := false }).wdgFreeze

/-- Doorbells, the host link, and pointer and word channels (R331, R336, R338 to R341, R343 to R346): who sets and clears which bits, which vectors a C2H bit
that rises signals, what a link change leaves; a post appends with its agent and sequence number and rings the bell, or is lost when 16 entries wait; POP
removes the head with the right sequence number; a word is written when empty and taken when full. The model's own: which fields a link reset and a link
loss clear (log entry 39), that no link comes up without REFCLK (log entry 98), and that each event task counts its hits of a source in RUN (log entries
41 and 115). -/
def Obligations.DoorbellsLinkAndChannels : Prop :=
  ∀ (s : State) (w : Cmd) (now : Time) (speed : Fin 4) (width : Fin 3) (masked : Word) (on : Bool) (k : Fin 28) (j : Fin 4) (agent : AgentId)
    (e : ChEntry) (l : List ChEntry),
    let c := came s now
    let u := written s w
    let down (d : Chip) : Chip := (((d.clr MBX_STAT.DLUP).clr MBX_LINK.SPEED).clr MBX_LINK.WIDTH).clr MBX_LINK.INL1
    let vec (d : Chip) (b : Nat) : Bool := (d.rd MBX_C2HDB.reg &&& ~~~(d.rd MBX_C2HMASK.reg)).getLsbD b
    let dir := u.flag (MBX_CHCFG.DIR k)
    let reach : Prop := isHost w.agent = true → HostReaches s
    let kept : Word := w.value &&& ~~~w.sets
    let rise : Word := w.value &&& ~~~(u.rd MBX_H2CDB.reg)
    let fires (t : Fin 32) : Bool := u.mode == mRUN && !u.flushing && !u.flag SYS_MODE.TRANS && u.kind t == kEVT && u.get (SCN_TEVT.SRC t) == 3 &&
      rise.getLsbD (u.get (SCN_TEVT.SEL t))
    let d := s.chip.arrive w.now
    let poster : Prop := d.chPoster k w.agent = true ∧ d.flag (MBX_CHCFG.EN k) = true
    let posts : Prop := poster ∧ reach
    let readable : Prop := isHost agent = true → s.chip.pins.refclk = true ∧ s.chip.mbx.pci.d3hot = false
    let q := u.mbx.queues[k]
    let posted : Chip := (u.modMbx fun m => { m with next := m.next.set k (m.next[k] + 1) }).chQueue k (q ++ [⟨w.value, w.agent.toNat, u.mbx.next[k]⟩])
    let reader : Prop := c.flag (MBX_WCFG.WEN j) = true ∧ ((c.get (MBX_WCFG.RDCLS j) = 1 ∧ isMc agent = true) ∨
      (c.get (MBX_WCFG.RDCLS j) = 2 ∧ isHost agent = true))
    let full : Chip := (((u.wr (MBX_WDATA.reg j) w.value).put (MBX_WINFO.AGENT j) w.agent.toNat).set1 (MBX_WINFO.FULL j)).incWrap (MBX_WINFO.WCNT j)
    (isHost w.agent = true → reach → Canonical s → Powered s → Leads (.mbxH2cset w) s fun c' =>
      c'.rd MBX_H2CDB.reg = u.rd MBX_H2CDB.reg ||| w.value ∧ (∀ a, a ≠ MBX_H2CDB.reg → c'.rd a = u.rd a) ∧ c'.mem = u.mem ∧
      ∀ t, c'.task t = { u.task t with hits := (u.task t).hits + (fires t).toNat }) ∧
    (isMc w.agent = true → Does s (.mbxH2cdbClear w) (u.wr MBX_H2CDB.reg (u.rd MBX_H2CDB.reg &&& ~~~kept))) ∧
    (isMc w.agent = true → Canonical s → Powered s → Leads (.mbxC2hset w) s fun c' =>
      c'.rd MBX_C2HDB.reg = u.rd MBX_C2HDB.reg ||| w.value ∧ c'.rd MBX_C2HMASK.reg = u.rd MBX_C2HMASK.reg ∧
      (∀ a, a ≠ MBX_C2HDB.reg → c'.rd a = u.rd a) ∧ c'.mem = u.mem ∧
      ∀ b, b < 32 → vec c' b = true → vec u b = false →
        (u.vecOpen (Fin.ofNat 32 b) = true → Fin.ofNat 32 b ∈ c'.mbx.sent) ∧ (u.vecOpen (Fin.ofNat 32 b) = false → c'.mbx.pba.getLsbD b = true)) ∧
    (isHost w.agent = true → reach → Canonical s → Powered s → Leads (.mbxC2hdbClear w) s fun c' =>
      c'.rd MBX_C2HDB.reg = u.rd MBX_C2HDB.reg &&& ~~~kept ∧ c'.mbx.pba = u.mbx.pba &&& (u.rd MBX_C2HDB.reg &&& ~~~kept) ∧
      c'.mbx.sent = u.mbx.sent) ∧
    (Powered s → Leads (.msixPendingDeliver masked on now) s fun c' =>
      c'.mbx.vecMask = masked ∧ c'.mbx.msixOn = on ∧ c'.regs = c.regs ∧
      ∀ b : Fin 32, c.mbx.pba.getLsbD b = true →
        (on = true → masked.getLsbD b = false → (c.rd MBX_C2HDB.reg).getLsbD b = true → c'.mbx.pba.getLsbD b = false ∧ b ∈ c'.mbx.sent) ∧
        (on = false ∨ masked.getLsbD b = true → c'.mbx.pba.getLsbD b = true)) ∧
    Does s (.hostLinkReset now) (down ((c.modMbx fun m =>
      { m with vecMask := 0xFFFFFFFF, msixOn := false, pba := 0, table := [], pci := Pci.zero }).set1 MBX_STAT.PERST)) ∧
    Does s (.hostLinkDown now) (down (c.set1 MBX_STAT.LINKDN)) ∧
    (c.pins.refclk = true → c.mode ≠ mINTER →
      Does s (.hostLinkUp speed width now) (((c.set1 MBX_STAT.DLUP).put MBX_LINK.SPEED speed).put MBX_LINK.WIDTH width)) ∧
    (c.pins.refclk = false → Does s (.hostLinkUp speed width now) c) ∧
    (posts → 16 ≤ q.length → Does s (.mbxChpost k w) ((u.incSat (MBX_CHINFO.LOST k)).set1 MBX_STAT.CHOVF)) ∧
    (posts → q.length < 16 → posted.flag (MBX_CHCFG.DBEN k) = false → Does s (.mbxChpost k w) posted) ∧
    (posts → q.length < 16 → posted.flag (MBX_CHCFG.DBEN k) = true →
      Does s (.mbxChpost k w) (posted.ringBell (posted.flag (MBX_CHCFG.DIR k)) (posted.get (MBX_CHCFG.DB k)))) ∧
    (¬ poster → reach → Does s (.mbxChpost k w) (((d.hostWake w.agent).refuse w.agent true (MBX_CHPOST.reg k)).denied w.agent 0)) ∧
    (d.chReceiver k w.agent = true → reach → q = e :: l →
      (w.value.toNat % 256 = e.seq.toNat → Does s (.mbxChpop k w) (u.chQueue k l)) ∧ (w.value.toNat % 256 ≠ e.seq.toNat → Does s (.mbxChpop k w) u)) ∧
    (d.chReceiver k w.agent = true → reach → q = [] → Does s (.mbxChpop k w) u) ∧
    (isMc w.agent = true → u.flag (MBX_CHCFG.EN k) = false → w.value.getLsbD 31 = true →
      Does s (.mbxChcfgWrite k w) ((u.wr (MBX_CHCFG.reg k) (w.value &&& 0xC000003F)).clr (MBX_CHINFO.LOST k))) ∧
    (isMc w.agent = true → u.flag (MBX_CHCFG.EN k) = true → w.value.getLsbD 31 = false →
      Does s (.mbxChcfgWrite k w) ((u.clr (MBX_CHCFG.EN k)).chQueue k [])) ∧
    (d.wWriter j w.agent = true → reach → u.flag (MBX_WINFO.FULL j) = true →
      Does s (.mbxWdataWrite j w) ((u.set1 (MBX_WINFO.WOVF j)).set1 MBX_STAT.WOVF)) ∧
    (d.wWriter j w.agent = true → reach → u.flag (MBX_WINFO.FULL j) = false → full.flag (MBX_WCFG.FDBEN j) = false → Does s (.mbxWdataWrite j w) full) ∧
    (reader → readable → Canonical s → Powered s → Leads (.mbxWtakeRead j agent now) s fun c' =>
      c'.resp = ⟨bytesOfWords [c.rd (MBX_WDATA.reg j)], false⟩ ∧ c'.flag (MBX_WINFO.FULL j) = false ∧
      c'.rd (MBX_WDATA.reg j) = c.rd (MBX_WDATA.reg j) ∧ c'.mem = c.mem) ∧
    (¬ reader → readable → Does s (.mbxWtakeRead j agent now) ((c.refuse agent false (MBX_WTAKE.reg j)).denied agent 4)) ∧
    (dir = true → d.chPoster k w.agent = isMc w.agent ∧ d.chReceiver k w.agent = isHost w.agent)

/-- FAULT_REPORT (R282, R283, R286, R290, Tables 10.1 to 10.4): a fault that no task raised and that repeats none in handling enters the next record of
the log with its identity and TB, is counted in its class and sets its status bits; a TASK fault queues its request for ERR_EXEC; a UNIT fault outside
LOAD leads to SAFE-HOLD and holds it; a TASK fault of a running activation abandons it. That
FLT_STAT.DEG tells of an abandoned activation too is the model's reading (log entry 31), and so is the ERR_EXEC request of a fault without a task (log entry
120). -/
def Obligations.FaultReports : Prop :=
  ∀ (s : State) (f : FaultIn) (now : Time) (t : Fin 32),
    let c := came s now
    let seq := c.get FLT_LOGSEQ.SEQ
    let fresh : Prop := (c.handling.find? fun q => q.skind == f.skind && q.inst == f.inst && q.cause == f.cause) = none
    Powered s → Canonical s →
    (f.task = none → f.sys = false → f.cls.val < 3 → fresh → f.cause < 256 → f.skind < 256 → (f.cls = 2 → c.flt.execQ.length < 8) →
      Leads (.faultReport f now) s fun c' =>
      c'.flt.log.getD (seq % 64) (Vector.replicate 4 0) =
        #v[BitVec.ofNat 32 (f.cause + 2 ^ 8 * f.cls.val + 2 ^ 10 * f.cls.val + 2 ^ 24 * f.skind),
           BitVec.ofNat 32 (f.inst % 2 ^ 16 + 2 ^ 16 * f.agent.toNat), c.tb.setWidth 32, c.tb.extractLsb' 32 32] ∧
      (∀ i, i < 64 → i ≠ seq % 64 → c'.flt.log.getD i (Vector.replicate 4 0) = c.flt.log.getD i (Vector.replicate 4 0)) ∧
      c'.mem = c.mem ∧ c'.tasks = c.tasks ∧ c'.engs = c.engs ∧ c'.mode = c.mode ∧
      c'.get FLT_LOGSEQ.SEQ = (seq + 1) % 2 ^ 32 ∧
      (f.cls = 0 → c'.flag FLT_STAT.NOTE = true ∧ c'.get FLT_CNTA.NOTECNT = min (c.get FLT_CNTA.NOTECNT + 1) 65535) ∧
      (f.cls = 1 → c'.flag FLT_STAT.DEG = true ∧ c'.get FLT_CNTA.DEGCNT = min (c.get FLT_CNTA.DEGCNT + 1) 65535) ∧
      (f.cls = 2 → c'.flag FLT_STAT.TASK = true ∧ c'.get FLT_CNTB.TASKCNT = min (c.get FLT_CNTB.TASKCNT + 1) 65535)) ∧
    (f.task = none → f.cls = 3 → c.mode ≠ mLOAD → Leads (.faultReport f now) s fun c' =>
      c'.mode = mSAFE ∧ c'.sys.unitHold = true ∧ c'.flag FLT_STAT.UNIT = true ∧ (c.mode ≠ mSAFE → c'.get SYS_MODE.REASON = 3)) ∧
    (f.task = none → f.cls = 2 → fresh → c.queues = true → (c.errTask 1).isSome = true → c.flt.execQ.length < 8 → Leads (.faultReport f now) s fun c' =>
      (∃ q ∈ c'.flt.execQ, q.cls = 2 ∧ q.skind = f.skind ∧ q.inst = f.inst ∧ q.cause = f.cause ∧ q.seq = c'.get FLT_LOGSEQ.SEQ) ∧
      c'.get FLT_EQ.EXECQ = c.flt.execQ.length + 1) ∧
    (f.task = some t → f.cls = 2 → (c.task t).live = true → c.scanning = true → Leads (.faultReport f now) s fun c' =>
      (c'.task t).live = false ∧ c'.flag FLT_STAT.DEG = true)

/-- The tests of the fault manager (R293 to R298, R308): the rotation window makes a test due on every mapped engine, a segment counts while the engine
issues for no task or is forced, where it pre-empts the running activation, the sixtieth ends the test; spares, cores and blocks are tested, and what fails
is retired or reported; the idle slack of a window is taken at its end. The identity of the fault of a retirement, and that the pass is counted at the last
segment, are the model's readings (log entries 45 and 49). -/
def Obligations.SelfTests : Prop :=
  ∀ (s : State) (e : Fin 16) (p : Fin 18) (m : Fin 2) (b : AgentId) (t : Fin 32) (n : Nat) (pass : Bool) (now : Time),
    let c := came s now
    let g := c.eng e
    let tested (x : Chip) : Chip := (((x.turnEnd 2 (.le e)).modEng e fun g => { g with segs := none }).setBit FLT_ROTLE.DONE e)
    let failed (x : Chip) : Chip := (((tested x).set1 FLT_STAT.ROTFAIL).retireEngine e 0x40 none).2
    let ended (x : Chip) : Chip := if x.bitOf FLT_ROTLE.FORCED e then x.fault 0 0x08 e.val 0x42 else x
    let due : Prop := c.turnHas 2 (.le e) = true ∧ g.mismatch = none ∧ g.remap = none
    let spared := c.turnEnd 2 (.spare p)
    let cored := c.turnEnd 2 (.core m)
    let checked := c.modFlt fun f => { f with checks := f.checks.filter (· != b.toNat) }
    (Canonical s → Powered s → Leads (.rotationWindowStart now) s fun c' =>
      c'.get FLT_ROTLE.DONE = 0 ∧ c'.get FLT_ROTLE.FORCED = 0 ∧ c'.flt.rotOn = c.flag FLT_CTL.ROTEN ∧
      ∀ e, (c'.eng e).segs = if c.flag FLT_CTL.ROTEN && (c.physOf e).isSome then some 0 else none) ∧
    (g.segs = some n → n < 59 → due → g.run = none →
      Does s (.rotationSegmentComplete e pass now) (c.modEng e fun g => { g with segs := some (n + 1) })) ∧
    (g.segs = some 59 → due → g.run = none →
      Does s (.rotationSegmentComplete e pass now) (ended (if pass then tested c else failed c))) ∧
    (g.run = some t → c.bitOf FLT_ROTLE.FORCED e = false → Does s (.rotationSegmentComplete e pass now) c) ∧
    (g.run = some t → c.bitOf FLT_ROTLE.FORCED e = true → due →
      (g.segs = some n → n < 59 →
        Does s (.rotationSegmentComplete e pass now) ((c.preempted e t).modEng e fun g => { g with segs := some (n + 1) })) ∧
      (g.segs = some n → n < 59 → Powered s → Leads (.rotationSegmentComplete e pass now) s fun c' =>
        (c'.task t).ctx = (c.task t).ctx ∧ (c'.task t).waiting = false ∧ (c'.task t).admitted = false ∧ (c'.task t).inBlock = false ∧
        (c'.task t).steps = (c.task t).steps ∧ (c'.eng e).run = some t ∧ (c'.eng e).segs = some (n + 1) ∧ c'.mem = c.mem) ∧
      (g.segs = some 59 → Does s (.rotationSegmentComplete e pass now) (ended (if pass then tested (c.preempted e t) else failed (c.preempted e t))))) ∧
    (g.segs = none ∨ c.turnHas 2 (.le e) = false → Does s (.rotationSegmentComplete e pass now) c) ∧
    (g.segs.isSome = true → Canonical s → Powered s → Leads (.rotationForceDeadline now) s fun c' =>
      c'.bitOf FLT_ROTLE.FORCED e = true ∧ c'.flag FLT_STAT.ROTFORCE = true ∧ c'.engs = c.engs) ∧
    (c.flag FLT_CTL.ROTEN = false →
      Does s (.spareTestStart now) ((c.put FLT_ROTSP.SPDONE 0).modFlt fun f => { f with spareOn := (c.put FLT_ROTSP.SPDONE 0).flag FLT_CTL.ROTEN })) ∧
    (c.flag FLT_CTL.ROTEN = true → p ∈ c.spares → Powered s → Leads (.spareTestStart now) s fun c' =>
      (∃ a ∈ c'.turn, a.cls = 2 ∧ a.who = .spare p) ∧ c'.flt.spareOn = true) ∧
    (c.turnHas 2 (.spare p) = true → spared.spares.contains p = true →
      (pass = true → Does s (.spareTestComplete p pass now) (spared.setBit FLT_ROTSP.SPDONE (if spared.spares[0]? = some p then 0 else 1))) ∧
      (pass = false →
        let x := (((spared.setBit SYS_RETIRED.RET p).setSpares (spared.spares.filter (· != p))).incWrap SYS_MAPSEQ.SEQ).set1 FLT_STAT.SPAREFAIL
        Does s (.spareTestComplete p pass now)
          ((x.fault 1 0x02 p.val 0x41 (engineAgent p).toNat .sys).mapEntry 1 p.val 0 0 false (x.faultWhen 1 0x02 p.val 0x41)))) ∧
    (c.turnHas 2 (.spare p) = false → Does s (.spareTestComplete p pass now) c) ∧
    (c.get (coreFld m) = 0 ∨ c.get (coreFld m) = 2 → Does s (.coreTestStart m now) ((c.put (coreFld m) 1).turnAsk 2 (.core m))) ∧
    (c.get (coreFld m) = 1 ∨ c.get (coreFld m) = 3 → Does s (.coreTestStart m now) c) ∧
    (Canonical s → c.get (coreFld m) ≠ 3 → (c.coreRestart m).get (coreFld m) = 2 ∧ ((c.coreRestart m).core m).stopped = false ∧
      ((c.coreRestart m).core m).ctx.pc = Config.fwEntry c.upd.areas[m].val) ∧
    (c.get (coreFld m) = 1 → c.turnHas 2 (.core m) = true →
      ((cored.core m).retest = false → pass = true → Does s (.coreTestComplete m pass now) (cored.put (coreFld m) 0)) ∧
      ((cored.core m).retest = false → pass = false →
        Does s (.coreTestComplete m pass now) ((cored.modCore m fun k => { k with retest := true }).coreTest m)) ∧
      ((cored.core m).retest = true → pass = true →
        Does s (.coreTestComplete m pass now) ((((cored.coreRestart m).incSat FLT_CORE.RSTCNT).set1 FLT_STAT.CORERST).fault 1 0x06 m.val 0x47 0 .sys)) ∧
      ((cored.core m).retest = true → pass = false →
        let x := ((cored.put (coreFld m) 3).set1 FLT_STAT.CORERET).modCore m fun k => { k with stopped := true, retest := false }
        Does s (.coreTestComplete m pass now)
          (if x.get (coreFld (1 - m)) = 3 then (x.fault 3 0x06 m.val 0x48).mapEntry 2 m.val 0 0 false (x.faultWhen 3 0x06 m.val 0x48)
            else (x.fault 1 0x06 m.val 0x48 0 .sys).mapEntry 2 m.val 0 0 false (x.faultWhen 1 0x06 m.val 0x48)))) ∧
    (b.toNat ∉ c.flt.checks → Does s (.blockCheckStart b now) (c.modFlt fun f => { f with checks := f.checks ++ [b.toNat] })) ∧
    (b.toNat ∈ c.flt.checks → pass = true → Does s (.blockCheckComplete b pass now) checked) ∧
    (b.toNat ∈ c.flt.checks → pass = false → Does s (.blockCheckComplete b pass now)
      ((if 0x50 ≤ b.toNat ∧ b.toNat ≤ 0x53 then checked.canCheckFail (Fin.ofNat 4 b.toNat)
        else if b.toNat = 0x58 then checked.setBit MIM_STAT.FLAGS 8 else checked).fault 1 0x07 b.toNat 0x49 b.toNat .sys)) ∧
    (b.toNat ∉ c.flt.checks → Does s (.blockCheckComplete b pass now) c) ∧
    (c.physOf e = none ∨ now.toNat % 100000000 ≠ 0 ∨ g.slackEnd = now → Does s (.slackWindowEnd e n now) c) ∧
    ((c.physOf e).isSome = true → now.toNat % 100000000 = 0 → g.slackEnd ≠ now → Canonical s → Powered s → Leads (.slackWindowEnd e n now) s fun c' =>
      c'.get (SCN_LESLACK.LAST e) = min n 1000 ∧ (c'.eng e).slackOk = decide (50 ≤ n) ∧ (c'.eng e).freshSlack = false ∧
      c'.get (SCN_LESLACK.MIN e) = (if g.freshSlack then min n 1000 else min (min n 1000) (c.get (SCN_LESLACK.MIN e))))

/-- The scrubber and the defect map (R299 to R306, Table 10.8): a sweep starts at the first word, a correct word is passed, a corrected one is counted and
noted, a second hit on the same bit replaces its row, an uncorrectable word in the active code half is a UNIT fault and any other is handled and
reported; a waiting map entry is written in its cell, and CLEAR needs its grant; a cell whose write fails holds an unstated value and is reported (R375).
What is done with an uncorrectable word besides Table 10.8 is the model's reading (log entry 73), and so is that a failed write leaves a free value in its
cell (log entry 92). -/
def Obligations.ScrubberAndDefectMap : Prop :=
  ∀ (s : State) (w : Cmd) (bit : Fin 72) (v : Long) (l : List Long) (k : Nat) (now : Time),
    let c := came s now
    let d := s.chip.arrive w.now
    let u := written s w
    let n := c.flt.scrubPos
    let a := wordIn sramRegions n
    let arr := (sramArray a).getD 0
    let sweeping : Prop := c.flt.sweeping = true ∧ n + 1 < scrubWords
    let onward (x : Chip) : Chip := (x.modFlt fun f => { f with scrubPos := n + 1 }).put FLT_SCRUB.PROG ((n + 1) * 1000 / scrubWords)
    let noted : Chip := (c.eccNote a 0).modFlt fun f => { f with found := f.found ++ [(n, bit.val)] }
    let bad : Chip := (((c.incSat FLT_ECC.UNCCNT).set1 FLT_STAT.UNCORR)).scrubBad a arr
    let entry := FLT_DMCMD.ENTRY.of w.value
    let cell : Chip := ((c.modFlt fun f => { f with pendMap := l }).storeEnd)
    Does s (.scrubSweepStart now) ((c.put FLT_SCRUB.PROG 0).modFlt fun f =>
      { f with scrubOn := (c.put FLT_SCRUB.PROG 0).flag FLT_CTL.SCREN, sweeping := (c.put FLT_SCRUB.PROG 0).flag FLT_CTL.SCREN, scrubPos := 0,
               seen := f.found, found := [] }) ∧
    (sweeping → Does s (.scrubWordCheck .ok bit now) (onward c)) ∧
    (sweeping → (n, bit.val) ∉ c.flt.seen → Does s (.scrubWordCheck .corrected bit now) (onward noted)) ∧
    (sweeping → (n, bit.val) ∈ c.flt.seen → Does s (.scrubWordCheck .corrected bit now) (onward (noted.replaceRow arr a))) ∧
    (sweeping → c.rowPoisoned a = true → Does s (.scrubWordCheck .uncorrectable bit now) (onward bad)) ∧
    (sweeping → c.rowPoisoned a = false → Does s (.scrubWordCheck .uncorrectable bit now) (onward (bad.replaceRow arr a))) ∧
    (a < 0x10300000 → bad = (((c.incSat FLT_ECC.UNCCNT).set1 FLT_STAT.UNCORR)).fault 3 0x05 arr 0) ∧
    (c.flt.sweeping = true → n + 1 = scrubWords → Does s (.scrubWordCheck .ok bit now)
      (((onward c).incSat FLT_SCRUB.SWEEPS).modFlt fun f => { f with sweeping := false })) ∧
    (c.flt.sweeping = false → ∀ ecc, Does s (.scrubWordCheck ecc bit now) c) ∧
    (c.nvs.stuck = [] → c.flt.pendMap = v :: l → c.turnHas 0 .store = true → c.mapFree = some k →
      Does s (.defectMapEntryWrite ⟨[], []⟩ now)
        (((cell.cellPut (0x60068000 + 8 * k) v.toNat).modFlt fun f => { f with field := spIns k v f.field }).put FLT_DMSTAT.NVCNT
          (spIns k v cell.flt.field).length)) ∧
    (c.flt.pendMap = v :: l → c.turnHas 0 .store = true → c.mapFree = some k → cellOf (0x60068000 + 8 * k) ∈ c.nvs.stuck →
      Does s (.defectMapEntryWrite ⟨[], []⟩ now) ((cell.cellFree (0x60068000 + 8 * k)).nvsVerr 3)) ∧
    (c.flt.pendMap = v :: l → c.turnHas 0 .store = true → c.mapFree = none → Does s (.defectMapEntryWrite ⟨[], []⟩ now) cell) ∧
    (c.flt.pendMap = [] ∨ c.turnHas 0 .store = false → ∀ x, Does s (.defectMapEntryWrite x now) (c.cells x)) ∧
    (ByMcHost s w → FLT_DMCMD.KEY.of w.value ≠ 0x7E51 → Does s (.fltDmClear w) u) ∧
    (ByMcHost s w → FLT_DMCMD.KEY.of w.value = 0x7E51 → u.grantFor w.agent 3 0 entry = true →
      (cellOf (0x60068000 + 8 * entry) ∉ u.nvs.stuck → Does s (.fltDmClear w)
        ((((u.grantUse.cellPut (0x60068000 + 8 * entry) 0).modFlt fun f => { f with field := spDel entry f.field })).put FLT_DMSTAT.NVCNT
          (spDel entry u.grantUse.flt.field).length)) ∧
      (cellOf (0x60068000 + 8 * entry) ∈ u.nvs.stuck →
        Does s (.fltDmClear w) ((u.grantUse.cellFree (0x60068000 + 8 * entry)).nvsVerr 3))) ∧
    (ByMcHost s w → FLT_DMCMD.KEY.of w.value = 0x7E51 → u.grantFor w.agent 3 0 entry = false →
      Does s (.fltDmClear w) ((u.refuse w.agent true FLT_DMCMD.reg).denied w.agent 0)) ∧
    (isMc w.agent = false → isHost w.agent = false → Does s (.fltDmClear w) ((d.refuse w.agent true FLT_DMCMD.reg).denied w.agent 0))

/-- The phases of a cyclic scan on a unit in RUN (R127 to R131, R136, R137, R140 to R142, R147, R174, R186, R208, R254): a release starts a scan with TS and
frozen inputs, INPUT loads the task's registers and images, COMPARE commits and hashes, OUTPUT sends, HOUSEKEEP publishes and ends the scan. When
a phase asks for its turn at the image stores is the model's own (log entry 102). -/
def Obligations.ScanPhases : Prop :=
  ∀ (s : State) (t : Fin 32) (ecc : Ecc) (now : Time) (n : Nat),
    let c := came s now
    let k := c.task t
    let p := c.part t
    let cyclic : Prop := c.mode = mRUN ∧ c.flushing = false ∧ c.kind t = kCYC
    let numbered : Chip := c.put (SCN_TSCAN.SCAN t) n
    let released : Prop := cyclic ∧ k.holdOff.toNat ≤ now.toNat ∧ c.releaseAt t now = some n ∧ c.releasing = true
    (released → numbered.phase t = 0 → Does s (.cyclicRelease t now) (numbered.startScan t now)) ∧
    (Canonical s → released → c.phase t = 0 → Powered s → c.leading = false → Leads (.cyclicRelease t now) s fun c' =>
      c'.phase t = 1 ∧ (c'.task t).ts = c.tb ∧ (c'.task t).lastRel = some now ∧ c'.get (SCN_TSCAN.SCAN t) = n % 2 ^ 32 ∧ (c'.task t).ledgUsed = 1 ∧
      (c'.task t).frozenB = copyPart 16 c.img.rxB p [] ∧ (c'.task t).frozenW = copyPart 64 c.img.rxW p [] ∧
      c'.img = { c.img with queue := c.img.queue.filter (fun q => !(q.1 == t && q.2 != 6)) ++ [(t, 1)] }) ∧
    (released → 3 ≤ numbered.phase t → Does s (.cyclicRelease t now) (numbered.modTask t fun k => { k with lateDue := some now })) ∧
    (released → numbered.phase t = 1 ∨ numbered.phase t = 2 →
      let x := (((numbered.oldHousekeep t).modTask t fun k => { k with oldRel := ((numbered.task t).lastRel).getD 0 }).selfTestGone t).overrun t 2 true
      Does s (.cyclicRelease t now) (if x.scanning then x.startScan t now else x)) ∧
    (c.releaseAt t now = none → Does s (.cyclicRelease t now) c) ∧
    (Canonical s → cyclic → c.phase t = 1 → c.imgTurn t 1 = true → Powered s → Leads (.inputPhase t now) s fun c' =>
      c'.phase t = 2 ∧ (c'.task t).live = true ∧ (c'.task t).ctx = c.startCtx t 0 0 0 0 ∧ (c'.task t).sctx = (c.startCtx t 0 0 0 0).compl ∧
      (c'.task t).steps = 0 ∧
      (∀ i ∈ p, ∀ j < 16, c'.ldBits32 (32 * (16 * i + j)) = imgGet k.frozenB (16 * i + j)) ∧
      (∀ i ∈ p, ∀ j < 64, imgGet c'.img.wI (64 * i + j) = imgGet k.frozenW (64 * i + j))) ∧
    (c.phase t ≠ 1 ∨ c.imgTurn t 1 = false → Does s (.inputPhase t now) c) ∧
    (cyclic → c.phase t = 3 → c.imgTurn t 3 = true → ecc = .ok →
      (∀ q, c.physOf (c.leOf t) = some q → ∀ j ∈ (c.ph q).journal, j.task = t → j.bad = false) →
      let d := (if k.paired then c.commit t else c).forceTask t
      let x := d.modTask t fun k => { k with hashes := (d.scanNum t, d.partHash t) :: k.hashes.take 1 }
      Does s (.comparePhase t ecc now)
        ((if x.leading then x.send (.hash t (x.scanNum t) (d.partHash t)) else x).toPhase t (if k.warm then 5 else 4))) ∧
    (cyclic → c.phase t = 3 → c.imgTurn t 3 = true → k.paired = true →
      (∃ q, c.physOf (c.leOf t) = some q ∧ ∃ j ∈ (c.ph q).journal, j.task = t ∧ (ecc = .uncorrectable ∨ j.bad = true)) →
      Does s (.comparePhase t ecc now) (c.abandon t (.exception 0x0B) 0x0B k.ctx.pc 0)) ∧
    (Canonical s → cyclic → c.phase t = 4 → c.imgTurn t 4 = true → Powered s → Leads (.outputPhase t now) s fun c' =>
      c'.img = { c.img with txB := copyPart 16 (c.workQ p) p c.img.txB, txW := copyPart 64 c.img.wQ p c.img.txW,
                            queue := c.img.queue.filter (fun q => !(q.1 == t && q.2 != 6)) ++ [(t, 5)] } ∧
      c'.get (SCN_TSTAT.ABNCNT t) = 0 ∧ c'.flag (SCN_TSTAT.SUBST t) = false ∧ c'.flag (SCN_TSTAT.HELD t) = false ∧ (c'.task t).outDone = true ∧
      c'.phase t = 5 ∧ c'.mem = c.mem) ∧
    (c.phase t ≠ 3 ∨ c.imgTurn t 3 = false → Does s (.comparePhase t ecc now) c) ∧
    (c.phase t ≠ 4 ∨ c.imgTurn t 4 = false → Does s (.outputPhase t now) c) ∧
    (cyclic → k.old = none → c.phase t = 5 → c.imgTurn t 5 = true → c.migrating t = false → c.hsb.resync = none →
      let x := (c.stageDue t).housekeepWork t
      x.scanning = true → x.migrating t = false → x.joinPoint t = false → (x.housekeepEnd t).mode ≠ mFOLLOW →
        Does s (.housekeepPhase t now) (x.housekeepEnd t)) ∧
    (cyclic → k.old.isSome = true → Does s (.housekeepPhase t now) (if c.imgTurn t 6 then c.oldHousekeep t else c)) ∧
    (cyclic → k.old = none → c.phase t ≠ 5 ∨ c.imgTurn t 5 = false → Does s (.housekeepPhase t now) c)

/-- Events, error tasks and pre-emption (R76, R119, R125, R132, R133, R284, R289): a source that fires (Table 5.2) fires for each
event task that names it; a firing of an idle event task begins an activation at once or after its
separation, one firing is remembered and the next lost; an error task takes the head of its queue; a ready task that outranks the running one takes the
engine. How the firings of a source are
counted is the model's own (log entry 115). -/
def Obligations.EventsErrorTasksAndSwitches : Prop :=
  ∀ (s : State) (t r : Fin 32) (e : Fin 16) (q : ErrReq) (d : Chip) (now : Time) (ts : Time) (acc ach ix iy : Word),
    let c := came s now
    let k := c.task t
    let c1 := c.modTask t fun k => { k with hits := k.hits - 1 }
    let firing : Prop := c.mode = mRUN ∧ c.flushing = false ∧ c.kind t = kEVT ∧ c.flag SYS_MODE.TRANS = false ∧ k.hits ≠ 0
    let idle : Prop := k.live = false ∧ k.delayed = false ∧ k.fired = false ∧ c.phase t = 0 ∧ c.sys.startup = none ∧ c.olc.hold = false ∧
      c.migrating t = false ∧ c.hsb.resync = none
    let left : Chip := ((if (c.task r).waiting || (c.task r).admitted then c.turnEnd 4 (.le e) else c).modTask r fun k =>
      { k with waiting := false, admitted := false, inBlock := false, resumed := k.resumed || k.inBlock })
    (firing → idle → c1.apart t = true → Does s (.eventSourceFire t now) (c1.beginActivation t c.tb 0 0 0 0)) ∧
    (firing → idle → c1.apart t = false →
      Does s (.eventSourceFire t now) ((c1.modTask t fun k => { k with delayed := true }).put (SCN_TSTAT.PHASE t) 6)) ∧
    (firing → k.live = true → k.fired = false → Does s (.eventSourceFire t now) (c1.modTask t fun k => { k with fired := true })) ∧
    (firing → k.live = false → c.phase t = 0 → k.fired = false → c.sys.startup.isSome = true ∨ c.olc.hold = true →
      Does s (.eventSourceFire t now) ((c1.modTask t fun k => { k with fired := true }).put (SCN_TSTAT.PHASE t) 6)) ∧
    (firing → k.fired = true → Does s (.eventSourceFire t now) ((c1.set1 (SCN_TSTAT.EVOVF t)).set1 SCN_STAT.EVOVF)) ∧
    (c.mode ≠ mRUN ∨ c.kind t ≠ kEVT ∨ k.hits = 0 → Does s (.eventSourceFire t now) c) ∧
    (c.mode = mRUN → c.flushing = false → c.flag SYS_MODE.TRANS = false → ∀ src sel, ∀ v : Fin 32, ((c.srcFires src sel).task v).hits =
      (c.task v).hits + (if c.kind v = kEVT ∧ c.get (SCN_TEVT.SRC v) = src ∧ c.get (SCN_TEVT.SEL v) = sel then 1 else 0)) ∧
    (c.releasing = true → c.kind t = kEVT → c.phase t = 6 → k.live = false → c.migrating t = false → c.apart t = true → c.hsb.resync = none →
      Does s (.eventRelease t now)
        ((c.modTask t fun k => if k.delayed then { k with delayed := false } else { k with fired := false }).beginActivation t c.tb 0 0 0 0)) ∧
    (c.mode ≠ mFOLLOW → c.phase t ≠ 6 ∨ k.live = true ∨ c.apart t = false → Does s (.eventRelease t now) c) ∧
    (c.releasing = true → c.kind t = kERR → k.live = false → c.migrating t = false → c.errHead (c.get (SCN_TCFG.SUB t)) = some (q, d) →
      Does s (.errorTaskRelease t now) ((d.modTask t fun k => { k with serves := some q }).beginActivation t d.tb q.acc q.ach q.ix q.iy)) ∧
    (c.mode ≠ mFOLLOW → c.kind t ≠ kERR ∨ k.live = true ∨ c.errHead (c.get (SCN_TCFG.SUB t)) = none → Does s (.errorTaskRelease t now) c) ∧
    ((c.eng e).halted = false → (c.eng e).mismatch = none → (c.eng e).remap = none →
      ((c.eng e).run = none → Does s (.taskSwitch e now) (c.dispatch e)) ∧
      ((c.eng e).run = some r → firstBy c.before ((c.ready e).filter fun u => c.outranks u r) = none → Does s (.taskSwitch e now) c) ∧
      ((c.eng e).run = some r → firstBy c.before ((c.ready e).filter fun u => c.outranks u r) = some t →
        Does s (.taskSwitch e now) (left.giveEngine e t))) ∧
    (Canonical s → c.leading = false →
      let b := c.beginActivation t ts acc ach ix iy
      b.phase t = 2 ∧ (b.task t).live = true ∧ (b.task t).ts = ts ∧ (b.task t).ctx.acc = acc ∧ (b.task t).ctx.ach = ach ∧ (b.task t).ctx.ix = ix ∧
      (b.task t).ctx.iy = iy ∧ (b.task t).ctx.pc = c.rd (SCN_TENTRY.reg t) ∧ (b.task t).ctx.flg = 0 ∧ (b.task t).ctx.ba = false ∧
      (b.task t).ctx.dsp = c.rd (SCN_TSTKHI.reg t) ∧ (b.task t).ctx.brc = 0 ∧ (b.task t).steps = 0 ∧
      b.get (SCN_TSCAN.SCAN t) = (c.get (SCN_TSCAN.SCAN t) + 1) % 2 ^ 32 ∧ (b.task t).ledgUsed = 1)

/-- Verdicts, spares, modes and the pacemeter (R84, R146, R151 to R153, R173, R176 to R181, R185 to R187, R283): a first mismatch with a passed
self-test re-executes, a second
abandons with 0x11, a failed self-test maps a spare in; SHD_TMODE stages a mode; the warm-up copy pairs the storage; a window's rate sets and clears its
warnings; a cyclic scan abandoned by a reported TASK fault stops, frees its engine and journal entries, and leaves memory as it was. The model's own:
the identities of the faults of a verdict and a retirement (log entry
45), that a window lies on 64 µs of TB (log entry 90), and which warm-up is copied first (log entry 105). -/
def Obligations.VerdictsModesAndPace : Prop :=
  ∀ (s : State) (e : Fin 16) (t : Fin 32) (p q : Fin 18) (w : Cmd) (rate : Nat) (f : FaultIn) (now : Time),
    let c := came s now
    let u := written s w
    let k := c.task t
    let g := c.eng e
    let base : Chip := c.setBit FLT_ROTLE.DONE e
    let passed : Chip := (base.modEng e fun g => { g with mismatch := none, mmGone := none, segs := none }).turnEnd 2 (.le e)
    let lost : Chip := base.incSat SHD_CNT.RETCNT
    let noted : Chip := ((passed.setVerdict e t 1).incSat SHD_CNT.TRANSCNT).fault 0 0x01 (t.val + 2 ^ 8 * e.val) 0 (engineAgent p).toNat .none (some t)
    let mapped : Chip := ((c.turnEnd 6 (.spare q)).modEng e fun g => { g with remap := none }).remapTo e (some q)
    (g.mismatch = some t → g.mmGone = none → c.physOf e = some p →
      (k.mm ≤ 1 → passed.admitted t = true → (noted.task t).live = true → noted.scanning = true →
        Does s (.mismatchVerdict e true now) (noted.reexecute t)) ∧
      (k.mm ≤ 1 → passed.admitted t = false → Does s (.mismatchVerdict e true now) ((passed.setVerdict e t 3).abandon t .mismatch 0x11 0 0)) ∧
      (1 < k.mm → Does s (.mismatchVerdict e true now) ((passed.setVerdict e t 4).abandon t .mismatch 0x11 0 0)) ∧
      (lost.freeSpare.isSome = true →
        Does s (.mismatchVerdict e false now) ((((lost.set1 SHD_STAT.RETIRE).modEng e fun g => { g with mmGone := none }).retireEngine e 0 (some t)).2)) ∧
      (lost.freeSpare = none →
        Does s (.mismatchVerdict e false now)
          (((((lost.set1 SHD_STAT.NOSPARE).setVerdict e t 5).modEng e fun g => { g with mmGone := none }).retireEngine e 0 (some t)).2))) ∧
    (g.mismatch = none ∨ c.physOf e = none → ∀ pass, Does s (.mismatchVerdict e pass now) c) ∧
    (g.remap = some q → c.turnHas 6 (.spare q) = true →
      ((c.turnEnd 6 (.spare q)).modEng e fun g => { g with remap := none }).spares.contains q = true →
      let l := (List.finRange 32).filter fun v => mapped.leOf v == e && (mapped.task v).live && (mapped.task v).reexec && mapped.scanning
      (∀ v ∈ l, mapped.admitted v = true) →
      Does s (.spareMappingComplete e now) (((mapped.forIn l fun v c => (c.setVerdict e v 2).rerun v).lateVerdict e 2).dispatch e)) ∧
    (g.remap = none ∨ (g.remap = some q ∧ c.turnHas 6 (.spare q) = false) → Does s (.spareMappingComplete e now) c) ∧
    (Canonical s → ((c.turnEnd 6 (.spare q)).modEng e fun g => { g with remap := none }).spares.contains q = true →
      mapped.physOf e = some q ∧ q ∉ mapped.spares ∧ mapped.get SYS_MAPSEQ.SEQ = (c.get SYS_MAPSEQ.SEQ + 1) % 2 ^ 32) ∧
    (ByMcHost s w → u.flag SHD_LOCK.MODELK = false → u.mode ≠ mFOLLOW → w.value.getLsbD 0 = false ∨ u.flag (SHD_TCFG.PAIROK t) = true →
      Does s (.shdTmodeWrite t w) (u.stageMode t w.value)) ∧
    (ByMcHost s w → u.flag SHD_LOCK.MODELK = true ∨ u.mode = mFOLLOW ∨ (w.value.getLsbD 0 = true ∧ u.flag (SHD_TCFG.PAIROK t) = false) →
      Does s (.shdTmodeWrite t w) ((u.refuse w.agent true (SHD_TMODE.reg t)).answer [])) ∧
    (Canonical s → Powered s → c.warming = some t → k.warmLeft.getD 0 ≤ 4096 → c.turnHas 4 .shadow = true →
      let last := (c.pairs t).drop ((c.pairs t).length - k.warmLeft.getD 0)
      Leads (.warmupCopyComplete t now) s fun c' =>
        (c'.task t).warmLeft = some 0 ∧ c'.warming ≠ some t ∧ c'.regs = c.regs ∧
        ((∀ q ∈ last, ∀ r ∈ last, q.1 ≠ r.2 ∧ (q.2 = r.2 → q.1 = r.1)) → ∀ q ∈ last.take 4096, c'.ldB q.2 = ~~~(c.ldB q.1)) ∧
        ∀ a, (∀ q ∈ last, a ≠ q.2) → c'.ldB a = c.ldB a) ∧
    (c.warming ≠ some t ∨ c.turnHas 4 .shadow = false → Does s (.warmupCopyComplete t now) c) ∧
    (c.physOf e = none ∨ now.toNat % 64000 ≠ 0 ∨ g.paceEnd = now → Does s (.paceWindowEnd e rate now) c) ∧
    ((c.physOf e).isSome = true → now.toNat % 64000 = 0 → g.paceEnd ≠ now → Canonical s → Powered s → Leads (.paceWindowEnd e rate now) s fun c' =>
      let thr := SCN_PACECFG.THR.of c.paceCfg
      let hyst := SCN_PACECFG.HYST.of c.paceCfg
      c'.get (SCN_LEPACE.RATE e) = min rate 4095 ∧ (c'.eng e).freshPace = false ∧
      (rate < thr → 1 ≤ g.below → c'.flag (SCN_LEPACE.WARN e) = true) ∧
      (thr + hyst ≤ rate → thr ≤ rate → 3 ≤ g.above → c'.flag (SCN_LEPACE.WARN e) = false) ∧
      (rate < 800 → 1 ≤ g.low → c'.flag (SCN_LEPACE.LOW e) = true) ∧
      (800 ≤ rate → 3 ≤ g.notLow → c'.flag (SCN_LEPACE.LOW e) = false) ∧
      c'.get (SCN_LEPACE.MINRATE e) = (if g.freshPace then min rate 4095 else min (min rate 4095) (c.get (SCN_LEPACE.MINRATE e)))) ∧
    (Canonical s → Powered s → f.task = some t → f.cls = 2 → c.mode = mRUN → c.flushing = false → c.kind t = kCYC → c.leading = false →
    (c.task t).live = true →
      Leads (.faultReport f now) s fun d =>
        (d.task t).live = false ∧ (d.task t).ended = .exception f.cause ∧ d.phase t = 5 ∧ (d.eng (c.leOf t)).run ≠ some t ∧
        (∀ p, c.physOf (c.leOf t) = some p → ∀ j ∈ (d.ph p).journal, j.task ≠ t) ∧ d.flag FLT_STAT.TASK = true ∧ d.mem = c.mem ∧
          d.img = { c.img with queue := d.img.queue } ∧
        d.mode = mRUN)

/-- Commands to a CAN controller and its message objects (R316, R317, R320, R322, R324, R327): RECOVER, ABORTALL, ENABLE, DISABLE, TXREQ, TXABORT, CLRNEW and
the FIFO configuration, with what each refuses. Refusals that the source leaves open are those of log entry 19. -/
def Obligations.CanObjectCommands : Prop :=
  ∀ (s : State) (n : Fin 4) (f : Fin 8) (w : Cmd),
    let u := written s w
    let k := (CAN_OBJCMD.OBJ n).of w.value
    let cmd (e : Nat) (x : Chip) : Chip := (x.put (CAN_CMDSTAT.LASTCMD n) ((CAN_CMD.CMD n).of w.value)).put (CAN_CMDSTAT.CMDERR n) e
    let obj (e : Nat) (x : Chip) : Chip :=
      ((x.put (CAN_CMDSTAT.LASTCMD n) ((CAN_OBJCMD.CMD n).of w.value)).put (CAN_CMDSTAT.LASTOBJ n) k).put (CAN_CMDSTAT.CMDERR n) e
    let keyed : Prop := ByMcHost s w ∧ (CAN_CMD.KEY n).of w.value = 0x6CA9
    let keyedObj : Prop := ByMcHost s w ∧ (CAN_OBJCMD.KEY n).of w.value = 0x6CA9
    let v := w.value &&& 0x00013FFF
    let illegal : Prop := (u.objFlag n k 4 = true ∧ u.objFlag n k 2 = true) ∨ (u.objFlag n k 3 = true ∧ u.objFlag n k 2 = false) ∨
      u.objCfg n k 31 20 ≠ 0
    let g := u.get (CAN_FIFOSTAT.GET n f)
    let m := u.get (CAN_FIFOSTAT.COUNT n f)
    (ByMcHost s w → (CAN_CMD.KEY n).of w.value ≠ 0x6CA9 →
      Does s (.canRecover n w) (u.put (CAN_CMDSTAT.CMDERR n) 1) ∧ Does s (.canAbortall n w) (u.put (CAN_CMDSTAT.CMDERR n) 1)) ∧
    (keyed → u.get (CAN_ERR.ESTATE n) = 2 → Does s (.canRecover n w) (cmd 0 ((u.modCan n fun q => { q with permit := true }).canRecover n))) ∧
    (keyed → u.get (CAN_ERR.ESTATE n) ≠ 2 → Does s (.canRecover n w) (cmd 2 u)) ∧
    (keyed → Does s (.canAbortall n w) (cmd 0 (u.forFin 256 fun j c =>
      if c.bitOf (CAN_TXPEND.PEND n (j.val / 32)) (j.val % 32) then c.txAbort n j.val else c))) ∧
    (keyedObj → u.fifoOf n k = none →
      (¬ illegal → Does s (.canEnable n w) (obj 0 (u.setBit (CAN_ENA.ENA n (k / 32)) (k % 32)))) ∧ (illegal → Does s (.canEnable n w) (obj 3 u)) ∧
      (u.txst n k ≠ 1 → Does s (.canDisable n w) (obj 0 (u.clrBit (CAN_ENA.ENA n (k / 32)) (k % 32)))) ∧
      (u.txst n k = 1 → (u.can n).attempt = some k →
        Does s (.canDisable n w) (obj 0 ((u.modCan n fun q => { q with abort := true }).modCan n fun q => { q with disable := true }))) ∧
      (u.txst n k = 1 → (u.can n).attempt ≠ some k →
        Does s (.canDisable n w) (obj 0 ((u.objTxst n k 5).clrBit (CAN_ENA.ENA n (k / 32)) (k % 32)))) ∧
      Does s (.canClrnew n w) (obj 0 (u.clrBit (CAN_NEW.NEW n (k / 32)) (k % 32)))) ∧
    (keyedObj → (u.fifoOf n k).isSome = true → Does s (.canEnable n w) (obj 3 u) ∧ Does s (.canDisable n w) (obj 3 u)) ∧
    (keyedObj → u.fifoOf n k = some f →
      (k ≠ u.get (CAN_FIFOCFG.FBASE n f) + g → Does s (.canClrnew n w) (obj 3 u)) ∧
      (k = u.get (CAN_FIFOCFG.FBASE n f) + g → m ≠ 0 → Does s (.canClrnew n w) (obj 0
        (((u.clrBit (CAN_NEW.NEW n (k / 32)) (k % 32)).put (CAN_FIFOSTAT.COUNT n f) (m - 1)).put (CAN_FIFOSTAT.GET n f) ((g + 1) % u.fifoLen n f))))) ∧
    (keyedObj → u.txst n k ≠ 1 → u.objEna n k = true → u.objFlag n k 0 = true →
      Does s (.canTxreq n w) (obj 0 (((u.objPut n k 7 0 0).objPut n k 10 8 1).objSeq n k |>.setBit (CAN_TXPEND.PEND n (k / 32)) (k % 32)))) ∧
    (keyedObj → u.txst n k = 1 ∨ u.objEna n k = false ∨ u.objFlag n k 0 = false → Does s (.canTxreq n w) (obj 2 u)) ∧
    (keyedObj → u.txst n k ≠ 1 → Does s (.canTxabort n w) (obj 0 u)) ∧
    (keyedObj → u.txst n k = 1 → (u.can n).attempt = some k → Does s (.canTxabort n w) (obj 0 (u.modCan n fun q => { q with abort := true }))) ∧
    (keyedObj → u.txst n k = 1 → (u.can n).attempt ≠ some k → Does s (.canTxabort n w) (obj 0 (u.objTxst n k 5))) ∧
    (ByMcHost s w → u.flag (CAN_FIFOCFG.FEN n f) = false → v.getLsbD 16 = false → Does s (.canFifocfgWrite n f w) (u.wr (CAN_FIFOCFG.reg n f) v)) ∧
    (ByMcHost s w → u.flag (CAN_FIFOCFG.FEN n f) = true → v.getLsbD 16 = true → Does s (.canFifocfgWrite n f w) u) ∧
    (ByMcHost s w → u.flag (CAN_FIFOCFG.FEN n f) = false → v.getLsbD 16 = true → (CAN_FIFOCFG.FLENM1 n f).of v ≠ 0 →
      (∀ j ∈ fifoRange v, j ≤ 255 ∧ u.objEna n j = false ∧ u.fifoOf n j = none) →
      Does s (.canFifocfgWrite n f w) (((u.forIn (fifoRange v) fun j c => c.putEna n j true).fifoEmpty n f).wr (CAN_FIFOCFG.reg n f) v)) ∧
    (ByMcHost s w → u.flag (CAN_FIFOCFG.FEN n f) = true → v.getLsbD 16 = false →
      Does s (.canFifocfgWrite n f w) (((u.forIn (fifoRange (u.rd (CAN_FIFOCFG.reg n f))) fun j c =>
        (c.putEna n j false).putNew n j false).fifoEmpty n f).wr (CAN_FIFOCFG.reg n f) v)) ∧
    (ByMcHost s w → u.flag (CAN_FIFOCFG.FEN n f) = false → v.getLsbD 16 = true → (CAN_FIFOCFG.FLENM1 n f).of v = 0 →
      Does s (.canFifocfgWrite n f w) (u.put (CAN_CMDSTAT.CMDERR n) 3))

/-- A CAN controller on its bus (R310 to R314, R319 to R324, R326, R327): modes take effect at bus idle after the check of the timing, error counters set the
error state, a frame is stored in the first candidate that takes it or counted as lost, an attempt takes the pending object of highest priority, and its
end, by an error on the bus too, clears or keeps the request; the bit error that an overflow of the delay counts as is log entry 119. -/
def Obligations.CanBusEvents : Prop :=
  ∀ (s : State) (n : Fin 4) (e : CanErr) (f : CanFrame) (k v : Nat) (w : Word) (stamp now : Time),
    let c := came s now
    let q := c.can n
    let free : Prop := c.mode ≠ mLOAD ∧ q.attempt = none ∧ q.boot = false
    let staged : Prop := c.staged.find? (·.1 == CAN_CTL.reg n) = some (CAN_CTL.reg n, w) ∧ w.toNat % 8 = v
    let checked (x : Nat) : Chip := c.put (CAN_CMDSTAT.CFGERR n) x
    let tec := c.get (CAN_ERR.TEC n) + e.tec
    let rec' := c.get (CAN_ERR.REC n) + e.rec_
    let counts (t r p : Nat) : Chip := ((((c.put (CAN_ERR.LEC n) e.lec.val).put (CAN_ERR.TEC n) t).put (CAN_ERR.REC n) (min 255 r)).put (CAN_ERR.ESTATE n) p)
    let d : Chip := c.modCan n fun q => { q with counted := true }
    let ended : Chip := c.modCan n fun q => { q with attempt := none, abort := false, disable := false, memErr := false }
    let closed (x : Chip) : Chip := if q.disable then x.putEna n k false else x
    let failed (x : Chip) (e : CanErr) : Chip :=
      closed (((x.modCan n fun q => { q with attempt := none, abort := false, disable := false, memErr := false }).canRetry n k q.abort 19 7 4).canError n e)
    let tdc : Bool := c.flag (CAN_CTL.TDCEN n) && c.objFlag n k 2 && c.objFlag n k 3
    let stamped : Chip := ended.st (canObj n k 0x10) 8 stamp.toNat
    let sent : Chip := if q.memErr then stamped.objTxst n k 5 else (stamped.objTxst n k 2).set1 (CAN_STAT.TXDONE n)
    (free → staged → c.get (CAN_CTL.OPMODE n) = 0 → v ≠ 0 →
      (c.canCfgErr n = 0 → Does s (.canOpmodeApply n now) (((checked 0).canSetMode n v).modCan n fun q => { q with joined := false })) ∧
      (c.canCfgErr n ≠ 0 → Does s (.canOpmodeApply n now) ((checked (c.canCfgErr n)).canSetMode n 0))) ∧
    (free → staged → v = 0 → Does s (.canOpmodeApply n now) ((c.canSetMode n 0).modCan n fun q => { q with joined := false })) ∧
    (free → staged → c.get (CAN_CTL.OPMODE n) ≠ 0 → v ≠ 0 → Does s (.canOpmodeApply n now) (c.canSetMode n v)) ∧
    (¬ free → Does s (.canOpmodeApply n now) c) ∧
    (c.get (CAN_CTL.OPMODE n) ≠ 0 → Does s (.canBusIntegrated n now) (c.modCan n fun q => { q with joined := true })) ∧
    (c.get (CAN_CTL.OPMODE n) = 0 → Does s (.canBusIntegrated n now) c) ∧
    (q.attempt = none → c.canOnBus n = true → tec ≤ 127 → rec' ≤ 127 → Does s (.canBusError n e now) (counts tec rec' 0)) ∧
    (q.attempt = none → c.canOnBus n = true → tec ≤ 255 → (127 < tec ∨ 127 < rec') → (c.put (CAN_ERR.LEC n) e.lec.val).get (CAN_ERR.ESTATE n) = 1 →
      Does s (.canBusError n e now) (counts tec rec' 1)) ∧
    (q.attempt = none → c.canOnBus n = true → tec ≤ 255 → (127 < tec ∨ 127 < rec') → (c.put (CAN_ERR.LEC n) e.lec.val).get (CAN_ERR.ESTATE n) ≠ 1 →
      Does s (.canBusError n e now) (((counts tec rec' 1).set1 (CAN_STAT.EPASS n)).fault 0 0x07 (canAgent n) 0x39 (canAgent n))) ∧
    (q.attempt = none → c.canOnBus n = true → 255 < tec → Canonical s → Powered s → Leads (.canBusError n e now) s fun c' =>
      c'.get (CAN_ERR.ESTATE n) = 2 ∧ c'.get (CAN_ERR.TEC n) = 0 ∧ c'.get (CAN_ERR.REC n) = 0 ∧ c'.flag (CAN_STAT.BOFF n) = true ∧
      (c'.can n).attempt = none ∧ (c'.can n).permit = false ∧ c'.mem = c.mem) ∧
    (q.attempt = some k → Does s (.canBusError n e now) (failed c e)) ∧
    (q.attempt = none → c.canOnBus n = false → Does s (.canBusError n e now) c) ∧
    (c.canOnBus n = false → Does s (.canFrameReceived n f now) c ∧ Does s (.canTxAttemptStart n now) c) ∧
    (c.get (CAN_ERR.ESTATE n) = 2 → (d.canAuto n = true ∨ (d.can n).permit = true) → Canonical s → Powered s →
      Leads (.canRecoveryCountDone n now) s fun c' =>
        c'.get (CAN_ERR.ESTATE n) = 0 ∧ c'.get (CAN_ERR.TEC n) = 0 ∧ c'.get (CAN_ERR.REC n) = 0 ∧ (c'.can n).permit = false) ∧
    (c.get (CAN_ERR.ESTATE n) = 2 → d.canAuto n = false → (d.can n).permit = false →
      Does s (.canRecoveryCountDone n now) (d.set1 (CAN_STAT.RCVRDY n))) ∧
    (c.get (CAN_ERR.ESTATE n) ≠ 2 → Does s (.canRecoveryCountDone n now) c) ∧
    (c.canOnBus n = true → c.get (CAN_CTL.OPMODE n) ≠ 4 →
      ((f.fdf = false ∨ c.flag (CAN_CTL.FDEN n) = true) → Does s (.canFrameReceived n f now) ((c.canRecDown n).canStore n f)) ∧
      (f.fdf = true → c.flag (CAN_CTL.FDEN n) = false → c.flag (CAN_CTL.PXE n) = true →
        Does s (.canFrameReceived n f now) (c.set1 (CAN_STAT.PXEV n)))) ∧
    ((c.canCandidates n f).find? (c.canTakes n) = some (k, none) → c.objNew n k = false → c.canStore n f = (c.canPutFrame n k f).canTaken n k) ∧
    (c.canCandidates n f = [] → c.canStore n f = c) ∧
    (c.canOnBus n = true → q.attempt = none → c.get (CAN_CTL.OPMODE n) = 1 ∨ c.get (CAN_CTL.OPMODE n) = 4 →
      Does s (.canTxAttemptStart n now) (c.modCan n fun q => { q with attempt := c.canNext n, abort := false, disable := false, memErr := false })) ∧
    (∀ j, c.canNext n = some j → j ∈ c.canPending n ∧ ∀ i ∈ c.canPending n, c.canPrio n j ≤ c.canPrio n i) ∧
    (q.attempt = none → ∀ r, Does s (.canTxAttemptEnd n r now) c) ∧
    (q.attempt = some k →
      (∀ delay, Does s (.canTxAttemptEnd n (.sent stamp delay) now) (closed (
        let x := (sent.incWrap (CAN_TXCNT.CNT n)).canErrState n (sent.get (CAN_ERR.TEC n) - 1) (sent.get (CAN_ERR.REC n))
        let y := match delay with
          | some t => if x.flag (CAN_CTL.TDCEN n) && x.objFlag n k 2 && x.objFlag n k 3 then x.put (CAN_TDC.TDCV n) t.val else x
          | none => x
        if y.get (CAN_CTL.OPMODE n) = 4 then y.canStore n (c.canOwnFrame n k stamp) else y))) ∧
      Does s (.canTxAttemptEnd n .lost now) (closed (ended.canRetry n k q.abort 15 3 3)) ∧
      (∀ delay, Does s (.canTxAttemptEnd n (.error e delay false) now) (failed (match delay with
        | some t => if tdc then c.put (CAN_TDC.TDCV n) t.val else c
        | none => c) e)) ∧
      (tdc = true → ∀ delay, Does s (.canTxAttemptEnd n (.error e delay true) now)
        (failed (c.set1 (CAN_STAT.TDCOVF n)) (if e.lec = 5 then e else { e with lec := 4 }))))

/-- Record commands of the parameter store (R375, R378, R380 to R383, R390): the checks in their order, the accepted command that waits for its admission,
and its completion, which writes the bank that does not hold the chosen copy, delivers the chosen copy, or invalidates both; a cell write that fails ends
the command with STATUS 3 and leaves every byte outside the copy it wrote; READ and WRITE report an uncorrectable cell and an open choice, INVAL does not
read. What the cell of a failed write holds is free (log entry 92), an uncorrectable cell reads as an erased one (log entry 138), what an
erased cell reads as and the order of the refusals are the model's (log entry 52), and that an unlock is one agent's is its reading (log entry 53). -/
def Obligations.ParameterRecordCommands : Prop :=
  ∀ (s : State) (w : Cmd) (bad stuck : List Nat) (j : NvsJob) (slot : Nat × Option Nat) (b : Nat) (now : Time),
    let c := came s now
    let u := written s w
    let n (code : Nat) : Chip := u.put NVS_CMDSTAT.LASTCMD code
    let err (code e : Nat) : Chip := ((n code).put NVS_CMDSTAT.CMDERR e).set1 NVS_STAT.ERR
    let r := NVS_CMD.REC.of w.value
    let allowed : Prop := s.chip.nvsWriter w.agent = true ∧ (isHost w.agent = true → HostReaches s)
    let keyed : Prop := allowed ∧ NVS_CMD.KEY.of w.value = 0x4E5F
    let ready (code : Nat) : Prop := keyed ∧ (n code).flag NVS_CMDSTAT.BUSY = false
    let known (code : Nat) : Prop := ready code ∧ 8 ≤ r ∧ (n code).recSlot r = some slot
    let addr (code : Nat) : Nat := (n code).get NVS_RADDR.ADDR
    let rows : List ((Cmd → Instr) × Nat) := [(.nvsWrite, 1), (.nvsRead, 2), (.nvsInval, 3)]
    let len := slot.2.getD 0
    let d := c.cells ⟨bad, stuck⟩
    let pend : Prop := d.nvs.job = some j ∧ d.recSlot j.record = some slot ∧ d.turnHas 0 .store = true
    let read := d.recNotes j.record slot
    let pick := (d.chosen j.record slot).1
    let bank := (d.nextCopy j.record slot).1
    let seq := (d.nextCopy j.record slot).2
    let cells := copyCells bank j.record slot.1 seq (d.ldBytes j.addr len)
    let invals : List (Nat × Nat) := [(copyAt 0 slot.1 + 8, 0), (copyAt 1 slot.1 + 8, 0)]
    let fails (l : List (Nat × Nat)) : Prop := ∃ e ∈ l, cellOf e.1 ∈ d.nvs.stuck
    let done : Instr := .nvsRecordCmdComplete bad stuck now
    (allowed → NVS_CMD.KEY.of w.value ≠ 0x4E5F → ∀ i ∈ ([.nvsWrite, .nvsRead, .nvsInval, .nvsRelock] : List (Cmd → Instr)),
      Does s (i w) (u.put NVS_CMDSTAT.CMDERR 1)) ∧
    (∀ i ∈ rows ++ [(.nvsRelock, 4)], keyed → (n i.2).flag NVS_CMDSTAT.BUSY = true → Does s (i.1 w) (err i.2 2)) ∧
    (∀ i ∈ rows, ready i.2 → r < 8 ∨ (n i.2).recSlot r = none → Does s (i.1 w) (err i.2 3)) ∧
    (∀ i ∈ rows, known i.2 → i.2 ≠ 3 → dataAddrOk (addr i.2) len = false → Does s (i.1 w) (err i.2 4)) ∧
    (∀ i ∈ rows, known i.2 → i.2 = 3 ∨ dataAddrOk (addr i.2) len = true →
      ((n i.2).pwOpen w.agent 0 (i.2 != 2) = false → Does s (i.1 w) (err i.2 6)) ∧
      ((n i.2).pwOpen w.agent 0 (i.2 != 2) = true → Does s (i.1 w)
        (((((n i.2).put NVS_CMDSTAT.CMDERR 0).set1 NVS_CMDSTAT.BUSY).modNvs fun m =>
          { m with job := some ⟨i.2, r, addr i.2, w.agent⟩ }).turnAsk 0 .store))) ∧
    (ready 4 → Does s (.nvsRelock w) (((n 4).put NVS_CMDSTAT.CMDERR 0).modNvs fun m =>
      { m with unlocked := m.unlocked.filter (·.1 != w.agent.toNat) })) ∧
    (pend → j.cmd = 1 →
      (¬ fails cells → Does s done ((cells.foldl (fun x e => x.cellPut e.1 e.2) read).nvsReport len bank 1 seq)) ∧
      (fails cells → Canonical s → Powered s → Leads done s fun c' =>
        c'.get NVS_RRES.STATUS = 3 ∧ c'.flag NVS_STAT.VERR = true ∧ c'.flag NVS_STAT.DONE = true ∧ c'.nvs.job = none ∧
        ∀ a, (a < copyAt bank slot.1 ∨ copyAt bank slot.1 + 16 + 8 * (len / 8) ≤ a) → c'.ldB a = d.ldB a)) ∧
    (pend → j.cmd = 2 →
      (pick = some b → Does s done ((read.stBytes j.addr (read.copyData b slot.1)).nvsReport len b 1 (read.copySeq b slot.1))) ∧
      (pick = none → Does s done (read.nvsReport len 0 2 0))) ∧
    (pend → j.cmd = 3 →
      (¬ fails invals → Does s done (((d.cellPut (copyAt 0 slot.1 + 8) 0).cellPut (copyAt 1 slot.1 + 8) 0).nvsReport len 0 1 0)) ∧
      (fails invals → Powered s → Canonical s → Leads done s fun c' =>
        c'.get NVS_RRES.STATUS = 3 ∧ c'.flag NVS_STAT.VERR = true ∧ c'.nvs.job = none)) ∧
    (d.nvs.job = none ∨ d.turnHas 0 .store = false → Does s done d) ∧
    (d.copyBad 0 slot = false → d.copyBad 1 slot = false → (d.chosen j.record slot).2 = false → read = d) ∧
    (Canonical s → d.copyBad 0 slot = false → d.copyBad 1 slot = false → (d.chosen j.record slot).2 = true → read.flag NVS_STAT.SEQEQ = true) ∧
    (c.copyOk 0 r slot = true → c.copyOk 1 r slot = true →
      let diff := (c.copySeq 1 slot.1 + 2 ^ 32 - c.copySeq 0 slot.1) % 2 ^ 32
      (0 < diff → diff < 2 ^ 31 → c.chosen r slot = (some 1, false)) ∧ (2 ^ 31 < diff → c.chosen r slot = (some 0, false)) ∧
      (diff = 0 ∨ diff = 2 ^ 31 → c.chosen r slot = (some 0, true)))

/-- Counters, passwords and flush areas of the store (R376, R384 to R386, R388 to R392): INC writes the next cell with the value raised by 1, a counter reads as
the greatest valid cell, the right password opens a partition to its agent, the third wrong one locks it; an area is erased unit by unit, each under its
admission, and is armed with its last. Model's own: the uncorrectable cell that reads as an erased one (log entry 138), the value that a failed write
leaves (log entry 92), the units that a grant erases at once (log entry 139), which CMDERR comes first (log entry 52), and that an unlock is one agent's (log
entry 53). -/
def Obligations.CountersPasswordsAndAreas : Prop :=
  ∀ (s : State) (w : Cmd) (r : CounterRead) (o n : Nat) (l : List (Nat × Nat)) (now : Time),
    let c := came s now
    let u := written s w
    let allowed : Prop := s.chip.nvsWriter w.agent = true ∧ (isHost w.agent = true → HostReaches s)
    let k := NVS_CNTINC.CNT.of w.value
    let v := u.cntVal k
    let a := 0x60028000 + 0x200 * k + 8 * ((v + 1) % 64)
    let inc : Prop := allowed ∧ NVS_CNTINC.KEY.of w.value = 0x4E5F ∧ k ∉ u.nvs.worn ∧ u.pwOpen w.agent 1 true = true
    let p := NVS_PWSEL.PART.of w.value
    let wr := w.value.getLsbD 4
    let f := u.nvs.fails.toList.getD p 0 + 1
    let tries : Prop := allowed ∧ p < 5 ∧ u.bitOf NVS_PWSTAT.LOCKD p = false
    let x : Cells := ⟨[], []⟩
    let old := u.ld a 8
    let y := c.cells ⟨r.bad, []⟩
    let cnt := y.get NVS_CNTSEL.CNT
    let z := y.noteCells (cntCell cnt 0) 0x200
    let whole : Prop := u.cellsBad (cntCell k 0) 0x200 = false
    let pwell : Prop := u.cellsBad (pwAddr p wr) 8 = false
    let hi := z.cntVal cnt / 2 ^ 32 + 2 ^ 16 * (decide (z.cntVal cnt = 2 ^ 48 - 1)).toNat + 2 ^ 17 * (z.nvs.worn.contains cnt).toNat
    (inc → whole → v < 2 ^ 48 - 1 → cellOf a ∉ u.nvs.stuck → Does s (.nvsCntinc x w)
      ((u.cellPut a (cntWord (v + 1))).modNvs fun n => { n with inc := some (a, old, u.tb) })) ∧
    (inc → whole → v = 2 ^ 48 - 1 → Does s (.nvsCntinc x w) (u.set1 NVS_STAT.SAT)) ∧
    (inc → whole → v < 2 ^ 48 - 1 → cellOf a ∈ u.nvs.stuck →
      Does s (.nvsCntinc x w) ((((u.cntFail k).nvsVerr 1).set1 NVS_STAT.WORN).modNvs fun n => { n with worn := n.worn ++ [k] }) ∧
      (u.cntFail k).cntVal k = v) ∧
    (allowed → NVS_CNTINC.KEY.of w.value = 0x4E5F → k ∈ u.nvs.worn → Does s (.nvsCntinc x w) ((u.put NVS_CMDSTAT.CMDERR 5).set1 NVS_STAT.ERR)) ∧
    (allowed → NVS_CNTINC.KEY.of w.value = 0x4E5F → k ∉ u.nvs.worn → u.pwOpen w.agent 1 true = false →
      Does s (.nvsCntinc x w) ((u.put NVS_CMDSTAT.CMDERR 6).set1 NVS_STAT.ERR)) ∧
    (allowed → NVS_CNTINC.KEY.of w.value ≠ 0x4E5F → Does s (.nvsCntinc x w) u) ∧
    (y.mayRead r.agent NVS_CNTL.reg = true → (isHost r.agent = true → HostReaches s) → Does s (.nvsCntlRead r now)
      ((z.wr NVS_CNTH.reg (BitVec.ofNat 32 hi)).answerW (BitVec.ofNat 32 (z.cntVal cnt)))) ∧
    (y.mayRead r.agent NVS_CNTL.reg = false → isHost r.agent = false →
      Does s (.nvsCntlRead r now) ((y.refuse r.agent false NVS_CNTL.reg).denied r.agent 4)) ∧
    (tries → pwell → u.pwEntry = u.ld (pwAddr p wr) 8 → Powered s → Canonical s → Leads (.nvsPwEnter w) s fun c' =>
      (w.agent.toNat, p, wr) ∈ c'.nvs.unlocked ∧ c'.nvs.fails.toList.getD p 0 = 0 ∧ c'.get NVS_PWSTAT.PWERR = 0 ∧ c'.rd NVS_PWL.reg = 0 ∧
      c'.rd NVS_PWH.reg = 0 ∧ c'.mem = u.mem) ∧
    (tries → pwell → u.pwEntry ≠ u.ld (pwAddr p wr) 8 → f < 3 → Does s (.nvsPwEnter w)
      ((u.modNvs fun n => { n with fails := n.fails.setIfInBounds p f }).pwEnd p 1)) ∧
    (tries → pwell → u.pwEntry ≠ u.ld (pwAddr p wr) 8 → 3 ≤ f → Does s (.nvsPwEnter w)
      (((((u.modNvs fun n => { n with fails := n.fails.setIfInBounds p f }).pwEnd p 1).setBit NVS_PWSTAT.LOCKD p).set1 NVS_STAT.LOCKD).fault 1 0x0D p 0x56)) ∧
    (allowed → 5 ≤ p ∨ u.bitOf NVS_PWSTAT.LOCKD p = true → (pwell → Does s (.nvsPwEnter w) (u.pwEnd p 3)) ∧ Does s (.nvsPwChange x w) (u.pwEnd p 3)) ∧
    (tries → (w.agent.toNat, p, wr) ∈ u.nvs.unlocked → u.grantFor w.agent 5 p wr.toNat = true →
      let g := u.grantUse.pwEnd p 0
      Does s (.nvsPwChange x w) (if cellOf (pwAddr p wr) ∈ g.nvs.stuck then (g.cellFree (pwAddr p wr)).nvsVerr 3 else g.cellPut (pwAddr p wr) u.pwEntry)) ∧
    (tries → (w.agent.toNat, p, wr) ∉ u.nvs.unlocked ∨ u.grantFor w.agent 5 p wr.toNat = false → Does s (.nvsPwChange x w) (u.pwEnd p 2)) ∧
    (c.nvs.erasing = (o, n + 2) :: l → c.cellWriter = false →
      c.storeGranted = ((c.eraseNvs o 4096).modNvs fun m => { m with erasing := (o + 4096, n + 1) :: l }).storeEnd) ∧
    (Powered s → Canonical s → c.nvs.erasing = (o, 1) :: l → c.turnHas 0 .store = true →
      let erased (c' : Chip) : Prop := c'.nvs.erasing = l ∧ (∀ a, 0x60000000 + o ≤ a → a < 0x60000000 + o + 4096 → c'.ldB a = memDefault a) ∧
        ∀ a, (a < 0x60000000 + o ∨ 0x60000000 + o + 4096 ≤ a) → c'.ldB a = c.ldB a
      (0x38000 ≤ o → o < 0x58000 → Leads (.retentiveAreaArmed now) s fun c' => erased c' ∧ c'.flag NVS_STAT.RARM = true) ∧
      (0x58000 ≤ o → o < 0x68000 → Leads (.tailAreaArmed now) s fun c' => erased c' ∧ c'.flag NVS_STAT.TARM = true)) ∧
    (c.turnHas 0 .store = false ∨ c.nvs.erasing = [] → Does s (.retentiveAreaArmed now) c ∧ Does s (.tailAreaArmed now) c)

/-- Change packages (R192 to R197, R201, R202, R204, R205, R212): LOAD empties the controller and copies in admitted portions, a package with an
error code leaves it
empty, ACTIVATE has its conditions in order, and the exchange swaps the code halves, takes the staged build ID and counts. The model's own: the order
in which LOAD copies and what a package without cyclic task waits for (log entry 47), that a
DISARM is forwarded where the ACTIVATE has been, and is ignored on a standby (log entry 113), and that ACTIVATE latches the scan number (log entry 129). -/
def Obligations.ChangePackages : Prop :=
  ∀ (s : State) (w : Cmd) (p : PkgSections) (now : Time),
    let c := came s now
    let u := written s w
    let keyed : Prop := ByMcHost s w ∧ OLC_CMD.KEY.of w.value = 0x5A3C
    let st := u.get OLC_STATE.STATE
    let refuse (e : Nat) : Chip := (u.put OLC_STATE.ACTERR e).set1 OLC_STAT.ERR
    let loaded : Chip := c.turnEnd 4 .olc
    let k := c.olc.portions
    let told : Chip := if u.leading ∧ u.olc.fwd = none then u.send (.stage (u.pivotOf.getD 0) OLC_CMD.reg 0x5A3C0002 0) else u
    let pivot := u.pivotOf
    let fits (t : Fin 32) : Prop := u.get OLC_ACTSCAN.SCAN = 0 ∨ (u.boundaryNum t).toNat ≤ u.get OLC_ACTSCAN.SCAN
    let armed := u.put OLC_STATE.STATE 3
    let own := (u.refuse w.agent true OLC_CMD.reg).denied w.agent 0
    (ByMcHost s w → OLC_CMD.KEY.of w.value ≠ 0x5A3C → ∀ i ∈ ([.olcLoad, .olcDisarm, .olcActivate, .olcDiscard] : List (Cmd → Instr)), Does s (i w) u) ∧
    (keyed → st ≠ 1 → st ≠ 3 → st ≠ 4 →
      Does s (.olcLoad w) (((u.pkgEmpty.put OLC_STATE.STATE 1).modOlc fun o => { o with portions := 0, buf := [] }).turnAsk 4 .olc) ∧
      Does s (.olcDiscard w) u.pkgEmpty) ∧
    (keyed → st = 1 ∨ st = 3 ∨ st = 4 → Does s (.olcLoad w) ((u.put OLC_STATE.LDERR 7).set1 OLC_STAT.ERR) ∧ Does s (.olcDiscard w) u) ∧
    (keyed → u.mode ≠ mFOLLOW → st = 3 →
      Does s (.olcDisarm w) ((told.put OLC_STATE.STATE 2).modOlc fun o => { o with hold := false, fwd := none })) ∧
    (keyed → u.mode ≠ mFOLLOW → st ≠ 3 → Does s (.olcDisarm w) u) ∧
    (keyed → u.mode = mFOLLOW → Does s (.olcDisarm w) ((u.refuse w.agent true OLC_CMD.reg).answer [])) ∧
    (Canonical s → k < 768 → ∀ a, 0x10300000 ≤ a → a < 0x10600000 → c.loadPortion.ldB a =
      if 0x10300000 + 4096 * k ≤ a ∧ a < 0x10300000 + 4096 * (k + 1) then c.ldB (a - 0x300000) else c.ldB a) ∧
    (768 ≤ k → c.loadPortion.mem = c.mem ∧ c.loadPortion.olc.buf = c.olc.buf ++
      c.ldBytes (c.get OLC_LDSRC.SRC + 4096 * (k - 768)) (min 4096 (c.loadLen - 4096 * (k - 768)))) ∧
    (c.get OLC_STATE.STATE = 1 → c.loadPortions p ≤ k → loaded.ldErr p ≠ 0 → Does s (.olcLoadComplete p now)
      ((((loaded.put OLC_STATE.LDERR (loaded.ldErr p)).set1 OLC_STAT.ERR).put OLC_STATE.STATE 0).modOlc fun o => { o with buf := [] })) ∧
    (c.get OLC_STATE.STATE = 1 → c.loadPortions p ≤ k → loaded.ldErr p = 0 → Powered s → Canonical s →
      Leads (.olcLoadComplete p now) s fun c' =>
        c'.get OLC_STATE.STATE = 2 ∧ c'.flag OLC_STAT.LDDONE = true ∧ c'.olc.pkg = some p ∧
        c'.rd OLC_STGIDL.reg = BitVec.ofNat 32 (c.pkgW 0x18) ∧ c'.rd OLC_STGIDH.reg = BitVec.ofNat 32 (c.pkgW 0x1C) ∧
        (∀ a, 0x10000000 ≤ a → a < 0x10300000 → c'.ldB a = c.ldB a) ∧
        (p.code = [] → ∀ a, 0x10000000 ≤ a → a < 0x10300000 → c'.ldB (a + 0x300000) = c.ldB a)) ∧
    (c.get OLC_STATE.STATE ≠ 1 ∨ k < c.loadPortions p → Does s (.olcLoadComplete p now) c) ∧
    (keyed → u.mode ≠ mRUN → u.mode ≠ mSTOP → u.mode ≠ mFOLLOW → Does s (.olcActivate w) (refuse 3)) ∧
    (keyed → u.mode = mFOLLOW → own.mode = mFOLLOW → Does s (.olcActivate w) ((own.put OLC_STATE.ACTERR 3).set1 OLC_STAT.ERR)) ∧
    (keyed → u.mode = mRUN ∨ u.mode = mSTOP → st ≠ 2 → Does s (.olcActivate w) (refuse 1)) ∧
    (keyed → u.mode = mSTOP → st = 2 → Does s (.olcActivate w) u.exchange) ∧
    (∀ t, keyed → u.mode = mRUN → st = 2 → pivot = some t → u.kind t = kCYC → u.get OLC_ACTSCAN.SCAN ≠ 0 →
      u.get OLC_ACTSCAN.SCAN < (u.boundaryNum t).toNat → Does s (.olcActivate w) (refuse 2)) ∧
    (∀ t, keyed → u.mode = mRUN → st = 2 → pivot = some t → u.kind t = kCYC → fits t → u.pairMember = true →
      u.partnerStaged = false → Does s (.olcActivate w) (refuse 4)) ∧
    (∀ t, keyed → u.mode = mRUN → st = 2 → pivot = some t → (u.kind t = kCYC → fits t) →
      (u.pairMember = false ∨ u.partnerStaged = true) → u.leading = false → armed.pivotOf = some t →
      let n : Word := if u.get OLC_ACTSCAN.SCAN = 0 ∨ u.kind t ≠ kCYC then u.boundaryNum t else BitVec.ofNat 32 (u.get OLC_ACTSCAN.SCAN)
      let x := armed.modOlc fun o => { o with actScan := n, pivot := t }
      Does s (.olcActivate w) (if x.kind t ≠ kCYC ∧ (x.task t).live = false then x.actPoint t else x)) ∧
    (∀ t, keyed → u.mode = mRUN → st = 2 → pivot = some t → u.kind t = kCYC → fits t → u.partnerStaged = true → u.leading = true →
      let n : Word := if u.get OLC_ACTSCAN.SCAN = 0 then u.boundaryNum t else BitVec.ofNat 32 (u.get OLC_ACTSCAN.SCAN)
      ¬ (2 ≤ u.phase t ∧ n = u.scanNum t) → armed.pivotOf = some t → armed.kind t = kCYC →
      Does s (.olcActivate w) (((u.modOlc fun o => { o with fwd := some n }).put OLC_STATE.STATE 3).modOlc fun o => { o with actScan := n, pivot := t })) ∧
    (keyed → u.mode = mRUN → st = 2 → pivot = none → (u.pairMember = false ∨ u.partnerStaged = true) → u.leading = false → armed.pivotOf = none →
      Does s (.olcActivate w) (armed.modOlc fun o => { o with actScan := 0, hold := true, holdAt := u.tb })) ∧
    (c.get OLC_STATE.STATE = 4 → let t := c.olc.pivot
      Does s (.activationExchange now) (if c.exchange.phase t = 5 then (c.exchange.housekeepEnd t).followNext t else c.exchange.followStart t)) ∧
    (c.get OLC_STATE.STATE ≠ 4 → Does s (.activationExchange now) c) ∧
    (c.olc.hold = true → c.get OLC_STATE.STATE = 3 → c.noActivation = true →
      Does s (.alltaskExchange now) (c.exchange.forFin 32 fun t c =>
        if c.mode = mFOLLOW then c.followStart t else if c.kind t = kCYC then c.lateStart t else c)) ∧
    (c.olc.hold = false ∨ c.get OLC_STATE.STATE ≠ 3 ∨ c.noActivation = false → Does s (.alltaskExchange now) c) ∧
    (Canonical s → c.olc.pkg = some p → p.regs = [] → p.map = [] → c.olc.forces = [] → c.olc.chgMask = 0 →
      let x := c.exchange
      (∀ a, 0x10000000 ≤ a → a < 0x10300000 → x.ldB a = c.ldB (a + 0x300000) ∧ x.ldB (a + 0x300000) = c.ldB a) ∧
      x.rd OLC_RUNIDL.reg = c.rd OLC_STGIDL.reg ∧ x.rd OLC_RUNIDH.reg = c.rd OLC_STGIDH.reg ∧ x.get OLC_STATE.STATE = 5 ∧
      x.get OLC_ACTSEQ.SEQ = (c.get OLC_ACTSEQ.SEQ + 1) % 2 ^ 32 ∧ x.flag OLC_STAT.ACTDONE = true ∧ x.olc.pkg = none)

/-- The force table (R208, R209, R211, R212): SET names a symbol and stages or makes its change, CLEAR removes, both with the error codes of FERR; a standby
refuses every force command. -/
def Obligations.ForceTable : Prop :=
  ∀ (s : State) (w : Cmd) (y : Symbol),
    let u := written s w
    let keyed : Prop := ByMcHost s w ∧ OLC_FCMD.KEY.of w.value = 0x5A3C
    let active : Prop := keyed ∧ u.mode ≠ mFOLLOW
    let id := u.rd OLC_FID.reg
    let v : Long := u.rd OLC_FVALH.reg ++ u.rd OLC_FVALL.reg
    let ferr (c : Chip) (e : Nat) : Chip := (c.put OLC_STATE.FERR e).set1 OLC_STAT.FERRS
    let held := u.olc.forces.any (·.sym.id == id)
    let known : Prop := u.olc.syms.find? (·.id == id) = some y ∧ symForbidden y = false
    (ByMcHost s w → OLC_FCMD.KEY.of w.value ≠ 0x5A3C → Does s (.forceSet w) u ∧ Does s (.forceClear w) u ∧ Does s (.forceClearAll w) u) ∧
    (keyed → u.mode = mFOLLOW → ∀ i ∈ ([.forceSet, .forceClear, .forceClearAll] : List (Cmd → Instr)),
      Does s (i w) (ferr ((u.refuse w.agent true OLC_FCMD.reg).denied w.agent 0) 3)) ∧
    (active → u.olc.syms.find? (·.id == id) = none → Does s (.forceSet w) (ferr u 1)) ∧
    (active → u.olc.syms.find? (·.id == id) = some y → symForbidden y = true → Does s (.forceSet w) (ferr u 1)) ∧
    (active → known → held = false → 256 ≤ u.olc.forces.length → Does s (.forceSet w) (ferr u 2)) ∧
    (active → known → held = false → u.olc.forces.length < 256 → Powered s → Leads (.forceSet w) s fun c' =>
      let o := u.forceOwner y
      (u.scanning = true → o.isSome = true → c'.olc.forces = u.olc.forces ++ [⟨y, o, none, some (.set v)⟩]) ∧
      ((u.scanning = false ∨ o = none) → y.id = id → c'.olc.forces = u.olc.forces ++ [⟨y, o, some v, none⟩]) ∧
      c'.mem = u.mem ∧ c'.tasks = u.tasks) ∧
    (active → known → held = true → u.scanning = true → (∀ f ∈ u.olc.forces, f.owner.isSome = true) → Powered s →
      Leads (.forceSet w) s fun c' =>
        c'.olc.forces = u.olc.forces.map (fun f => if f.sym.id = id then { f with pend := some (.set v) } else f) ∧ c'.mem = u.mem) ∧
    (active → held = false → Does s (.forceClear w) (ferr u 4)) ∧
    (active → held = true → u.scanning = true → (∀ f ∈ u.olc.forces, f.owner.isSome = true) → Powered s →
      Leads (.forceClear w) s fun c' =>
        c'.olc.forces = u.olc.forces.map (fun f => if f.sym.id = id then { f with pend := some .clear } else f) ∧ c'.mem = u.mem) ∧
    (active → held = true → u.scanning = false → Powered s → Leads (.forceClear w) s fun c' =>
      c'.olc.forces = u.olc.forces.filter (fun f => f.sym.id != id) ∧ c'.mem = u.mem) ∧
    (active → u.olc.forces = [] → Does s (.forceClearAll w) u) ∧
    (active → u.scanning = false → Powered s → Leads (.forceClearAll w) s fun c' => c'.olc.forces = [] ∧ c'.mem = u.mem) ∧
    (active → u.scanning = true → (∀ f ∈ u.olc.forces, f.owner.isSome = true) → Powered s → Leads (.forceClearAll w) s fun c' =>
      c'.olc.forces = u.olc.forces.map (fun f => { f with pend := some .clear }) ∧ c'.mem = u.mem)

/-- Update packages (R458 to R465, R467): a WRITE checks its package in the order of Table 19.5 and marks the target bank before it erases it, its bursts
erase and program, the last one programs the header with SEQ raised, and a failed verify leaves the bank invalid; ARM has its conditions, a unit that is
not active refuses it, DISARM and the preload do what R463 and R467 say, and the answers of AGREE are counted. The model's own: the order of the address
check (log entry 63), what a failed cell of the bank states holds (log entry 92), which STATE shows (log entry 146), the size of a burst (log entry 147), and
that AGREED is latched beside its flag (log entry 148). -/
def Obligations.UpdatePackages : Prop :=
  ∀ (s : State) (w : Cmd) (media tables l im : List Byte) (layout : List BankPlace) (k b z : Nat) (t now : Time) (id : BitVec 29) (kind : Byte)
    (agree : BitVec 16),
    let c := came s now
    let u := written s w
    let keyed : Prop := ByMcHost s w ∧ UPD_CMD.KEY.of w.value = 0x1B8D
    let n := UPD_CMD.KIND.of w.value
    let read := u.pkgRead
    let sectors : Prop := u.emmcHas (u.get UPD_SRC.SRC) ((128 + pkgNum media 8 4 + 511) / 512) = true
    let d := u.noteCells 0x6006A080 256
    let err := d.pkgErr n (layout != d.layout) l
    let first : Chip := ((d.put UPD_STATE.KIND n).put UPD_PROG.BYTES 0).put UPD_STATE.UPDERR 0
    let begun : Chip := if (d.sigOk l).2 then first.updFlag 8 else first
    let e := begun.updEntry n
    let starts (x : Chip) : Chip := (x.updTo fun y => { y with
      job := some ⟨n, none, b, (l.drop 128).take (pkgNum l 8 4), 0⟩, digests := spIns n ((l.drop 0x10).take 32) y.digests }).turnAsk 0 .xspi
    let job : UpdJob := ⟨k, none, b, im, z⟩
    let place := bankAt c.layout k b
    let lo := place.1 + 65536 * z
    let size := min 65536 (place.2 - 65536 * z)
    let o := 4096 * (z - eraseBursts place.2 + 1)
    let ends : Prop := c.upd.job = some job ∧ c.flushing = false ∧ c.mode ≠ mINTER
    let programmed : Prop := c.turnHas 0 .xspi = true ∧ im.length - 4096 = 4096 * (z - eraseBursts place.2) ∧
      c.admits 0x5E false place.1 im.length = true ∧ c.admits 0x5E true place.1 4096 = true
    let same : Prop := (c.ldBytes place.1 im.length).drop 4096 = im.drop 4096
    let header := im.take 8 ++ leBytes 4 (c.imgSeq (bankAt c.layout k (1 - b)).1 + 1) ++ (im.drop 12).take 4084
    let failed : Chip := (c.updFree.updErr 8).fault 1 0x0B 0 0x5C 0x5E
    let active : Prop := u.mode ≠ mFOLLOW ∧ (u.pairMember = true → u.get HSB_STATE.ROLE = 1)
    let armable : Prop := n ≤ 4 ∧ u.upd.armed = none ∧ (entStg (u.updEntry n)).testBit (1 - u.inUse n) = true ∧ u.otherPend n = false ∧
      u.t + 10000000 ≤ t.toNat
    let set : Chip := (((u.put UPD_STATE.KIND n).put UPD_STATE.UPDERR 0).put UPD_AGREE.ACKS 0).updTo fun x => { x with
      armed := some (n, t), live := u.updLive n, ready := !u.updLive n, agreers := [], agreed := false
      assets := if n = 4 ∧ x.assets = 0 then 1 else x.assets }
    let armed : Chip := if n = 4 then set.mimAsk else set
    let ask : List Byte := [0xB1, BitVec.ofNat 8 n] ++ leBytes 2 (armed.get UPD_AGREE.AGREE) ++ bytesOfWords [armed.tb.setWidth 32]
    let idle : Chip := u.updTo fun x => { x with armed := none, ready := false, assets := 0 }
    let from' := (bankAt c.layout k (1 - c.inUse k)).1
    let image := c.ldBytes from' (c.imgLen from')
    let area := 0x3C000000 + 0x50000 * (1 - c.upd.areas[0].val)
    let preloads : Prop := c.upd.armed = some (k, t) ∧ c.upd.ready = false ∧ c.flushing = false ∧ c.mode ≠ mINTER ∧
      c.admits 0x5E false from' (c.imgLen from') = true
    let answers : Prop := c.flag UPD_CANCFG.EN = true ∧ c.updHears id = true ∧ c.upd.armed = some (kind.toNat, t) ∧ agree.toNat = c.get UPD_AGREE.AGREE ∧
      id ∉ c.upd.agreers ∧ c.get UPD_AGREE.ACKS < 16
    let counted : Chip := (c.modUpd fun x => { x with agreers := x.agreers ++ [id] }).incSat UPD_AGREE.ACKS
    (ByMcHost s w → UPD_CMD.KEY.of w.value ≠ 0x1B8D →
      Does s (.updWrite media layout w) u ∧ Does s (.updArm w) u ∧ Does s (.updDisarm w) u ∧ Does s (.updCoreOk w) u) ∧
    (keyed → u.flag UPD_SRCCFG.EMMC = false → read.1 = none → Does s (.updWrite media layout w) (read.2.updErr 9)) ∧
    (keyed → u.flag UPD_SRCCFG.EMMC = false → read.1 = some l → Does s (.updWrite media layout w) (u.updCheck n (some layout) l)) ∧
    (keyed → u.flag UPD_SRCCFG.EMMC = true → u.upd.job.isSome = true → Does s (.updWrite media layout w) (u.updErr 5)) ∧
    (keyed → u.flag UPD_SRCCFG.EMMC = true → u.upd.job = none → ¬ sectors → Does s (.updWrite media layout w) (u.updErr 9)) ∧
    (keyed → u.flag UPD_SRCCFG.EMMC = true → u.upd.job = none → sectors → Does s (.updWrite media layout w)
      ((((u.put UPD_STATE.KIND n).put UPD_STATE.UPDERR 0).updTo fun x => { x with job := some ⟨n, some (media, some layout), 0, [], 0⟩ }).turnAsk 1
        .update)) ∧
    (err ≠ 0 → u.updCheck n (some layout) l = d.updErr err) ∧
    (err = 0 → d.loadWaits = false → b = 1 - d.inUse n →
      u.updCheck n (some layout) l = starts (begun.putEntry n (entry (entStg e ||| 2 ^ b) (entPend e) (entRev e) (entTries e)))) ∧
    (err = 0 → d.loadWaits = true → d.updTarget n = some b →
      u.updCheck n (some layout) l = starts (begun.putEntry n (entry (entStg e) (2 ^ b) (entRev e) 0))) ∧
    (z < eraseBursts place.2 → c.admits 0x5E true lo size = true → Canonical s →
      (∀ a, lo ≤ a → a < lo + size → (c.updBurst job).ldB a = memDefault a) ∧
      (∀ a, (a < lo ∨ lo + size ≤ a) → (c.updBurst job).ldB a = c.ldB a) ∧ (c.updBurst job).upd.job = some { job with burst := z + 1 }) ∧
    (eraseBursts place.2 ≤ z → o < im.length → c.admits 0x5E true (place.1 + o) ((im.drop o).take 4096).length = true →
      c.updBurst job = ((((c.stBytes (place.1 + o) ((im.drop o).take 4096)).put UPD_PROG.BYTES o).modUpd fun x =>
        { x with job := some { job with burst := z + 1 } }).turnEnd 0 .xspi).turnAsk 0 .xspi) ∧
    (ends → programmed → same → Does s (.updWriteComplete true now)
      (((c.stBytes place.1 header).updFree.put UPD_PROG.BYTES im.length).updFlag 1)) ∧
    (ends → programmed → ¬ same → Does s (.updWriteComplete true now) failed) ∧
    (ends → Does s (.updWriteComplete false now) failed) ∧
    (c.upd.job = none ∨ c.flushing = true ∨ c.mode = mINTER → ∀ ok, Does s (.updWriteComplete ok now) c) ∧
    (keyed → ¬ active → Does s (.updArm w) (u.updErr 0x14)) ∧
    (keyed → active → u.updWhen = none → Does s (.updArm w) (u.updErr 0x10)) ∧
    (keyed → active → u.updWhen = some t → ¬ armable → Does s (.updArm w) (u.updErr 0x10)) ∧
    (keyed → active → u.updWhen = some t → armable → armed.leading = false → armed.flag UPD_CANCFG.EN = false → Does s (.updArm w) armed) ∧
    (keyed → active → u.updWhen = some t → armable → armed.leading = false → armed.flag UPD_CANCFG.EN = true → Does s (.updArm w)
      (armed.canSendFrom (Fin.ofNat 4 (armed.get UPD_CANCFG.CANCTL)) (armed.get UPD_CANCFG.TXOBJ) ask)) ∧
    (u.flag UPD_WHENCFG.SEL = false → u.updWhen = some (u.rd UPD_WHENH.reg ++ u.rd UPD_WHENL.reg)) ∧
    (keyed → u.upd.armed = some (k, t) → k ≠ 4 ∨ 2 < u.upd.assets → Does s (.updDisarm w)
      (u.updTo fun x => { x with armed := none, ready := false })) ∧
    (keyed → u.upd.armed = some (4, t) → u.upd.assets ≤ 2 → idle.mim.asked ≠ some .tables → Does s (.updDisarm w)
      (idle.modMim fun m => { m with portion := 0 }).ovStarts) ∧
    (keyed → u.upd.armed = some (4, t) → u.upd.assets ≤ 2 → idle.mim.asked = some .tables → Does s (.updDisarm w)
      ((idle.turnEnd 3 .mimic).modMim fun m => { m with asked := none, portion := 0 }).ovStarts) ∧
    (keyed → u.upd.armed = none → Does s (.updDisarm w) u) ∧
    (preloads → k = 1 → c.admits 0x5E true area image.length = true → Does s (.updPreloadComplete tables now)
      (((c.stBytes area image).updTo fun x => { x with ready := true }).updFlag 0)) ∧
    (preloads → k = 2 ∨ k = 3 → Does s (.updPreloadComplete tables now)
      ((c.updTo fun x => { x with stores := spIns (2 * k + (1 - x.half k)) image x.stores, ready := true }).updFlag 0)) ∧
    (preloads → k = 4 → c.upd.assets = 1 → c.mim.asked = some .tables → c.turnHas 3 .mimic = true → 23 ≤ c.mim.portion →
      Does s (.updPreloadComplete tables now)
        ((((c.updTo fun x => { x with assets := 2, tables := tables, ready := true }).updFlag 0).modMim fun m => { m with portion := 0 }).mimEnd)) ∧
    (c.upd.armed = none ∨ c.upd.ready = true ∨ c.flushing = true ∨ c.mode = mINTER → Does s (.updPreloadComplete tables now) c) ∧
    (answers → counted.get UPD_AGREE.ACKS = counted.get UPD_CANCFG.ACKN → Does s (.updAgreeAnswer id kind agree now)
      ((counted.modUpd fun x => { x with agreed := true }).updFlag 4)) ∧
    (answers → counted.get UPD_AGREE.ACKS ≠ counted.get UPD_CANCFG.ACKN → Does s (.updAgreeAnswer id kind agree now) counted) ∧
    (id ∈ c.upd.agreers ∨ 16 ≤ c.get UPD_AGREE.ACKS ∨ c.updHears id = false → Does s (.updAgreeAnswer id kind agree now) c)

/-- An update takes effect and confirms itself (R463, R464, R466 to R469): at the instant STG moves to PEND and the kind's switch begins, rings that run
cycles switch at their next one, CORE_OK lets MC0 follow, a confirm within the window clears PEND and TRIES, and without one, or without CORE_OK, the chip
reverts. The model's own: which STATE shows (log entry 146), and that the other rings and the sync link switch at once (log entry 149). -/
def Obligations.UpdateActivationAndSafetyNet : Prop :=
  ∀ (s : State) (w : Cmd) (k : Nat) (r : Fin 4) (t now : Time),
    let c := came s now
    let u := written s w
    let b := 1 - c.inUse k
    let e := c.updEntry k
    let due : Prop := c.upd.armed = some (k, t) ∧ c.upd.ready = true ∧ c.upd.phase = 0 ∧ t.toNat ≤ c.t ∧ c.mode ≠ mINTER
    let agreed : Prop := c.flag UPD_CANCFG.EN = false ∨ c.upd.agreed = true
    let pend (d : Chip) : Chip := d.putEntry k (entry (entStg e - (entStg e &&& 2 ^ b)) (2 ^ b) (entRev e) 0)
    let live : Chip := (pend (c.put (UPD_BANKS.INUSE k) b)).updTo fun x => { x with armed := none, ready := false, phase := 4 }
    let next := c.updSwitch k
    let ok : Chip := u.modUpd fun x => { x with waitOk := none, areas := x.areas.set 0 x.areas[1] }
    let keyed : Prop := ByMcHost s w ∧ UPD_CMD.KEY.of w.value = 0x1B8D
    let confirms : Prop := isMc w.agent = true ∧ UPD_CONFIRM.KEY.of w.value = 0xC4F3
    let cleared : Chip := u.forIn u.updPending fun k c => c.putEntry k (entry (entStg (c.updEntry k)) 0 (entRev (c.updEntry k)) 0)
    let confirmed : Chip := (cleared.updTo fun x => { x with
      window := none, loaded := [], stores := x.stores.filter fun e => e.1 == 4 + x.half 2 || e.1 == 6 + x.half 3 }).updFlag 6
    let passed : Prop := ∃ v, c.upd.window = some v ∧ v.toNat ≤ c.t
    let closed : Chip := c.updTo fun x => { x with window := none }
    let p := if (entPend e).testBit 0 then 0 else 1
    let soft : Prop := k = 0 ∨ k ∈ c.upd.loaded
    let revoked (d : Chip) : Chip := (((d.putEntry k (entry (entStg e) 0 (entRev e ||| 2 ^ p) (entTries e))).updFlag 7).fault 1 0x0B 0 0x53 0x5E .sys).updTo
      fun x => { x with window := none }
    let back := revoked (c.put (UPD_BANKS.INUSE k) (1 - p))
    let old : Fin 2 := if back.upd.waitOk.isSome then back.upd.areas[0] else back.upd.areas[0] + 1
    (due → ¬ agreed → Does s (.updActivationInstant now) (c.updCancel.updErr 0x13)) ∧
    (due → agreed → c.upd.live = false → Does s (.updActivationInstant now)
      (((pend c).updTo fun x => { x with armed := none, ready := false, phase := 0 }).updFlag 3)) ∧
    (due → agreed → c.upd.live = true → k = 1 → Does s (.updActivationInstant now)
      ((live.modUpd fun x => { x with waitOk := some live.tb, areas := x.areas.set 1 (live.upd.areas[0] + 1) }).coreRestart 1)) ∧
    (due → agreed → c.upd.live = true → k = 4 → Does s (.updActivationInstant now) (live.modUpd fun x => { x with assets := 3 })) ∧
    (due → agreed → c.upd.live = true → k = 2 ∨ k = 3 → Does s (.updActivationInstant now) (live.updSwitch k)) ∧
    (c.upd.armed = none ∨ c.upd.ready = false ∨ c.upd.phase ≠ 0 ∨ c.mode = mINTER → Does s (.updActivationInstant now) c) ∧
    ((∃ q, c.ringCycles q = true) → (∀ q : Fin 4, next.upd.rings.getLsbD q = c.ringCycles q) ∧ next.upd.turning = k ∧ next.regs = c.regs) ∧
    ((∀ q, c.ringCycles q = false) → c.upd.phase = 4 → next.upd.rings = 0 ∧ next.upd.phase = 0 ∧ next.upd.window.isSome = true) ∧
    (c.upd.rings.getLsbD r = true → (c.updRing r).upd.rings.getLsbD r = false) ∧
    (keyed → w.agent = 0x02 → u.upd.waitOk.isSome = true → Does s (.updCoreOk w) (((ok.coreRestart 0).updFlag 5).updDone)) ∧
    (keyed → w.agent ≠ 0x02 ∨ u.upd.waitOk = none → Does s (.updCoreOk w) u) ∧
    (c.upd.phase = 4 → Canonical s → c.updDone.upd.phase = 0 ∧
      c.updDone.upd.window = some (c.tb + BitVec.ofNat 64 (1000000000 * c.get UPD_CWIN.WIN)) ∧ c.updDone.bitOf UPD_STAT.FLAGS 3 = true ∧
      (c.upd.armed = none → c.upd.job = none → c.updDone.get UPD_STATE.STATE = 5)) ∧
    (c.upd.waitOk = some t → t.toNat + 10000000000 ≤ c.t → Does s (.updCoreokTimeout now) (c.updRevert 1)) ∧
    (c.upd.waitOk = none ∨ (c.upd.waitOk = some t ∧ c.t < t.toNat + 10000000000) → Does s (.updCoreokTimeout now) c) ∧
    (confirms → u.upd.window.isSome = true → u.updPending ≠ [] → Does s (.updConfirm w) confirmed) ∧
    (confirms → u.upd.window = none ∨ u.updPending = [] → Does s (.updConfirm w) u) ∧
    (isMc w.agent = true → UPD_CONFIRM.KEY.of w.value ≠ 0xC4F3 → Does s (.updConfirm w) u) ∧
    (isHost w.agent = true → HostReaches s → Does s (.updConfirm w) u) ∧
    (passed → c.updPending = [] → Does s (.updConfirmWindowEnd now) (closed.modUpd fun x => { x with loaded := [] })) ∧
    (passed → c.updPending = [k] → soft → Does s (.updConfirmWindowEnd now) (closed.updRevert k)) ∧
    (passed → c.updPending = [k] → ¬ soft → Does s (.updConfirmWindowEnd now) ((closed.updRevert k).modUpd fun x => { x with loaded := [] })) ∧
    (¬ passed → Does s (.updConfirmWindowEnd now) c) ∧
    (soft → c.updRevert k = (revoked c).pinReset SYS_RSTCAUSE.SW) ∧
    (¬ soft → k = 1 → c.updRevert k = ((back.updTo fun x => { x with waitOk := none, areas := Vector.replicate 2 old, phase := 0 }).coreRestart 1).coreRestart 0) ∧
    (¬ soft → k = 2 ∨ k = 3 → c.updRevert k = (back.updTo fun x => { x with phase := 6 }).updSwitch k) ∧
    (¬ soft → k = 4 → c.updRevert k = (((back.updTo fun x => { x with phase := 6 }).modUpd fun x => { x with
      assets := 5, tables := spGet [] x.stores 8 }).modMim fun m => { m with portion := 0 }).mimAsk)

/-- Frames of the sync link on the standby (R246, R249 to R256): a frame is taken when it is valid and the next in order, and its ACK empties the replay
buffer; a TOKEN waits for its INPART, entries enter the partner ledger buffer, a RETRACT discards them, ENDMK, HASH, STAGE and STATUS are kept for their
scan, the offset in a STATUS is steered away, and what the standby cannot follow loses lockstep with its LLRSN. The model's own: TB follows by ticks (log
entry 117), a mirrored abandonment raises no fault (log entry 66), DISARM is forwarded (log entry 113), and which TOKENs wait for the exchange of an all-task
package (log entry 114). -/
def Obligations.SyncLinkFramesOnTheStandby : Prop :=
  ∀ (s : State) (h : SyncHdr) (t : Fin 32) (k : Token) (l : Ledger) (bits words : List (Nat × Word)) (index how code : Nat) (num crc ofs value : Word)
    (hash build pstg : Long) (rings : List RingReport) (r : HbRecord) (now : Time),
    let c := came s now
    let a := c.acked h.ack
    let d : Chip := a.modHsb fun g => { g with rseq := h.fseq + 1 }
    let taken : Prop := h.ok = true ∧ c.pairMember = true ∧ h.fseq = a.hsb.rseq
    let any : List Instr := [.hbFrameReceived h r now, .tokenReceived h t k now, .inpartReceived h t bits words now, .ledgerReceived h l now,
      .retractReceived h t index now, .endmkReceived h t num how code now, .hashReceived h t num hash now, .stageReceived h t index value num now,
      .statusReceived h rings build pstg crc ofs now]
    let follows : Prop := taken ∧ d.mode = mFOLLOW
    let next := (d.task t).token.isSome
    let entered : Bool := (d.task l.task).token.isSome
    let marked : Chip := d.modTask t fun q => { q with endmk := q.endmk ++ [(num, how, code)],
                                                       partnerHash := if how = 0 then q.partnerHash else (num, 0) :: q.partnerHash.take 3 }
    let ended : Prop := d.kind t = kCYC ∧ d.phase t = 3
    let mine : Prop := marked.scanNum t = num ∧ ((marked.task t).live = true ∨ ended)
    let queued : Chip := d.modHsb fun g => { g with staged := g.staged ++ [(t, index, value, num)] }
    let known : Prop := d.migrating t = false ∧ (d.olc.hold = false ∨ k.ts.toNat ≤ d.olc.holdAt.toNat)
    let report : Chip := d.modHsb fun g => { g with report := some (d.tb, rings), pbuild := build, pstgCrc := crc }
    (h.ok = false ∨ c.pairMember = false → ∀ i ∈ any, Does s i c) ∧
    (h.ok = true → c.pairMember = true → h.fseq ≠ a.hsb.rseq → ∀ i ∈ any, Does s i a) ∧
    (c.hsb.handover = none → c.hsb.outq = [] →
      a = c.modHsb fun g => { g with replay := g.replay.filter fun e => 2 ^ 31 ≤ (h.ack - e.fseq).toNat }) ∧
    (taken → d.mode ≠ mFOLLOW → ∀ i ∈ any, i ≠ .hbFrameReceived h r now → i ≠ .statusReceived h rings build pstg crc ofs now → Does s i d) ∧
    (taken → Does s (.hbFrameReceived h r now) (d.hbTake false r)) ∧
    (follows → d.kind t ≠ 0 → next = true → Does s (.tokenReceived h t k now) (d.lockstepLost 3)) ∧
    (follows → d.kind t = 0 → Does s (.tokenReceived h t k now) d) ∧
    (follows → d.kind t = kCYC → next = false → (d.task t).inpart = none → d.hsb.staged = [] →
      Does s (.tokenReceived h t k now) ((d.modTask t fun q => { q with token := some k }).endMirror t)) ∧
    (follows → next = false → d.hsb.staged = [] →
      Does s (.inpartReceived h t bits words now) ((d.modTask t fun q => { q with inpart := some (bits, words) }).endMirror t)) ∧
    (follows → d.kind t = kCYC → (d.task t).token = some k → (d.task t).live = false → d.phase t = 0 → d.flushing = false → d.hsb.staged = [] → known →
      Canonical s → Powered s →
      Leads (.inpartReceived h t bits words now) s fun c' =>
        (c'.task t).token = none ∧ (c'.task t).inpart = none ∧ (c'.task t).ts = k.ts ∧
        (c'.task t).frozenB = bits ∧ (c'.task t).frozenW = words ∧ c'.phase t = 1 ∧ c'.rd (SCN_TSCAN.reg t) = k.num) ∧
    (follows → l.index ≠ 0 → Does s (.ledgerReceived h l now) (d.modHsb fun g => { g with
        ledger := (g.ledger.filter fun e => !(e.1 == entered && e.2.task == l.task && e.2.index == l.index)) ++ [(entered, l)] })) ∧
    (follows → next = true → Does s (.retractReceived h t index now) (d.modHsb fun g => { g with
        ledger := g.ledger.filter fun e => !(e.1 == true && e.2.task == t && index ≤ e.2.index) })) ∧
    (follows → next = false → (((d.task t).live = false ∧ ¬ ended) ∨ (d.task t).ledgPos ≤ index) → Does s (.retractReceived h t index now)
      ((d.modHsb fun g => { g with ledger := g.ledger.filter fun e => !(e.1 == false && e.2.task == t && index ≤ e.2.index) }).modTask t fun q =>
        { q with ledgUsed := min q.ledgUsed (max 1 index) })) ∧
    (follows → next = false → (d.task t).live = true ∨ ended → index < (d.task t).ledgPos → Does s (.retractReceived h t index now)
      ((d.modHsb fun g => { g with ledger := g.ledger.filter fun e => !(e.1 == false && e.2.task == t && index ≤ e.2.index) }).followAgain t index)) ∧
    (follows → how = 0 → (d.task t).endmk = [] → (d.task t).ends = [] → Does s (.endmkReceived h t num how code now) marked) ∧
    (follows → how ≠ 0 → (d.task t).live = false → ¬ ended → (d.task t).ends = [] → Does s (.endmkReceived h t num how code now) marked) ∧
    (follows → how ≠ 0 → mine → (d.task t).endmk = [] → (marked.task t).paired = true → Does s (.endmkReceived h t num how code now)
      ((((marked.abandonBits t (abnOf how code) 0).dropActivation t (abnOf how code) false).dispatch (marked.leOf t)).endCheck t)) ∧
    (follows → how ≠ 0 → mine → (d.task t).endmk = [] → (marked.task t).paired = false → deterministic how code = false →
      Does s (.endmkReceived h t num how code now) (marked.lockstepLost 7)) ∧
    (follows → (d.task t).ends = [(num, how, code)] → how = 0 → (d.task t).endmk = [] → Does s (.endmkReceived h t num how code now)
      (marked.modTask t fun q => { q with ends := [] })) ∧
    (follows → Does s (.hashReceived h t num hash now) (d.modTask t fun q => { q with partnerHash := (num, hash) :: q.partnerHash.take 3 })) ∧
    (follows → index = OLC_CMD.reg → value ≠ 0x5A3C0002 → d.get OLC_STATE.STATE ≠ 2 →
      Does s (.stageReceived h t index value num now) (d.lockstepLost 8)) ∧
    (follows → index = OLC_CMD.reg → value ≠ 0x5A3C0002 → d.get OLC_STATE.STATE = 2 →
      Does s (.stageReceived h t index value num now) (d.arm num)) ∧
    (follows → index = OLC_CMD.reg → value = 0x5A3C0002 → d.get OLC_STATE.STATE = 3 → Does s (.stageReceived h t index value num now)
      ((d.put OLC_STATE.STATE 2).modOlc fun o => { o with hold := false, fwd := none })) ∧
    (follows → index = OLC_CMD.reg → value = 0x5A3C0002 → d.get OLC_STATE.STATE ≠ 3 → Does s (.stageReceived h t index value num now) (d.lockstepLost 8)) ∧
    (follows → index = SHD_TMODE.reg t → Does s (.stageReceived h t index value num now) (queued.stageDue t)) ∧
    (follows → index ≠ OLC_CMD.reg → index ≠ OLC_FCMD.reg → index ≠ SHD_TMODE.reg t → index ≠ UPD_CMD.reg →
      Does s (.stageReceived h t index value num now) queued) ∧
    (taken → let x := (report.wr OLC_PSTGL.reg (pstg.setWidth 32)).wr OLC_PSTGH.reg (pstg.extractLsb' 32 32)
      Does s (.statusReceived h rings build pstg crc ofs now)
        (if x.mode = mFOLLOW then (x.wr HSB_TBOFS.reg ofs).modHsb fun g => { g with steer := -ofs.toInt } else x.wr HSB_TBOFS.reg 0))

/-- Resync and HANDOVER (R271, R274 to R277): a unit in STOP requests a resync, the active unit accepts it or refuses it with FAILRSN 7, later passes send the
dirty pages and eight without progress end it, the join locks the pair, the target takes pages and the state block and enters FOLLOW; a failure has its
FAILRSN; HANDOVER needs RUN and LOCKED, and its silence ends with a request. The model's own: when a requester's engines are judged (log entries 61 and 96),
and that a pass reads all its pages at its start (log entry 16). -/
def Obligations.ResyncAndHandover : Prop :=
  ∀ (s : State) (w : Cmd) (h : SyncHdr) (rs : Resync) (page n : Nat) (data : List Byte) (t : Fin 32) (v now : Time),
    let c := came s now
    let u := written s w
    let keyed : Prop := ByMcHost s w ∧ HSB_CMD.KEY.of w.value = 0x9C6E
    let cmds : List (Cmd → Instr) := [.hsbResync, .hsbRsabort, .hsbHandover, .hsbLgcstart, .hsbLgcabort, .hsbArbclr]
    let d : Chip := (c.acked h.ack).modHsb fun g => { g with rseq := h.fseq + 1 }
    let taken : Prop := h.ok = true ∧ c.pairMember = true ∧ h.fseq = (c.acked h.ack).hsb.rseq
    let busy : Prop := u.hsb.resync.isSome = true ∨ u.hsb.target.isSome = true
    let paged : Bool := c.hsb.outq.any fun m => match m with
      | .rspage .. => true
      | _ => false
    let l := c.dirtyPages
    let stalls := if l.length < rs.prev then 0 else rs.stalls + 1
    let sent : Chip := c.sendPages l
    let joined : Chip := (sent.send (.rsctl (.join sent.stateBlock))).send (.rsctl .done)
    let us := (c.t - rs.began.toNat) / 1000
    let done : Chip := ((((((joined.set1 HSB_STATE.LOCKED).set1 HSB_STAT.RSDONE).clr HSB_STATE.RSSRC).put HSB_RSSTAT.PHASE 5).wr HSB_RSTIME.reg
      (BitVec.ofNat 32 us)).modHsb fun g => { g with resync := none, lockAt := joined.tb }).post 0x008 (BitVec.ofNat 32 us)
    (ByMcHost s w → HSB_CMD.KEY.of w.value ≠ 0x9C6E → ∀ i ∈ cmds, Does s (i w) u) ∧
    (keyed → u.mode ≠ mSTOP ∨ u.pairMember = false → Does s (.hsbResync w) (u.put HSB_STATE.CMDERR 2)) ∧
    (keyed → u.mode = mSTOP → u.pairMember = true → u.hsb.target.isSome = true → Does s (.hsbResync w) (u.put HSB_STATE.CMDERR 1)) ∧
    (keyed → u.mode = mSTOP → u.pairMember = true → u.hsb.target = none → Does s (.hsbResync w)
      (((u.modHsb fun g => { g with wantResync := true, reqTmo := u.get HSB_RSCFG.RSTMO }).send (.rsctl (.request u.mappedEngines))).put HSB_STATE.CMDERR 0)) ∧
    (keyed → busy → Does s (.hsbRsabort w) (((u.send (.rsctl (.abort 5))).resyncFail 5).put HSB_STATE.CMDERR 0)) ∧
    (keyed → ¬ busy → Does s (.hsbRsabort w) (u.put HSB_STATE.CMDERR 3)) ∧
    (keyed → u.leading = false → Does s (.hsbHandover w) (u.put HSB_STATE.CMDERR 2)) ∧
    (keyed → u.leading = true → u.hsb.handover = none → u.flag SYS_MODE.TRANS = false → Does s (.hsbHandover w)
      (((u.send (.rsctl .handover)).modHsb fun g => { g with handover := some u.tb, handoverAck := false }).put HSB_STATE.CMDERR 0)) ∧
    (c.hsb.handoverAck = false → c.hsb.handover = some v → v.toNat + 100000 ≤ c.t →
      Does s (.handoverAckTimeout now) ((c.put HSB_STATE.CMDERR 3).modHsb fun g => { g with handover := none })) ∧
    (c.hsb.handoverAck = true ∨ c.hsb.handover = none → Does s (.handoverAckTimeout now) c) ∧
    (c.hsb.quiet = some v → v.toNat + 1000000 ≤ c.t →
      Does s (.handoverSilenceEnd now) (c.modHsb fun g => { g with quiet := none, wantResync := true, reqTmo := c.get HSB_RSCFG.RSTMO })) ∧
    (c.hsb.quiet = none ∨ (c.hsb.quiet = some v ∧ c.t < v.toNat + 1000000) → Does s (.handoverSilenceEnd now) c) ∧
    (c.hsb.resync = some rs → rs.joining = none → paged = false → stalls < 8 → Does s (.resyncPassEnd now)
      ((((c.put HSB_RSSTAT.PHASE 3).incSat HSB_RSSTAT.PASS).modHsb fun g =>
        { g with resync := some { rs with pages := l, prev := l.length, stalls := stalls } }).sendPages l)) ∧
    (c.hsb.resync = some rs → rs.joining.isSome = true ∨ paged = true → Does s (.resyncPassEnd now) c) ∧
    (c.hsb.resync = some rs → rs.joining = none → paged = false → 8 ≤ stalls → Does s (.resyncPassEnd now) ((c.send (.rsctl (.abort 6))).resyncFail 6)) ∧
    (c.hsb.resync = none → Does s (.resyncPassEnd now) c ∧ Does s (.resyncJoinComplete now) c) ∧
    (∀ p ∈ l, p ∉ sent.hsb.dirty) ∧
    (c.hsb.resync = some rs → rs.joining = some t → done.phase t ≠ 5 → Does s (.resyncJoinComplete now) done) ∧
    (c.hsb.resync = some rs → rs.joining = some t → done.phase t = 5 → Does s (.resyncJoinComplete now) (done.housekeepEnd t)) ∧
    (c.hsb.resync = some rs → rs.began.toNat + 1000000 * rs.tmo ≤ c.t → Does s (.resyncTimeout now) ((c.send (.rsctl (.abort 1))).resyncFail 1)) ∧
    (c.hsb.resync = none → c.hsb.target = none → Does s (.resyncTimeout now) c) ∧
    (u.hsb.resync.isSome = true → Canonical s →
      (u.resyncFail n).get HSB_RSSTAT.PHASE = 6 ∧ (u.resyncFail n).get HSB_RSSTAT.FAILRSN = n % 16 ∧ (u.resyncFail n).flag HSB_STAT.RSFAIL = true ∧
      (u.resyncFail n).hsb.resync = none ∧ (u.resyncFail n).hsb.target = none ∧ (u.resyncFail n).flag HSB_STATE.RSSRC = false) ∧
    (taken → d.hsb.target.isSome = true → inDomain (4096 * page) = true → Does s (.rspageReceived h page data now)
      (d.stBytes (4096 * page) (data.take 4096))) ∧
    (taken → d.hsb.target = none ∨ inDomain (4096 * page) = false → Does s (.rspageReceived h page data now) d) ∧
    (taken → d.mode ≠ mSTOP ∨ d.flag SYS_MODE.TRANS = true ∨ d.hsb.target.isSome = true → Does s (.rsctlReceived h .accept now) d) ∧
    (taken → d.mode = mSTOP → d.flag SYS_MODE.TRANS = false → d.hsb.target = none → Does s (.rsctlReceived h .accept now)
      ((((((d.put HSB_STATE.ROLE 4).put HSB_RSSTAT.PHASE 1).put HSB_RSSTAT.FAILRSN 0).put HSB_RSSTAT.PASS 0).modHsb fun g =>
        { g with target := some (d.tb, g.reqTmo), wantResync := false }).canPolicy)) ∧
    (taken → Does s (.rsctlReceived h (.refuse n) now)
      ((((d.put HSB_RSSTAT.PHASE 6).put HSB_RSSTAT.FAILRSN n).set1 HSB_STAT.RSFAIL).modHsb fun g => { g with wantResync := false })) ∧
    (taken → ∀ b, d.hsb.target.isSome = true → Does s (.rsctlReceived h (.join b) now) ((d.put HSB_RSSTAT.PHASE 4).takeBlock b)) ∧
    (taken → ∀ b, d.hsb.target = none → Does s (.rsctlReceived h (.join b) now) d ∧ Does s (.rsctlReceived h .done now) d ∧
      Does s (.rsctlReceived h .passStart now) d) ∧
    (taken → d.mode = mSTOP → d.flag SYS_MODE.TRANS = false → d.hsb.target.isSome = true → d.get HSB_RSSTAT.PHASE = 4 → Powered s → Canonical s →
      Leads (.rsctlReceived h .done now) s fun c' => c' = d.enterFollow ∧ c'.mode = mFOLLOW ∧ c'.flag HSB_STATE.LOCKED = true ∧
        c'.get HSB_STATE.ROLE = 2 ∧ c'.get HSB_RSSTAT.PHASE = 5 ∧ c'.hsb.target = none ∧ c'.mem = d.mem) ∧
    (taken → d.mode ≠ mSTOP ∨ d.flag SYS_MODE.TRANS = true → Does s (.rsctlReceived h .done now) d) ∧
    (taken → Does s (.rsctlReceived h (.abort n) now) (d.resyncFail n)) ∧
    (taken → d.mode = mFOLLOW → Does s (.rsctlReceived h .handover now) (d.modHsb fun g => { g with announced := true })) ∧
    (taken → ∀ m, let q : Chip := d.modHsb fun g => { g with pmap := some m }
      (d.mode ≠ mRUN → Does s (.rsctlReceived h (.request m) now) q) ∧
      (d.mode = mRUN → q.hsb.resync = none → q.flag HSB_STAT.PAIRIDERR = false → q.flag HSB_STATE.LOCKED = false → q.get HSB_STATE.ROLE = 1 →
        (∃ x ∈ q.configured, m.getLsbD (q.leOf x) = false) → Does s (.rsctlReceived h (.request m) now) (q.send (.rsctl (.refuse 7)))) ∧
      (d.mode = mRUN → q.hsb.resync = none → q.flag HSB_STAT.PAIRIDERR = false → q.flag HSB_STATE.LOCKED = false → q.get HSB_STATE.ROLE = 1 →
        (∀ x ∈ q.configured, m.getLsbD (q.leOf x) = true) → Powered s → Canonical s → Leads (.rsctlReceived h (.request m) now) s fun c' =>
          c'.get HSB_RSSTAT.PHASE = 2 ∧ c'.get HSB_RSSTAT.PASS = 1 ∧ c'.flag HSB_STATE.RSSRC = true ∧ c'.hsb.resync.isSome = true ∧
          c'.hsb.dirty = [] ∧ c'.mem = d.mem))

/-- Heartbeats and the link (R244, R245, R247, R248, R257, R259, R260, R449): records go out at their instants, a record whose CRC or SEQ fails is ignored,
four valid ones restore a path, 305 µs (or 30.5 ms) without one lose it, a frame without acknowledgement is sent again, and after three replays, or without
lanes, the link is down; a lost lane retrains under admission. The model's own: the bytes of a frame in the replay buffer (log entry 95), what the link's end
drops (log entry 15), that a grant ends arbitration (log entry 62), and when a request told by a record is judged (log entry 96). -/
def Obligations.HeartbeatsAndTheLink : Prop :=
  ∀ (s : State) (r : HbRecord) (lane : Fin 2) (path2 : Bool) (v now : Time) (x : SyncSent) (rest : List SyncSent),
    let c := came s now
    let slow : Bool := c.mode == mINTER && c.hsb.hbOut.any (·.mode == mINTER)
    let sends : Prop := c.pairMember = true ∧ c.flag HSB_STATE.SIL = false ∧ c.flushing = false ∧ c.hsb.quiet = none ∧
      now.toNat % (if slow then 10000000 else 100000) = 0
    let rec1 : HbRecord := {
      pid := c.pins.pairId, claim := c.get HSB_STATE.CLM == 2, locked := c.flag HSB_STATE.LOCKED, fenced := c.pins.fence,
      lineFlt := c.flag HSB_ILK.INFLT || c.flag HSB_ILK.OUTFLT, rsReq := c.hsb.wantResync, mode := c.mode,
      role := c.get HSB_STATE.ROLE, seq := c.hsb.hbSeq + 1, tbl := now.setWidth 32, crcOk := true }
    let valid : Prop := r.crcOk = true ∧ c.pairMember = true ∧ (∀ q, c.hsb.p2Seq = some q → 1 ≤ (r.seq - q).toNat ∧ (r.seq - q).toNat < 2 ^ 15)
    let shown (d : Chip) : Chip := ((d.put HSB_LINK.HBSEQ r.seq.toNat).put HSB_STATE.PMODE r.mode).put HSB_STATE.PROLE r.role
    let run := if c.hsb.p2Seq = some (r.seq - 1) then c.hsb.p2Run + 1 else 1
    let came2 : Chip := shown (c.modHsb fun g => { g with p2At := c.tb, p2Seq := some r.seq, p2Run := run, partner := some r })
    let broken : Chip := c.modHsb fun g => { g with p2Run := 0 }
    let settle (d : Chip) : Chip := if d.flag HSB_LINK.P1OK && d.flag HSB_LINK.P2OK && d.get HSB_STATE.CLM = 0 then
      d.modHsb fun g => { g with arb := none, granted := false, arbReq := false } else d
    let fresh : Prop := c.hsb.lockAt.toNat + (c.tb.setWidth 32 - r.tbl).toInt ≤ c.t
    let twin : Chip := (came2.set1 HSB_STAT.PAIRIDERR).fault 1 0x04 0 0 0x48
    let plain : Prop := r.pid ≠ c.pins.pairId ∧ c.mode ≠ mRUN ∧ c.mode ≠ mFOLLOW ∧ r.rsReq = false
    let lf := if lane = 0 then HSB_LINK.LANE0 else HSB_LINK.LANE1
    let other := if lane = 0 then HSB_LINK.LANE1 else HSB_LINK.LANE0
    let struck : Chip := ((c.clr lf).set1 HSB_STAT.LANEDN).fault 1 0x04 0 0 0x48
    let fell : Chip := struck.turnAsk 5 .link
    let asked : Bool := c.turn.any fun a => a.cls == 5 && a.who == .link && !a.admitted
    let ok := if path2 then HSB_LINK.P2OK else HSB_LINK.P1OK
    let heard := if path2 then c.hsb.p2At else c.hsb.p1At
    let limit := if c.mode = mINTER ∨ c.hsb.partner.any (·.mode == mINTER) = true then 30500000 else 305000
    let lost : Chip := (((c.clr ok).set1 HSB_STAT.PATHLOST).modHsb fun g =>
      if path2 then { g with p2Run := 0, p2Seq := none } else { g with p1Run := 0, p1Seq := none, p1Lost := some c.tb }).pairFault 0x30 (if path2 then 2 else 1)
    (sends → let d : Chip := (c.modHsb fun g => { g with hbSeq := g.hbSeq + 1, hbOut := some rec1 }).send (.hb rec1)
      Does s (.heartbeatSend now) (if c.hsb.wantResync && d.mode == mSTOP then d.send (.rsctl (.request d.mappedEngines)) else d)) ∧
    (¬ sends → Does s (.heartbeatSend now) c) ∧
    (now.toNat % 100000 = 0 → c.mode ≠ mINTER → Powered s → Leads (.statusFrameSend now) s fun c' =>
      (c.pairMember = true → c.flag HSB_LINK.LANE0 = true → c.hsb.outq = [] → (c.hsb.replay.map fun e => frameSize e.msg).sum + 96 ≤ 65536 →
        ∃ (g : List RingReport) (b p : Long) (k : Word), c'.hsb.replay = c.hsb.replay ++ [⟨c.hsb.fseq, 0, c.tb, .status c.tb g b p k⟩] ∧
        c'.hsb.fseq = c.hsb.fseq + 1 ∧ g.length = 4 ∧ b = c.rd OLC_RUNIDH.reg ++ c.rd OLC_RUNIDL.reg) ∧
      (c.pairMember = false → c' = c)) ∧
    (now.toNat % 100000 ≠ 0 ∨ c.mode = mINTER → Does s (.statusFrameSend now) c) ∧
    (c.pairMember = false → Does s (.hbPath2Record r now) c) ∧
    (c.pairMember = true → r.crcOk = false → Does s (.hbPath2Record r now) broken) ∧
    (c.pairMember = true → ∀ q, c.hsb.p2Seq = some q → (r.seq = q ∨ 2 ^ 15 ≤ (r.seq - q).toNat) → Does s (.hbPath2Record r now) broken) ∧
    (valid → plain → came2.flag HSB_LINK.P2OK = true ∨ run < 4 → Does s (.hbPath2Record r now) (settle came2)) ∧
    (valid → plain → came2.flag HSB_LINK.P2OK = false → 4 ≤ run →
      Does s (.hbPath2Record r now) (settle ((came2.set1 HSB_LINK.P2OK).modHsb fun g => { g with arbBarred := false }))) ∧
    (valid → r.pid ≠ c.pins.pairId → r.rsReq = false → came2.flag HSB_LINK.P2OK = true → (settle came2).leading = true → r.mode ≠ mFOLLOW → fresh →
      Powered s → Canonical s → Leads (.hbPath2Record r now) s fun c' => c' = (settle came2).activeLost none ∧ c'.flag HSB_STATE.LOCKED = false) ∧
    (valid → r.pid = c.pins.pairId → c.flag HSB_STAT.PAIRIDERR = false → came2.flag HSB_LINK.P2OK = true → r.rsReq = false →
      (settle twin).mode ≠ mRUN → (settle twin).mode ≠ mFOLLOW → Does s (.hbPath2Record r now) (settle twin)) ∧
    (c.hsb.replay = x :: rest → x.sentAt.toNat + 5000 ≤ c.t → x.tries < 3 →
      Does s (.replayTimeout now) (c.modHsb fun g => { g with replay := (x :: rest).map fun e => { e with tries := e.tries + 1, sentAt := c.tb } })) ∧
    (c.hsb.replay = x :: rest → x.sentAt.toNat + 5000 ≤ c.t → 3 ≤ x.tries → Does s (.replayTimeout now) c.linkDown) ∧
    (c.hsb.replay = [] ∨ (c.hsb.replay = x :: rest ∧ c.t < x.sentAt.toNat + 5000) → Does s (.replayTimeout now) c) ∧
    (c.flag lf = false → Does s (.laneAlignmentLost lane now) c) ∧
    (c.flag lf = true → fell.flag other = true → struck.flag HSB_STATE.LGC = false → Does s (.laneAlignmentLost lane now) fell) ∧
    (c.flag lf = true → fell.flag other = false → fell.flag lf = false → struck.flag HSB_STATE.LGC = false →
      Does s (.laneAlignmentLost lane now) fell.linkDown) ∧
    (asked = true ∨ (lane = 1 ∧ c.mode = mINTER) → Does s (.syncLaneAligned lane now) c) ∧
    (asked = false → lane = 0 ∨ c.mode ≠ mINTER → Does s (.syncLaneAligned lane now) ((c.turnEnd 5 .link).set1 lf)) ∧
    (c.flag ok = false ∨ c.t < heard.toNat + limit → Does s (.heartbeatPathLost path2 now) c) ∧
    (c.flag ok = true → heard.toNat + limit ≤ c.t → lost.pathsLost = false → Does s (.heartbeatPathLost path2 now) lost) ∧
    (c.flag ok = true → heard.toNat + limit ≤ c.t → lost.pathsLost = true →
      Does s (.heartbeatPathLost path2 now) (((lost.set1 HSB_STAT.BOTHLOST).resyncFail 2).arbCheck)) ∧
    (c.hsb.p1Lost = none → Does s (.path1LossConfirm now) c) ∧
    (c.hsb.p1Lost = some v → v.toNat + 50000 ≤ c.t → c.flag HSB_LINK.P2OK = true → c.flag HSB_LINK.P1OK = false →
      Does s (.path1LossConfirm now) ((((c.modHsb fun g => { g with p1Lost := none }).lockstepLost 5).activeLost (some 5)))) ∧
    (c.hsb.p1Lost = some v → (c.t < v.toNat + 50000 ∨ c.flag HSB_LINK.P2OK = false ∨ c.flag HSB_LINK.P1OK = true) → Does s (.path1LossConfirm now) c)

/-- Interlock, claims and arbitration (R261 to R263, R265 to R267, R270): the lines show and fault, a claim begins only in the cases of R262 and drives the
lines, is confirmed or withdrawn at its sample, and arbitration ends in a grant or with its RESULT. The model's own: the spans of a line fault (log
entry 125), that the read-back of
ILK_OUT is known by its events (log entry 131), that a grant ends arbitration (log entry 62), and that a confirmed takeover wins over a STOP (log entry 132). -/
def Obligations.InterlockClaimsAndArbitration : Prop :=
  ∀ (s : State) (lineT lineC out grant pid : Bool) (nonce : BitVec 16) (k : ClaimKind) (md : Nat) (v now : Time),
    let c := came s now
    let lgc := c.flag HSB_STATE.LGC
    let rel : Bool := !lineT && (lineC || lgc)
    let ass : Bool := lineT && (!lineC || lgc)
    let put : Chip := (c.putB HSB_ILK.INT lineT).putB HSB_ILK.INC lineC
    let lines : Chip := put.modHsb fun g => { g with lineAt := if put.inBad == c.inBad then g.lineAt else c.tb }
    let f := if out then HSB_ILK.OUTFLT else HSB_ILK.INFLT
    let faulty : Chip := (c.set1 f).modHsb fun g =>
      { g with outAt := if out then c.tb else g.outAt, relSince := if out then g.relSince else none }
    let equal : Prop := lgc = false ∧ c.flag HSB_ILK.INT = c.flag HSB_ILK.INC
    let bad : Prop := out = true ∨ (equal ∧ c.hsb.lineAt.toNat + 2000 ≤ c.t)
    let good : Prop := if out then c.hsb.outAt.toNat + 1000000 ≤ c.t else ¬ equal ∧ c.hsb.lineAt.toNat + 1000000 ≤ c.t
    let wants (d : Chip) : Chip := d.modHsb fun g => { g with wantResync := true, reqTmo := d.get HSB_RSCFG.RSTMO }
    let driven (k : ClaimKind) : Chip := (((c.put HSB_STATE.CLM 1).set1 HSB_ILK.OUTT).clr HSB_ILK.OUTC).modHsb fun g => { g with claim := some (k, c.tb) }
    let free : Prop := c.pairMember = true ∧ c.get HSB_STATE.CLM = 0 ∧ c.pins.fence = false ∧ c.flushing = false
    let clean : Prop := free ∧ c.hsb.granted = false ∧ c.claimClean = true
    let unit1 := c.pins.pairId
    let ended (n : Nat) : Chip := ((c.put HSB_ARBSTAT.RESULT n).set1 HSB_STAT.ARBDONE).modHsb fun g =>
      { g with arb := none, arbReq := false, arbBarred := true }
    let granted : Chip := ((c.put HSB_ARBSTAT.RESULT 2).set1 HSB_STAT.ARBDONE).modHsb fun g => { g with arb := none, granted := true }
    let mine : Prop := c.hsb.arb = some (2, v) ∧ pid = unit1 ∧ nonce.toNat = c.get HSB_ARBSTAT.NONCE
    Does s (.ilkInChange lineT lineC now) lines.readIlk.arbCheck ∧
    (Canonical s → Powered s → c.mode ≠ mFOLLOW → Leads (.ilkInChange lineT lineC now) s fun c' =>
      c'.flag HSB_ILK.INT = lineT ∧ c'.flag HSB_ILK.INC = lineC ∧ c'.flag HSB_ILK.INASS = ass ∧ c'.flag HSB_ILK.INRELD = rel ∧
      c'.pins.partnerClaims = ass ∧ c'.hsb.relSince = (if rel then some (c.hsb.relSince.getD c.tb) else none) ∧
      c'.hsb.lineAt = (if (!lgc && lineT == lineC) = (!lgc && c.flag HSB_ILK.INT == c.flag HSB_ILK.INC) then c.hsb.lineAt else c.tb) ∧
      c'.mem = c.mem ∧ c'.mode = c.mode) ∧
    (c.mode ≠ mFOLLOW → c.arbCheck = c) ∧
    (c.mode = mFOLLOW → c.pathsLost = true → (c.flag HSB_ILK.INASS = true ∨ c.flag HSB_ILK.INFLT = true) → c.hsb.arb = none →
      c.hsb.arbBarred = false → c.hsb.granted = false → c.get HSB_ARBCFG.MODE = 1 → c.arbCheck =
        ((((c.put HSB_ARBSTAT.RESULT 1).incSat HSB_ARBSTAT.COUNT).incWrap HSB_ARBSTAT.NONCE).modHsb fun g =>
          { g with arb := some (1, c.tb), arbReq := true })) ∧
    (c.pairMember = true → bad → c.flag f = true → Does s (.ilkLineFault out now) faulty) ∧
    (c.pairMember = true → bad → c.flag f = false →
      Does s (.ilkLineFault out now) (((faulty.set1 HSB_STAT.ILKFLT).pairFault 0x31 0).arbCheck)) ∧
    (c.pairMember = false ∨ ¬ bad → Does s (.ilkLineFault out now) c) ∧
    (good → (c.clr f).flag HSB_ILK.INRELD = false → Does s (.ilkFaultClear out now) (c.clr f)) ∧
    (good → (c.clr f).flag HSB_ILK.INRELD = true →
      Does s (.ilkFaultClear out now) ((c.clr f).modHsb fun g => { g with relSince := some (g.relSince.getD c.tb) })) ∧
    (¬ good → Does s (.ilkFaultClear out now) c) ∧
    (free → c.hsb.granted = true → Does s (.claimBegin now) (driven .arbitrated)) ∧
    (clean → c.mode = mFOLLOW → c.pathsLost = true → c.ilkReleased 50000 = true → Does s (.claimBegin now) (driven .takeover)) ∧
    (clean → c.mode = mSTOP → c.sys.runReq.isSome = true → c.startClaimOk = true → Does s (.claimBegin now) (driven .start)) ∧
    (clean → c.mode = mSTOP → c.sys.runReq = none → c.hsb.lgcNext.isSome = true → Does s (.claimBegin now) (driven .legacy)) ∧
    (c.hsb.granted = false → c.claimClean = false → c.mode ≠ mSTOP → Does s (.claimBegin now) c) ∧
    (free → c.hsb.granted = false → c.claimClean = false → c.mode = mSTOP → c.hsb.arb = none → c.sys.runReq.isSome = true →
      Does s (.claimBegin now) (wants c.runRefused)) ∧
    (c.hsb.claim = none → Does s (.claimSample now) c ∧ Does s (.claimUnit0Confirm now) c ∧ Does s (.claimWithdrawTimeout now) c) ∧
    (c.hsb.claim = some (k, v) → v.toNat + 20000 ≤ c.t →
      ((k = .arbitrated ∨ c.flag HSB_ILK.INRELD = true) → Does s (.claimSample now) c.confirm) ∧
      (k ≠ .arbitrated → c.flag HSB_ILK.INRELD = false → unit1 = true → Does s (.claimSample now) c.withdraw) ∧
      (k ≠ .arbitrated → c.flag HSB_ILK.INRELD = false → unit1 = false → Does s (.claimSample now) c)) ∧
    (c.hsb.claim = some (k, v) → unit1 = false → v.toNat + 20000 < c.t → c.ilkReleased 20000 = true → Does s (.claimUnit0Confirm now) c.confirm) ∧
    (c.hsb.claim = some (k, v) → unit1 = false → v.toNat + 120000 ≤ c.t → c.ilkReleased 20000 = false → Does s (.claimWithdrawTimeout now) c.withdraw) ∧
    (c.mode = mSTOP → c.hsb.claim = some (.start, v) → c.sys.runReq = none → Canonical s → c.confirm.get HSB_STATE.CLM = 2 ∧ c.confirm.hsb.claim = none) ∧
    ((c.put HSB_STATE.CLM 2).mode = mFOLLOW →
      c.confirm = ((c.put HSB_STATE.CLM 2).modHsb fun g => { g with claim := none, granted := false, arbReq := false }).takeover) ∧
    (c.hsb.claim = some (k, v) → k ≠ .start → c.releaseClaim.mode ≠ mFOLLOW → c.withdraw = c.releaseClaim) ∧
    (c.hsb.claim = some (.start, v) → c.releaseClaim.pins.pairId = true → c.releaseClaim.sys.runReq.isSome = true →
      c.withdraw = wants c.releaseClaim.runRefused) ∧
    (c.hsb.arb = some (1, v) → Does s (.arbGntNGrant now) granted) ∧
    (c.hsb.arb = some (2, v) → Does s (.arbGntNGrant now) c) ∧
    (c.hsb.arb = none → Does s (.arbGntNGrant now) c ∧ Does s (.arbCanAnswer grant pid nonce now) c ∧ Does s (.arbTimeout now) c) ∧
    (mine → grant = true → Does s (.arbCanAnswer grant pid nonce now) granted) ∧
    (mine → grant = false → c.mode ≠ mRUN → c.mode ≠ mFOLLOW → c.sys.runReq = none → Does s (.arbCanAnswer grant pid nonce now) (ended 3)) ∧
    (pid ≠ unit1 ∨ nonce.toNat ≠ c.get HSB_ARBSTAT.NONCE → Does s (.arbCanAnswer grant pid nonce now) c) ∧
    (c.hsb.arb = some (md, v) → v.toNat + 1000000 * c.get HSB_ARBCFG.ARBTO ≤ c.t → c.mode ≠ mRUN → c.mode ≠ mFOLLOW → c.sys.runReq = none →
      Does s (.arbTimeout now) (ended 4)) ∧
    (c.hsb.arb = some (md, v) → v.toNat + 1000000 * c.get HSB_ARBCFG.ARBTO ≤ c.t → c.mode = mFOLLOW → (ended 4).mode = mFOLLOW →
      ((ended 4).lockstepLost 9).sys.runReq = none →
      Does s (.arbTimeout now) ((ended 4).lockstepLost 9))

/-- The legacy hand-over (R278 to R280): LGCSTART has its conditions and reads
the interlock from its true line alone, each block of the forerunner goes through the legacy map, its hand-over record gives
the next release, and without it in time, or by LGCABORT, the mode fails; ARBCLR allows a further request. That
map entries without a source are carried out at LGCSTART is the model's choice (log entry 17). -/
def Obligations.LegacyHandover : Prop :=
  ∀ (s : State) (w : Cmd) (im : Image) (b : LegacyBlock) (m : MigEntry) (r : LegacyRecord) (ms : Nat) (v now : Time),
    let c := came s now
    let u := written s w
    let keyed : Prop := ByMcHost s w ∧ HSB_CMD.KEY.of w.value = 0x9C6E
    let may : Prop := u.image = some im ∧ u.mode = mSTOP ∧ im.paired = true ∧ u.flag SYS_BOOTSTAT.MIGRATED = true ∧ im.sec.legacy ≠ [] ∧
      u.flag HSB_LINK.LANE0 = true ∧ ∀ m ∈ im.sec.legacy, 1 ≤ m.action ∧ m.action ≤ 8
    let alone : Chip := (((u.set1 HSB_STATE.LGC).put HSB_STATE.ROLE 5).clr HSB_ILK.INFLT).readIlk
    let begun : Chip := alone.modHsb fun g => { g with legacy := some (alone.tb, alone.get HSB_RSCFG.RSTMO), lgcNext := none }
    let failed (c : Chip) : Chip := (((c.set1 HSB_STAT.LGCFAIL).clr HSB_STATE.LGC).modHsb fun g => { g with legacy := none, lgcNext := none }).readIlk
    (keyed → u.image = none ∨ u.mode ≠ mSTOP ∨ u.flag SYS_BOOTSTAT.MIGRATED = false ∨ u.flag HSB_LINK.LANE0 = false →
      Does s (.hsbLgcstart w) (u.put HSB_STATE.CMDERR 2)) ∧
    (keyed → u.image = some im → im.paired = false ∨ im.sec.legacy = [] → Does s (.hsbLgcstart w) (u.put HSB_STATE.CMDERR 2)) ∧
    (keyed → may → u.flag HSB_STATE.LGC = true → Does s (.hsbLgcstart w) (u.put HSB_STATE.CMDERR 1)) ∧
    (keyed → may → u.flag HSB_STATE.LGC = false → (∀ m ∈ im.sec.legacy, m.action = 1 ∨ m.action = 2 ∨ m.action = 3 ∨ m.action = 6) →
      Does s (.hsbLgcstart w) (begun.put HSB_STATE.CMDERR 0)) ∧
    (keyed → may → u.flag HSB_STATE.LGC = false → im.sec.legacy = [m] → m.action = 4 →
      Does s (.hsbLgcstart w) ((begun.migrate1 im.sec.legacyInit m).put HSB_STATE.CMDERR 0)) ∧
    (keyed → u.flag HSB_STATE.LGC = true → (failed u).get HSB_STATE.ROLE = 5 →
      Does s (.hsbLgcabort w) (((failed u).put HSB_STATE.ROLE 3).put HSB_STATE.CMDERR 0)) ∧
    (keyed → u.flag HSB_STATE.LGC = false → Does s (.hsbLgcabort w) (u.put HSB_STATE.CMDERR 2)) ∧
    (keyed → Does s (.hsbArbclr w) ((u.modHsb fun g => { g with arbBarred := false }).put HSB_STATE.CMDERR 0)) ∧
    (c.image = some im → c.flag HSB_STATE.LGC = true → im.sec.legacy = [m] → Does s (.legacyStateBlock b now) (c.legacyEntry im.sec.timers b m)) ∧
    (c.flag HSB_STATE.LGC = false → Does s (.legacyStateBlock b now) c ∧ Does s (.legacyHandoverRecord r now) c) ∧
    (c.flag HSB_STATE.LGC = true → Does s (.legacyHandoverRecord r now) (c.modHsb fun g => { g with lgcCycle := r.cycle, lgcNext := some r.next })) ∧
    (c.hsb.lgcNext = none → c.hsb.legacy = some (v, ms) → v.toNat + 1000000 * ms ≤ c.t → c.flag HSB_STATE.LGC = true →
      (failed c).get HSB_STATE.ROLE = 5 → Does s (.legacyTimeout now) ((failed c).put HSB_STATE.ROLE 3)) ∧
    (c.hsb.lgcNext.isSome = true ∨ c.hsb.legacy = none ∨ (c.hsb.legacy = some (v, ms) ∧ c.t < v.toNat + 1000000 * ms) → Does s (.legacyTimeout now) c) ∧
    (m.action = 1 → m.count = 8 → b.bits = false → b.base ≤ m.src.toNat → m.src.toNat + 8 ≤ b.base + b.data.length →
      let x : Chip := c.storeOne ⟨.data, m.dst.toNat, 8, BitVec.ofNat 64
        ((List.range 8).map fun j => (b.data.getD (m.src.toNat - b.base + j) 0).toNat * 2 ^ (8 * j)).sum⟩
      x.protAny m.dst.toNat = false → c.legacyEntry [] b m = x) ∧
    (Canonical s → begun.flag HSB_STATE.LGC = true ∧ begun.get HSB_STATE.ROLE = 5 ∧ begun.flag HSB_ILK.INRELD = !u.flag HSB_ILK.INT ∧
      begun.flag HSB_ILK.INASS = u.flag HSB_ILK.INT)

/-- Cycles of a station ring (R217, R219 to R226, R229, R230, R234, R235): a cycle starts at S(c) with the next number and no register changed, a
returned frame's
valid slots become the current inputs, a missed slot counts towards the dropout, four valid cycles bring a station back, and MON frames watch link 1. The
model's own: when a break counts as repaired and a station as back (log entry 55), and that a failure of link 1 is told once (log entry 56). -/
def Obligations.RingCycles : Prop :=
  ∀ (s : State) (r : Fin 4) (leg : Fin 2) (f : RingFrame) (x : RingSlot) (y : Cyc) (st : Fin 32) (ok : BitVec 32) (now : Time),
    let c := came s now
    let p := c.cycleNs r
    let runs : Prop := c.rstate r = 3 ∨ c.rstate r = 4 ∨ c.rstate r = 5
    let repair : Bool := c.rstate r == 4 && 64 ≤ (c.ring r).lnk
    let good := (c.stations r).filterMap fun s => match f.slots[s.val]? with
      | some x => if f.hcrcOk && x.crcOk && x.valid && x.station = s then some (s, x) else none
      | none => none
    let plain : Prop := f.type = 1 ∧ f.abort = false
    let cut : Prop := f.eof = false ∨ ∃ q ∈ f.slots, q.wrap = true
    let ended : Prop := (y.split = false ∧ y.ret0 = true) ∨ y.num * p + c.frameNs r ≤ c.t
    let due : Prop := y.num * p + 200 + 16 * c.get (STN_LAT.RTD r) ≤ c.t
    let k := 32 * r.val + st.val
    let z := (c.takeSlot r leg y st x).1
    let d := (c.takeSlot r leg y st x).2
    let missed : Chip := (c.incSat (STN_SSTAT.MISS r st)).incSat (STN_SSTAT.CRCERR r st)
    let taken : Chip := c.modImg fun m => { m with curB := imgTake y.newB (16 * k) 16 m.curB, curW := imgTake y.newW (64 * k) 64 m.curW }
    let back : Bool := ok.getLsbD st && y.pchk.getLsbD st && !c.flag (STN_SSTAT.CFGMIS r st) && (c.ring r).enumerated
    (p = 0 ∨ now.toNat % p ≠ 0 ∨ ¬ runs → Does s (.ringCycleStart r now) c) ∧
    (p ≠ 0 → now.toNat % p = 0 → runs → (c.ring r).cyc = none → c.upd.rings.getLsbD r = false → (∀ e ∈ c.staged, e.1 ≠ STN_CTL.reg r) → Powered s →
      Leads (.ringCycleStart r now) s fun c' =>
        (c'.ring r).cyc = some { num := now.toNat / p, split := c.rstate r ≠ 3 && !repair, repair, ret0 := false, mon := false, ok0 := 0, ok1 := 0,
                                 fresh := 0, wrap := 0, lnkok := 0, pchk := 0, rtd := 0, monMiss := false, newB := [], newW := [] } ∧
        (c'.ring r).lastCyc = now.toNat / p ∧ (∀ q, q ≠ r → c'.ring q = c.ring q) ∧
        ((∀ q : Fin 32, c.get (STN_SUBBASE.BASE r) = 0 ∨ c.subOk r q = true) → c'.regs = c.regs) ∧ c'.mem = c.mem ∧ c'.tasks = c.tasks ∧
        c'.img.txB = c.img.txB ∧ c'.img.txW = c.img.txW ∧ c'.img.curB = c.img.curB ∧ c'.img.rxB = c.img.rxB) ∧
    ((c.ring r).cyc = none → Does s (.cycFrameReturn r leg f now) c ∧ Does s (.ringCycleInputsComplete r now) c) ∧
    ((c.ring r).cyc = some y → ended → Does s (.ringCycleInputsComplete r now) (c.cycleEnd r y)) ∧
    ((c.ring r).cyc = some y → y.split = false → y.ret0 = false → ended → Canonical s → Powered s → Leads (.ringCycleInputsComplete r now) s fun c' =>
      (c'.ring r).cyc = none ∧ c'.flag (STN_STAT.BREAK r) = true ∧ c'.rd (STN_CYCNO.reg r) = BitVec.ofNat 32 y.num) ∧
    ((c.ring r).cyc = some y → ¬ ended → Does s (.ringCycleInputsComplete r now) c) ∧
    ((c.ring r).cyc = some y → (f.type ≠ 1 ∨ f.abort = true ∨ (leg = 1 ∧ y.split = false)) → Does s (.cycFrameReturn r leg f now) c) ∧
    ((c.ring r).cyc = some y → plain → leg = 0 → y.split = false → ¬ cut → good = [] →
      Does s (.cycFrameReturn r leg f now) (c.modRing r fun q => { q with cyc := some { y with ret0 := true, rtd := f.rtd } })) ∧
    ((c.ring r).cyc = some y → plain → leg = 0 → y.split = false → ¬ cut → good = [(st, x)] →
      Does s (.cycFrameReturn r leg f now) ((d.modRing r fun q => { q with cyc := some { z with ret0 := true, rtd := f.rtd } }).rxTake k)) ∧
    ((c.ring r).cyc = some y → plain → y.split = true → good = [(st, x)] →
      Does s (.cycFrameReturn r leg f now) (d.modRing r fun q => { q with cyc := some z })) ∧
    ((c.ring r).cyc = some y → plain → leg = 0 → y.split = false → cut → good = [(st, x)] → Does s (.cycFrameReturn r leg f now) (c.noteSlot r st x)) ∧
    (Canonical s → leg = 0 → c.dropped k = false →
      (∀ g, g < min 16 (c.get (STN_SCFG.DIB r st)) → imgGet d.img.curB (16 * k + g) = x.bits.getD g 0) ∧
      (∀ g, g < min 64 (c.get (STN_SCFG.AIW r st)) → imgGet d.img.curW (64 * k + g) = x.words.getD g 0) ∧
      (∀ i, (i < 16 * k ∨ 16 * k + min 16 (c.get (STN_SCFG.DIB r st)) ≤ i) → imgGet d.img.curB i = imgGet c.img.curB i) ∧
      z.ok0.getLsbD st = true ∧ z.newB = y.newB ∧ d.img.txB = c.img.txB ∧ d.mem = c.mem) ∧
    (leg = 0 → c.dropped k = true → d.img = c.img ∧ d.mem = c.mem ∧ z.ok0.getLsbD st = true ∧
      z.newB = y.newB ++ (List.range (c.get (STN_SCFG.DIB r st))).map (fun g => (16 * k + g, x.bits.getD g 0)) ∧
      z.newW = y.newW ++ (List.range (c.get (STN_SCFG.AIW r st))).map (fun g => (64 * k + g, x.words.getD g 0))) ∧
    (ok.getLsbD st = true → c.countSlot r ok st = c.put (STN_SSTAT.MISS r st) 0) ∧
    (ok.getLsbD st = false → (missed.get (STN_SSTAT.MISS r st) < missed.get (STN_SCFG.MISSLIM r st) ∨ missed.bitOf (STN_DROP.DROP r) st = true) →
      c.countSlot r ok st = missed) ∧
    (ok.getLsbD st = false → missed.get (STN_SCFG.MISSLIM r st) ≤ missed.get (STN_SSTAT.MISS r st) → missed.bitOf (STN_DROP.DROP r) st = false →
      c.countSlot r ok st = missed.dropout r st) ∧
    (c.bitOf (STN_DROP.DROP r) st = true → back = true → (c.ring r).rejoin[st] = 3 → c.countRejoin r y ok st =
      ((taken.putDrop r st false).set1 (STN_STAT.REJOIN r)).modRing r fun q => { q with rejoin := q.rejoin.set st 0, joined := bput q.joined st true }) ∧
    (c.bitOf (STN_DROP.DROP r) st = true → back = false → c.countRejoin r y ok st = c.modRing r fun q => { q with rejoin := q.rejoin.set st 0 }) ∧
    (c.bitOf (STN_DROP.DROP r) st = false → c.countRejoin r y ok st = c) ∧
    Does s (.monFrameReturned r now) ((c.clr (STN_STAT.L1FAIL r)).modRing r fun q => { q with cyc := q.cyc.map fun y => { y with mon := true } }) ∧
    ((c.ring r).cyc = some y → y.split = false → y.mon = false → due → y.ret0 = false → c.flag (STN_STAT.L1FAIL r) = false → Does s (.monFrameCheck r now)
      (c.modRing r fun q => { q with cyc := some { y with monMiss := true } })) ∧
    ((c.ring r).cyc = some y → y.split = false → y.mon = false → due → y.ret0 = true → c.flag (STN_STAT.L1FAIL r) = false → Does s (.monFrameCheck r now)
      ((c.set1 (STN_STAT.L1FAIL r)).fault 1 0x03 (2 ^ 8 * r.val + 0x1F) 0 (0x30 + 2 * r.val))) ∧
    ((c.ring r).cyc = some y → (y.split = true ∨ y.mon = true ∨ ¬ due ∨
      c.flag (STN_STAT.L1FAIL r) = true) → Does s (.monFrameCheck r now) c) ∧
    ((c.ring r).cyc = none → Does s (.monFrameCheck r now) c)

/-- Training, enumeration and acyclic transactions (R225, R227, R228, R239, R240, R501 to R503): an aligned ring enumerates, a LOST one retrains after 100 ms,
enumeration sets RTD and admits stations or is refused with RTDERR, a submitted slot is queued, and a transaction ends with its status. The model's
own: what a ring does
whose RTD is refused (log entry 14), and which stations an enumeration takes (log entry 55). -/
def Obligations.RingEnumerationAndAcyclicTransactions : Prop :=
  ∀ (s : State) (w : Cmd) (r : Fin 4) (e : EnumReport) (a : AcrFrame) (tag : Fin 64) (x : StnIdent) (im : Image) (st : Fin 32) (n : Nat) (now : Time),
    let c := came s now
    let u := written s w
    let rtd := if e.broken then (max e.leg0 e.leg1 + 15) / 16 else e.link0
    let d : Chip := c.modRing r fun q => { q with ready := true, rejoin := Vector.replicate 32 0, lnk := 0, cyc := none, prep := 0 }
    let measured : Chip := ((d.put (STN_LAT.RTD r) rtd).modRing r fun q => { q with enumerated := true }).forIn (d.stations r) fun s c =>
      c.admitStation r e.idents s
    let told (x : Chip) (n : Nat) : Chip := x.ringFaults d r (fun s => (d.ring r).joined.getLsbD s) true n
    let ready : Chip := (told measured 0).forIn (d.stations r) fun s c => c.rxTake (32 * r.val + s.val)
    let shut : Chip := (told ((d.set1 (STN_STAT.RTDERR r)).forIn (d.stations r) fun s c => c.notAdmitted r s) 1).forIn (d.stations r) fun s c =>
      c.rxTake (32 * r.val + s.val)
    let t : Fin 64 := Fin.ofNat 64 w.value.toNat
    let mine : Prop := ByMcHost s w ∧ w.value.getLsbD 6 = true
    let owned : Chip := (u.put (STN_STATE.AQERR r) 0).put (acOwner r t) w.agent.toNat
    let op := owned.get ⟨acAddr r t 0, 7, 0⟩
    let fits : Prop := 1 ≤ op ∧ op ≤ 6 ∧ owned.acStation r t < owned.get (STN_STATE.NSTN r) ∧ owned.get ⟨acAddr r t 0, 23, 16⟩ ≤ 112
    let answered : Prop := a.ok = true ∧ a.station = c.acStation r tag ∧ ∃ n, (tag, n) ∈ (c.ring r).sent
    let data : Chip := (c.acData r tag a.data).put (acRlen r tag) (min a.data.length 112)
    let agrees : Prop := (∀ i ∈ im.sec.idents, i.1 = 32 * r.val + st.val → i.2 = (x.type, x.cap)) ∧ ∀ i ∈ im.sec.pchk, i.1 = 32 * r.val + st.val → i.2 = x.pchk
    let known : Chip := (c.wr (STN_SCAP.reg r st) x.cap).putB (STN_SSTAT.CFGMIS r st) false
    (c.rstate r = 1 → (∀ q ∈ c.turn, q.cls = 5 → q.who = .ring r → q.admitted = true) →
      Does s (.ringLinksAligned r now) ((c.put (STN_LAT.STATE r) 2).turnEnd 5 (.ring r))) ∧
    (c.rstate r ≠ 1 ∨ (∃ q ∈ c.turn, q.cls = 5 ∧ q.who = .ring r ∧ q.admitted = false) → Does s (.ringLinksAligned r now) c) ∧
    (c.rstate r = 5 → (c.ring r).lostAt.toNat + 100000000 ≤ c.t → Does s (.ringLostRetrain r now)
      (((c.put (STN_LAT.STATE r) 1).modRing r fun q => { q with cyc := none, lostAt := c.tb }).turnAsk 5 (.ring r))) ∧
    (c.rstate r ≠ 5 ∨ c.t < (c.ring r).lostAt.toNat + 100000000 → Does s (.ringLostRetrain r now) c) ∧
    (c.rstate r ≠ 2 → Does s (.enumerationComplete r e now) c) ∧
    (c.rstate r = 2 → d.rtdOk r rtd = true → e.broken = false →
      Does s (.enumerationComplete r e now) ((ready.clr (STN_LAT.B0NONE r)).put (STN_LAT.STATE r) 3)) ∧
    (c.rstate r = 2 → d.rtdOk r rtd = true → e.broken = true →
      Does s (.enumerationComplete r e now) ((ready.setBrk r e.brkpos).put (STN_LAT.STATE r) 4)) ∧
    (c.rstate r = 2 → d.rtdOk r rtd = false → Does s (.enumerationComplete r e now)
      ((shut.put (STN_LAT.STATE r) 5).modRing r fun q => { q with enumerated := false, lostAt := shut.tb })) ∧
    (c.image = some im → e.idents.find? (·.s == st) = some x → agrees → known.bitOf (STN_DROP.DROP r) st = false →
      c.admitStation r e.idents st = known.modRing r fun q => { q with joined := bput q.joined st true }) ∧
    (c.image = some im → e.idents.find? (·.s == st) = some x → agrees → known.bitOf (STN_DROP.DROP r) st = true → c.admitStation r e.idents st = known) ∧
    (e.idents.find? (·.s == st) = none → c.bitOf (STN_DROP.DROP r) st = false → (c.ring r).joined.getLsbD st = false →
      c.admitStation r e.idents st = c.putDrop r st true) ∧
    (e.idents.find? (·.s == st) = none → c.bitOf (STN_DROP.DROP r) st = false → (c.ring r).joined.getLsbD st = true →
      c.admitStation r e.idents st = c.dropout r st) ∧
    (ByMcHost s w → w.value.getLsbD 6 = false → Does s (.stnAqsubSubmit r w) u) ∧
    (mine → u.get (acStatus r t) = 1 → Does s (.stnAqsubSubmit r w) (u.put (STN_STATE.AQERR r) 1)) ∧
    (mine → u.get (acStatus r t) ≠ 1 → fits → Does s (.stnAqsubSubmit r w)
      ((owned.put (acStatus r t) 1).modRing r fun q => { q with acq := q.acq ++ [t] })) ∧
    (mine → u.get (acStatus r t) ≠ 1 → ¬ fits → Does s (.stnAqsubSubmit r w) (owned.acDone r t 6)) ∧
    (answered → a.serr = none → Does s (.acrReceived r tag a now) (data.acDone r tag 2)) ∧
    (answered → ∀ v, a.serr = some v → Does s (.acrReceived r tag a now) ((data.put (acSerr r tag) v).acDone r tag 3)) ∧
    (a.ok = false ∨ a.station ≠ c.acStation r tag ∨ (∀ n, (tag, n) ∉ (c.ring r).sent) → Does s (.acrReceived r tag a now) c) ∧
    ((c.ring r).sent.find? (·.1 == tag) = some (tag, n) → n + c.get (STN_CTL.ACTO r) ≤ (c.ring r).lastCyc →
      Does s (.acyclicTimeout r tag now) (c.acDone r tag 4)) ∧
    ((c.ring r).sent.find? (·.1 == tag) = some (tag, n) → (c.ring r).lastCyc < n + c.get (STN_CTL.ACTO r) → Does s (.acyclicTimeout r tag now) c) ∧
    ((c.ring r).sent.find? (·.1 == tag) = none → Does s (.acyclicTimeout r tag now) c) ∧
    (∀ v, (c.acDone r tag v).ring r = { c.ring r with acq := (c.ring r).acq.filter (· != tag), sent := (c.ring r).sent.filter (·.1 != tag) } ∧
      (Canonical s → (c.acDone r tag v).bitOf (if tag.val < 32 then STN_ACMP0.CMP r else STN_ACMP1.CMP r) (tag.val % 32) = true))

/-- Posting, accumulating and closing (R352, R355 to R361): a software post enters the feed stamped with TB or is counted as dropped, the head of the feed
goes into the open record of its code as Table 13.4 says, and a record closes at its interval's end, early, or when the queue has room, under
NEXTSEQ. What saturates a record, when a post asks for an early close and what DEFER counts are the model's own (log entry 54),
and so is that a code whose entry is wiped closes as its entry was (log entry 140). -/
def Obligations.RecorderPostsAndCloses : Prop :=
  ∀ (s : State) (j : Fin 3) (w : Cmd) (code : Fin 4096) (p : Post) (l : List Post) (o : RecOpen) (reason d t : Nat) (early full : Bool) (now : Time),
    let c := came s now
    let u := written s w
    let own : Prop := (j = 0 ∧ w.agent = 0x01) ∨ (j = 1 ∧ w.agent = 0x02) ∨ (j = 2 ∧ w.agent = 0x40)
    let reach : Prop := isHost w.agent = true → HostReaches s
    let n := w.value.toNat % 4096
    let takes : Prop := u.flag REC_CTL.EN = true ∧ u.mode ≠ mLOAD ∧ u.rcd.stopped = false ∧ u.rcd.feed.length < 256
    let opens : Prop := c.rcd.opens.find? (·.code == code.val) = some o
    let ready : Prop := o.deferred = none ∧ c.rcd.stopped = false ∧ d ≤ c.t ∧ ∀ p ∈ c.rcd.feed, p.code = code.val → d ≤ p.stamp.toNat
    let clear : Prop := ∀ p ∈ c.rcd.feed, p.code = code.val → c.t ≤ p.stamp.toNat
    let behind : Prop := reason = 4 ∧ ∃ q ∈ c.rcd.opens, q.code < o.code ∧ q.deferred.any (·.1 == 4) = true
    let room : Prop := c.rcd.known = true ∧ c.rcd.comm = none ∧ c.rcd.queue.length < 1024
    let fresh := c.openRec p
    (own → reach → 0x200 ≤ n → u.codeType n ≠ 0 → takes → Does s (.recorderPost j w)
      (u.modRec fun r => { r with feed := r.feed ++ [⟨n, u.rd (REC_POSTVAL.reg j), u.tb⟩] })) ∧
    (own → reach → 0x200 ≤ n → u.codeType n ≠ 0 → ¬ takes → Does s (.recorderPost j w) ((u.incSat REC_DROP.FEED).set1 REC_STAT.FEEDDROP)) ∧
    (own → reach → n < 0x200 ∨ u.codeType n = 0 → Does s (.recorderPost j w) (u.incSat REC_DROP.NCFG)) ∧
    (¬ own → reach → Does s (.recorderPost j w) ((((came s w.now).hostWake w.agent).refuse w.agent true (REC_POSTCODE.reg j)).denied w.agent 0)) ∧
    (c.rcd.stopped = true ∨ c.rcd.feed = [] → Does s (.recorderAccumulate now) c) ∧
    (c.rcd.stopped = false → c.rcd.feed = p :: l → c.rcd.opens.find? (·.code == p.code) = none → c.codeType p.code = 1 → c.flood p.code = none →
      Does s (.recorderAccumulate now) (c.modRec fun r => { r with
        feed := l, opens := r.opens.filter (·.code != p.code) ++ [{ fresh with count := 1, last := p.value, posts := 1 }] })) ∧
    (c.rcd.stopped = false → c.rcd.feed = p :: l → c.rcd.opens.find? (·.code == p.code) = some o → o.deferred = none → o.early = none →
      p.stamp.toNat < c.closeDue o → c.codeType p.code = 4 → c.flood p.code = none → o.sat = false → 0 < o.count → o.count < 0xFFFFFFFE →
      Powered s → Leads (.recorderAccumulate now) s fun c' =>
        c'.rcd.feed = l ∧ c'.regs = c.regs ∧ c'.mem = c.mem ∧ ∃ q, c'.rcd.opens = c.rcd.opens.filter (·.code != p.code) ++ [q] ∧
          q.count = o.count + 1 ∧ q.posts = o.posts + 1 ∧ q.early = none ∧
          (q.min = if recVal ((c.codeEntry p.code).testBit 3) p.value < recVal ((c.codeEntry p.code).testBit 3) o.min then p.value else o.min) ∧
          (q.max = if recVal ((c.codeEntry p.code).testBit 3) o.max < recVal ((c.codeEntry p.code).testBit 3) p.value then p.value else o.max)) ∧
    (c.rcd.stopped = false → c.rcd.feed = p :: l → c.rcd.opens.find? (·.code == p.code) = some o → o.deferred = none → c.nextClose o ≤ p.stamp.toNat →
      Does s (.recorderAccumulate now) c) ∧
    (opens → d = c.closeDue o → ready → c.nextClose o = d → Does s (.recordIntervalClose code now) (c.closeRec o 0 false d)) ∧
    (opens → (o.deferred.isSome = true ∨ c.rcd.stopped = true ∨ c.t < c.closeDue o ∨ c.nextClose o < c.closeDue o) → Does s (.recordIntervalClose code now) c) ∧
    (opens → o.early = some (reason, t) → c.earlyDue o = some d → ready → d < c.closeDue o → Does s (.recordEarlyClose code now) (c.closeRec o reason true d)) ∧
    (opens → (o.early = none ∨ c.rlim o.code = 0) → Does s (.recordEarlyClose code now) c) ∧
    (opens → o.deferred = some (reason, early, full) → ¬ behind → room → clear → c.rcd.stopped = false → c.rcd.stopping = false →
      Does s (.recordDeferredClose code now) (c.closeRec o reason early c.t)) ∧
    (opens → o.deferred = some (reason, early, full) → ¬ behind → c.rcd.known = true → c.rcd.comm = none → c.rcd.stopped = false → c.rcd.queue.length = 1024 →
      Does s (.recordDeferredClose code now) ((c.set1 REC_STAT.DEFER).modRec fun r =>
        { r with opens := r.opens.map fun p => if p.code = o.code then { p with deferred := some (reason, early, true) } else p })) ∧
    (opens → o.deferred = some (reason, early, full) → c.rcd.queue.length < 1024 → ¬ clear → Does s (.recordDeferredClose code now) c) ∧
    (opens → o.deferred = some (reason, early, full) → behind → Does s (.recordDeferredClose code now) c) ∧
    (opens → (o.deferred = none ∨ c.rcd.known = false ∨ c.rcd.comm.isSome = true ∨ c.rcd.stopped = true) → Does s (.recordDeferredClose code now) c) ∧
    (c.rcd.opens.find? (·.code == code.val) = none → Does s (.recordIntervalClose code now) c ∧ Does s (.recordEarlyClose code now) c ∧
      Does s (.recordDeferredClose code now) c) ∧
    (room → 1024 ≤ c.get REC_NEXTSEQ.SEQ → c.rcd.queue.length < 767 → c.closeRec o reason early t =
      (((c.incWrap REC_NEXTSEQ.SEQ).modRec fun r => { r with
        opens := r.opens.filter (·.code != o.code)
        closedAt := spIns o.code t r.closedAt
        earlyAt := if early then spIns o.code t r.earlyAt else r.earlyAt
        queue := r.queue ++ [⟨c.get REC_NEXTSEQ.SEQ, recWords (entryType (c.codeEntry o.code)) c.rcd.epoch (c.get REC_NEXTSEQ.SEQ) reason early
          (o.deferred.any (·.2.2)) t o, false, false, true⟩] }).put REC_QSTAT.QCNT (c.rcd.queue.length + 1))) ∧
    (c.rcd.queue.length = 1024 → c.closeRec o reason early t = (c.set1 REC_STAT.DEFER).modRec fun r =>
      { r with opens := r.opens.map fun p => if p.code = o.code then { p with deferred := some (reason, early, true) } else p }) ∧
    (early = true → o.memErr = true → o.sat = false → o.code < 4096 → d ≤ 4 → reason ≤ 4 →
      (recWords d 7 t reason early full 0 o).length = 16 ∧ ((recWords d 7 t reason early full 0 o).getD 0 0).toNat % 4096 = o.code ∧
      ((recWords d 7 t reason early full 0 o).getD 0 0).toNat / 2 ^ 24 = 7 ∧ ((recWords d 7 t reason early full 0 o).getD 0 0).getLsbD 15 = true ∧
      ((recWords d 7 t reason early full 0 o).getD 0 0).getLsbD 20 = true)

/-- Draining, the keep area, start, reading and commissioning (R363 to R365, R368 to R371): a drain writes sectors with one retry, the keep area takes each
record once, NEXTSEQ is found from the valid records, a fetch puts a record and its STATUS into the window, and COMMISSION, under its agreement, erases and
raises the epoch. The model's own: when a drain takes a part-filled sector and what an early close waits for (log
entry 54), what a failed cell then holds (log entry 92), that no sector exists before an image runs (log entry 123), and that a bad cell reads as an
erased one (log entry 138). -/
def Obligations.RecorderDrainReadAndCommission : Prop :=
  ∀ (s : State) (w : Cmd) (q : RecQ) (agent : AgentId) (st : Nat) (l : List Word) (k : Cells) (ok part : Bool) (now : Time),
    let c := came s now
    let u := written s w
    let keyed : Prop := ByMcHost s w ∧ REC_CMD.KEY.of w.value = 0x2E5D
    let cmd (n e : Nat) : Chip := (u.put REC_CMDSTAT.LASTCMD n).put REC_CMDSTAT.CMDERR e
    let cmds : List (Nat × (Cmd → Instr)) := [(1, .recDrain), (2, .recCloseall), (3, .recCommission)]
    let run : Prop := u.rcd.stopped = false ∧ u.rcd.comm = none
    let drains : Prop := c.mode ≠ mLOAD ∧ c.mode ≠ mINTER ∧ c.rcd.stopped = false ∧ c.rcd.drainAt.toNat ≤ c.t
    let again : Chip := c.modRec fun r => { r with drainAt := c.tb + BitVec.ofNat 64 (r.period * 1000000000), period := max 1 (c.get REC_CTL.DRAINPER) }
    let more := c.rcd.drain == some true
    let writes : Prop := c.rcd.drain = some part ∧ c.drainHead part = some q ∧ c.turnHas 1 .recorder = true
    let fits : Prop := c.emmcHas (c.carSlot (8 * (q.seq / 8)) / 8) 1 = true
    let full := c.sectorFull (q.seq / 8)
    let slots := c.sectorSlots (q.seq / 8)
    let x := c.cells k
    let keeps : Prop := c.rcd.queue.find? (fun q => !q.inKeep) = some q ∧ c.turnHas 0 .store = true
    let put := x.cellsPut 4 (keepCells q)
    let kept : Chip := put.2.modRec fun r =>
      { r with queue := (r.queue.map fun p => if p.seq = q.seq then { p with inKeep := true } else p).filter fun p => !(p.inCar && p.inKeep) }
    let noted := c.chipNotes 0
    let e := ((noted.chipRecData 0).getD 0 0).toNat
    let known : Chip := (noted.put REC_CAR.EPOCH e).modRec fun r => { r with epoch := e }
    let seqOf (w : List Word) : Nat := (w.getD 1 0).toNat
    let next := (((known.carRecords.filter known.recValid) ++ known.tailRecords).map fun w => seqOf w + 1).foldl max 0
    let tail := known.tailRecords.map fun w => (⟨seqOf w, w, false, false, 1024 ≤ seqOf w⟩ : RecQ)
    let found : Chip := (known.put REC_NEXTSEQ.SEQ next).modRec fun r =>
      { r with known := true, keepClosed := r.keepClosed || 1024 ≤ next, queue := tail ++ r.queue }
    let fetched (c : Chip) (ag : AgentId) (seq : Word) : Chip :=
      ((((c.wr REC_RDSEQ.reg seq).put REC_RDSTAT.OWNER ag.toNat).incWrap REC_RDSTAT.RDGEN).clr REC_RDSTAT.READY).modRec fun r => { r with fetching := true }
    let up := (((c.chipRecData 0).getD 0 0).toNat + 1) % 256
    let reset : Chip := c.unitDone.chipRec 0 (BitVec.ofNat 8 up :: List.replicate 7 0)
    let done : Chip := (((reset.put REC_CAR.EPOCH up).put REC_NEXTSEQ.SEQ 0).set1 REC_STAT.COMMDONE).modRec fun r =>
      { r with epoch := up, comm := none, known := true, keepClosed := false }
    let erased : Prop := c.rcd.comm.isSome = true ∧ c.lastUnit 0x70000 0x80000 = true
    let restored : Prop := c.rcd.tail.isSome = true ∧ c.mode ≠ mLOAD ∧ c.rcd.known = true ∧ c.tailWaits = false
    let spent : Chip := (c.modRec fun r => { r with tail := none }).chipRec 2 ((c.chipRecData 2).take 8 ++ [1, 0, 0, 0, 0, 0, 0, 0])
    let serves : Prop := c.rcd.fetching = true ∧ (c.fromCarousel = true → c.mode ≠ mINTER ∧ c.flushing = false)
    let reads : Prop := isHost agent = true → HostReaches s
    (ByMcHost s w → REC_CMD.KEY.of w.value ≠ 0x2E5D → ∀ i ∈ cmds, Does s (i.2 w) (u.put REC_CMDSTAT.CMDERR 1)) ∧
    (keyed → u.rcd.stopped = true → ∀ i ∈ cmds, Does s (i.2 w) (cmd i.1 2)) ∧
    (keyed → u.rcd.stopped = false → u.rcd.comm.isSome = true → ∀ i ∈ cmds, Does s (i.2 w) (cmd i.1 3)) ∧
    (keyed → run → Does s (.recDrain w) ((cmd 1 0).drainGo true) ∧ Does s (.recCloseall w) ((cmd 2 0).closeAll 3)) ∧
    (keyed → run → (cmd 3 0).grantFor w.agent 4 0 0 = true → Does s (.recCommission w) ((((cmd 3 0).grantUse).modRec fun r =>
      { r with opens := [], queue := [], drain := none, comm := some u.tb }).qcnt.eraseArea 0x70000 16)) ∧
    (keyed → run → (cmd 3 0).grantFor w.agent 4 0 0 = false → Does s (.recCommission w)
      ((((cmd 3 0).put REC_CMDSTAT.CMDERR 4).refuse w.agent true REC_CMD.reg).denied w.agent 0)) ∧
    (erased → Does s (.commissionComplete now) done.storeEnd) ∧
    (¬ erased → Does s (.commissionComplete now) c) ∧
    (drains → c.drainHead more = none → Does s (.recorderDrainStart now) again) ∧
    (drains → (c.drainHead more).isSome = true → Does s (.recorderDrainStart now)
      ((again.modRec fun r => { r with drain := some more }).turnAsk 1 .recorder)) ∧
    (¬ drains → Does s (.recorderDrainStart now) c) ∧
    (writes → ok = false ∨ ¬ fits → c.rcd.retried = false → Does s (.recorderSectorWritten ok now) (c.modRec fun r => { r with retried := true })) ∧
    (writes → ok = false ∨ ¬ fits → c.rcd.retried = true → Does s (.recorderSectorWritten ok now)
      ((((c.turnEnd 1 .recorder).modRec fun r => { r with retried := false, drain := none }).set1 REC_STAT.EMMCERR).fault 1 0x07 0x5C 0x3C 0x5C)) ∧
    (writes → fits → Does s (.recorderSectorWritten true now) ((c.modRec fun r => { r with
      carousel := slots.foldl (fun l e => spSet (List.replicate 16 0) e.1 e.2 l) r.carousel
      queue := (r.queue.map fun p => if p.seq / 8 = q.seq / 8 then { p with inCar := full, part := !full } else p).filter
        fun p => !(p.inCar && p.inKeep) }).qcnt.drainNext)) ∧
    (c.rcd.drain = none ∨ (c.rcd.drain = some part ∧ c.drainHead part = none) ∨ c.turnHas 1 .recorder = false →
      Does s (.recorderSectorWritten ok now) c) ∧
    (keeps → put.1 = true → q.seq ≠ 1023 → Does s (.keepAreaWritten k now) kept.qcnt.storeEnd.recStop) ∧
    (keeps → put.1 = true → q.seq = 1023 → Does s (.keepAreaWritten k now)
      ((kept.set1 REC_STAT.KEEPFULL).modRec fun r => { r with keepClosed := true }).qcnt.storeEnd.recStop) ∧
    (keeps → put.1 = false → Does s (.keepAreaWritten k now) (put.2.fault 1 0x07 0x5C 0x3D 0x5C).storeEnd) ∧
    (Canonical s → q.seq < 1024 → (∀ j, j < 8 → cellOf (0x60070000 + 64 * q.seq + 8 * j) ∉ x.nvs.stuck) →
      put.1 = true ∧ (∀ j, j < 64 → put.2.ldB (0x60070000 + 64 * q.seq + j) = (bytesOfWords q.words).getD j 0) ∧
      ∀ a, a < 0x60070000 + 64 * q.seq ∨ 0x60070000 + 64 * q.seq + 64 ≤ a → put.2.ldB a = x.ldB a) ∧
    ((∃ j, j < 8 ∧ cellOf (0x60070000 + 64 * q.seq + 8 * j) ∈ x.nvs.stuck) → put.1 = false) ∧
    ((∀ p ∈ c.rcd.queue, p.inKeep = true) ∨ c.turnHas 0 .store = false → Does s (.keepAreaWritten k now) x) ∧
    (c.mode ≠ mLOAD → c.rcd.known = false → Does s (.recorderNextseqFound now)
      (((if tail.any fun q => !q.inKeep then found.turnAsk 0 .store else found).qcnt).drainGo true)) ∧
    (c.mode = mLOAD ∨ c.rcd.known = true → Does s (.recorderNextseqFound now) c) ∧
    (restored → Does s (.tailRestoreComplete now)
      ((spent.set1 REC_STAT.TAILREST).post 0x009 (BitVec.ofNat 32 c.tailRecords.length)).armTail) ∧
    (¬ restored → Does s (.tailRestoreComplete now) c) ∧
    (ByMcHost s w → Does s (.recRdseqWrite w) (fetched u w.agent w.value)) ∧
    (serves → c.lookup ok = (st, l) → Powered s → Canonical s → st < 8 → Leads (.recordFetchComplete ok now) s fun c' =>
      (∀ j : Fin 16, c'.rd (REC_RDWIN.reg j) = l.getD j 0) ∧ c'.get REC_RDSTAT.STATUS = st ∧ c'.flag REC_RDSTAT.READY = true ∧
      c'.rcd.fetching = false ∧ c'.mem = c.mem) ∧
    (¬ serves → Does s (.recordFetchComplete ok now) c) ∧
    (c.mayRead agent (REC_RDWIN.reg 15) = true → reads → c.flag REC_RDCTL.AUTO = false →
      Does s (.recRdwin15AutoRead agent now) (c.answerW (c.rd (REC_RDWIN.reg 15)))) ∧
    (c.mayRead agent (REC_RDWIN.reg 15) = true → reads → c.flag REC_RDCTL.AUTO = true → Does s (.recRdwin15AutoRead agent now)
      ((fetched c agent (c.rd REC_RDSEQ.reg + 1)).answerW (c.rd (REC_RDWIN.reg 15)))) ∧
    (c.mayRead agent (REC_RDWIN.reg 15) = false → reads → Does s (.recRdwin15AutoRead agent now) ((c.refuse agent false (REC_RDWIN.reg 15)).denied agent 4))

/-- The mimic display (R417, R419 to R421, R425 to R434): EN begins at a checked configuration, overlay commands are refused, coalesced, queued, staged and
committed in order, a frame boundary samples the tiles and takes the batch, the bands follow the sensor with 2 °C of hysteresis, the crack loop
reports three steps in error, and the row pins follow the line period and the word that the
panel link sends. The model's own: where ROW_START ends (log entry 122), which nibble is the lower accumulator and the
seed of the crack loop (log entry 20), that places in staging fill in turn (log entry 144), and that a row counts from the start of its line period
(log entry 145). -/
def Obligations.MimicDisplay : Prop :=
  ∀ (s : State) (w : Cmd) (copy ack again s0 s1 : Bool) (q p : MimCmd) (f n k l x : Nat) (r : BitVec 16) (now : Time),
    let c := came s now
    let u := written s w
    let keyed : Prop := ByMcHost s w ∧ MIM_OVCMD.KEY.of w.value = 0x3D71
    let draw (b : Bool) : Instr := if b then .mimCopy w else .mimFill w
    let mine : Prop := q = { tag := MIM_OVCMD.TAG.of w.value, copy, x := u.get MIM_OVPOS.X, y := u.get MIM_OVPOS.Y, w := u.get MIM_OVSIZE.W,
                             h := u.get MIM_OVSIZE.H, src := u.rd MIM_OVSRC.reg, stride := u.get MIM_OVSTRIDE.STRIDE, step := 0, place := 0, done := 0 }
    let inside : Prop := 0 < q.w ∧ 0 < q.h ∧ q.x + q.w ≤ u.get MIM_TIM0.HACT ∧ q.y + q.h ≤ u.get MIM_TIM0.VACT
    let small : Prop := u.flag MIM_CTL.EN = false ∨ 3 * q.w * q.h ≤ 110592
    let source : Prop := copy = false ∨ ovSourceOk q = true
    let refuse (e : Nat) : Chip := (u.put MIM_OVSTAT.OVERR e).mimFlag 2
    let e := u.mimCfgErr
    let v : Word := w.value &&& 0xE00003FF
    let quiet : Prop := u.flag MIM_CTL.CRKACT = (MIM_CTL.CRKACT.of v != 0)
    let starts : Prop := ByMcHost s w ∧ quiet ∧ u.flag MIM_CTL.EN = false ∧ MIM_CTL.EN.of v = 1
    let staged : Prop := c.mim.asked = some .staging ∧ c.turnHas 3 .mimic = true
    let commits : Prop := c.mim.asked = some .batch ∧ c.turnHas 3 .mimic = true
    let inTime : Prop := ∀ f, c.mim.frameAt = some f → c.t + 10000 ≤ f
    let sent : Chip := c.mimDriven (if c.mim.frameAt.isSome then c.get MIM_TIM0.VACT else 0)
    let frame : Chip := (if c.mim.frameAt.isSome then (sent.incWrap MIM_FRAME.CNT).mimFlag 0 else sent).mimTiles
    let late : Chip := if c.upd.assets = 4 ∨ ∃ q ∈ c.mim.queue, q.step = 3 then frame.mimFlag 3 else frame
    let taken : Chip := (late.modMim fun m => { m with
      old := [], swapped := false, first := false, rows := 0, frameAt := some (late.t + late.mimBlankNs)
      queue := m.queue.map fun q => if q.step = 2 then { q with step := 3 } else q }).modUpd fun x => if x.assets = 3 then { x with assets := 4 } else x
    let pend := taken.get MIM_TEMP.PEND
    let code := taken.contrCode pend
    let asked : Chip := taken.modMim fun m => { m with contrast := some (taken.get MIM_I2C.PADDR, taken.get MIM_I2C.PREG, code) }
    let waiting : Chip := c.modMim fun m => { m with queue := m.queue.map fun q => if q.step = 3 then { q with step := 2 } else q }
    let out : Chip := c.modMim fun m => { m with queue := [] }
    let band := c.get MIM_STATE.BAND
    let up := c.mimBandOf r.toInt 0
    let down := c.mimBandOf r.toInt 512
    let b := c.mim.lfsr.getLsbD 14 ^^ c.mim.lfsr.getLsbD 13
    let errs := (s0 != b).toNat + (s1 != !b).toNat
    let step : Chip := (c.incSat MIM_CRK.ERRCNT errs).modMim fun m =>
      { m with lfsr := (m.lfsr <<< 1) ||| BitVec.ofNat 15 b.toNat, cracked := if errs = 0 then 0 else m.cracked + 1 }
    let ht := c.mimHtotal
    let rows := c.get MIM_TIM0.VACT
    let g := c.get MIM_TIM1.OEG
    let shows : Prop := c.mimRun = true ∧ 0 < c.get MIM_TIM1.BDIV ∧ c.mim.frameAt = some f ∧ c.t = f + 20 * c.get MIM_TIM1.BDIV * (ht * l + x) ∧ x < ht ∧
      l < c.get MIM_TIM1.VTOTAL
    (c.mimRun = false → c.rowPins.clk = false ∧ c.rowPins.oe = false) ∧
    (shows → (c.rowPins.clk = true ↔ 1 ≤ l ∧ l ≤ rows ∧ x < ht / 2) ∧
      (c.rowPins.oe = true ↔ 1 ≤ l ∧ l ≤ rows ∧ g ≤ x ∧ (l = rows ∨ x + g < ht) ∧ ¬ (c.mimBlanked = true ∧ c.mim.rows ≤ l)) ∧
      (x = 0 → l = 1 → c.rowPins.start = true) ∧ (x = 0 → 2 ≤ l → l ≤ rows → c.rowPins.start = false)) ∧
    (starts → u.mimCfgErr ≠ 0 → Does s (.mimEnSet w) ((u.put MIM_STATE.CFGERR e).wr MIM_CTL.reg (v &&& 0x7FFFFFFF))) ∧
    (starts → u.mimCfgErr = 0 → Powered s → Canonical s → Leads (.mimEnSet w) s fun c' =>
      c'.rd MIM_CTL.reg = v ∧ c'.get MIM_STATE.CFGERR = 0 ∧ c'.get MIM_FRAME.CNT = 0 ∧ c'.mim.first = true ∧ c'.mim.rows = 0 ∧
      c'.mim.frameAt = some u.t ∧ (∀ a, 0x302EE000 ≤ a → a < 0x30465000 → c'.ldB a = 0) ∧
      ∀ a, (a < 0x302EE000 ∨ 0x30465000 ≤ a) → c'.ldB a = u.ldB a) ∧
    (ByMcHost s w → quiet → u.flag MIM_CTL.EN = true → MIM_CTL.EN.of v = 1 → Does s (.mimEnSet w) (u.wr MIM_CTL.reg v)) ∧
    (ByMcHost s w → quiet → u.flag MIM_CTL.EN = false → MIM_CTL.EN.of v = 0 → Does s (.mimEnSet w) (u.wr MIM_CTL.reg v)) ∧
    (ByMcHost s w → quiet → u.flag MIM_CTL.EN = true → MIM_CTL.EN.of v = 0 → u.mim.queue = [] → Does s (.mimEnSet w)
      ((((u.mimStop.wr MIM_CTL.reg v).turnEnd 3 .mimic).modMim fun m => { m with queue := [], old := [], asked := none }).ovShow)) ∧
    (ByMcHost s w → MIM_OVCMD.KEY.of w.value ≠ 0x3D71 → Does s (draw copy) u ∧ Does s (.mimFlush w) u) ∧
    (keyed → 16 ≤ u.mim.queue.length → Does s (draw copy) (refuse 1)) ∧
    (keyed → mine → u.mim.queue.length < 16 → ¬ inside → Does s (draw copy) (refuse 2)) ∧
    (keyed → mine → u.mim.queue.length < 16 → inside → ¬ small → Does s (draw copy) (refuse 3)) ∧
    (keyed → mine → u.mim.queue.length < 16 → inside → small → ¬ source → Does s (draw copy) (refuse 4)) ∧
    (keyed → mine → u.mim.queue = [] → inside → small → source → u.flag MIM_CTL.EN = true → Does s (draw copy)
      ((u.modMim fun m => { m with queue := [q] }).ovShow.ovStarts)) ∧
    (keyed → mine → u.mim.queue = [p] → inside → small → source → u.flag MIM_CTL.EN = true → p.step = 0 → p.x = q.x → p.y = q.y → p.w = q.w → p.h = q.h →
      Does s (draw copy) ((u.modMim fun m => { m with queue := [q] }).incWrap MIM_OVCNT.COALCNT)) ∧
    (keyed → mine → u.mim.queue = [] → inside → source → u.flag MIM_CTL.EN = false → Powered s → Leads (draw copy) s fun c' =>
      c'.mem = ((u.ovSource q 0 q.bytes).2.ovWrite q (u.ovSource q 0 q.bytes).1).mem ∧ c'.mim = u.mim ∧ c'.tasks = u.tasks) ∧
    (keyed → Does s (.mimFlush w) ((u.modMim fun m => { m with queue := m.queue.filter (·.step != 0) }).ovShow)) ∧
    (staged → c.mim.queue.find? (·.step == 1) = some q → Does s (.mimStagingComplete now) (c.stageTo q q.bytes).mimEnd) ∧
    (c.mim.queue = [q] → q.copy = false → q.done = 0 → c.stageTo q q.bytes =
      (c.stagePut q 0 ((List.range q.bytes).map fun i => q.src.extractLsb' (16 - 8 * (i % 3)) 8)).modMim fun m =>
        { m with queue := [{ q with done := q.bytes, step := 2 }] }) ∧
    (staged → c.mim.queue.find? (·.step == 1) = none → Does s (.mimStagingComplete now) c.mimEnd) ∧
    (¬ staged → Does s (.mimStagingComplete now) c) ∧
    (commits → ¬ inTime → c.upd.assets ≠ 4 → Does s (.mimBatchCommit now) (waiting.mimFlag 3).mimEnd) ∧
    (commits → inTime → c.mim.queue = [q] → q.step = 3 → c.upd.assets ≠ 4 → Does s (.mimBatchCommit now)
      (((((out.ovWrite q (out.stageRead q)).stagePut q 0 (out.ovRead q)).modMim fun m => { m with old := m.old ++ [q] }).ovDone q.tag).ovShow).mimEnd) ∧
    (¬ commits → Does s (.mimBatchCommit now) c) ∧
    (c.mimRun = false → Does s (.mimFrameBoundary ack again now) c ∧ ∀ x, Does s (.mimSensorReading x now) c) ∧
    (c.mimRun = true → pend = taken.get MIM_STATE.BAND → Does s (.mimFrameBoundary ack again now) taken.ovShow.ovStarts) ∧
    (c.mimRun = true → pend ≠ taken.get MIM_STATE.BAND → (ack = true ∨ again = true) → Does s (.mimFrameBoundary ack again now)
      ((((asked.put MIM_STATE.BAND pend).modMim fun m => { m with code := code }).mimFlag 4).ovShow.ovStarts)) ∧
    (c.mimRun = true → pend ≠ taken.get MIM_STATE.BAND → ack = false → again = false → Does s (.mimFrameBoundary ack again now)
      ((asked.mimFlag 7).fault 1 0x07 0x58 0x3E 0x58).ovShow.ovStarts) ∧
    (c.mimRun = true → Does s (.mimSensorReading (some r) now)
      (((c.put MIM_TEMP.TEMP r.toNat).put MIM_TEMP.PEND (if band < up then up else if down < band then down else band)).modMim fun m => { m with fails := 0 })) ∧
    (c.mimRun = true → c.mim.fails ≠ 2 → Does s (.mimSensorReading none now) (c.modMim fun m => { m with fails := m.fails + 1 })) ∧
    (c.mimRun = true → c.mim.fails = 2 → let d : Chip := (((c.modMim fun m => { m with fails := m.fails + 1 }).mimFlag 6).fault 1 0x07 0x58 0x3B 0x58)
      d.get MIM_SENS.FAILBAND = c.get MIM_SENS.FAILBAND → Does s (.mimSensorReading none now) (d.put MIM_TEMP.PEND (c.get MIM_SENS.FAILBAND))) ∧
    (c.flag MIM_CTL.CRKEN = false → Does s (.crackStep s0 s1 now) c) ∧
    (c.flag MIM_CTL.CRKEN = true → (step.mim.cracked < 3 ∨ step.bitOf MIM_STAT.FLAGS 5 = true) → Does s (.crackStep s0 s1 now) step) ∧
    (c.flag MIM_CTL.CRKEN = true → 3 ≤ step.mim.cracked → step.bitOf MIM_STAT.FLAGS 5 = false → Does s (.crackStep s0 s1 now)
      ((step.mimUpToNow.mimFlag 5).fault 1 0x07 0x58 0x3A 0x58 .sys)) ∧
    (∀ table, c.overdrive table n n = n) ∧
    (Canonical s → (c.balPut k 7).balGet k = 7 ∧ (c.balPut k (-7)).balGet k = -7 ∧ ∀ j, j ≠ k → (c.balPut k 7).balGet j = c.balGet j)

/-- The boot sequence (R34, R40, R41, R44, R49, R458): it runs once, in LOAD, while PFAIL_N is high; TB is loaded, the tests run, banks are chosen by their
sequence numbers; without a valid bank the chip stays in LOAD with its CFGERR, and with both it loads and enters STOP, or SAFE-HOLD when FENCE_N was
asserted; a tie is told in either case,
and an image of an older format leaves its converted form to be written (R45, R46). The model's own: what makes a bank look valid (log entry 100),
what a bank taken while STAGED
becomes (log entry 69), the map entry of an engine that fails here (log entry 67), and when a brown-out is sampled (log entry 68). -/
def Obligations.BootSequence : Prop :=
  ∀ (s : State) (b : BootInput) (cb fb k x y : Nat) (fw : Option Nat) (ceq feq : Bool) (p q : Chip) (now : Time),
    let c := came s now
    let runs : Prop := c.mode = mLOAD ∧ c.sys.booted = false ∧ c.sys.loadHalt = false ∧ c.pins.pfailLow = false
    let powered : Chip := { c with pins := { c.pins with xspiAt := some c.tb } }
    let sampled : Chip := ((powered.cells b.cells).modSys fun y => { y with booted := true }).dmLoad.backupSample
    let tested : Chip := (sampled.loadTb (if sampled.flag RTC_STATE.TIMEINV then 0 else sampled.dateAndTime)).bootTests b
    let magic (k b : Nat) : Prop := tested.ld (bankAt [] k b).1 4 = kindMagic k
    let found : Chip := if b.octal = true ∧ (magic 0 0 ∨ magic 0 1 ∨ magic 1 0 ∨ magic 1 1) then tested else tested.set1 SYS_BOOTSTAT.QUADFB
    let read := found.chipNotes 3
    let goes : Prop := runs ∧ tested.sys.loadHalt = false
    let a := (bankAt [] 0 cb).1
    let told : Chip := (q.bootEq feq).bootEq ceq
    let noted : Chip := (told.put SYS_BOOTSTAT.CFGBANK cb).put SYS_BOOTSTAT.FWBANK fb
    let shown : Chip := ((noted.put SYS_BOOTSTAT.FMTMAJ (noted.imgMajor a)).put SYS_BOOTSTAT.FMTMIN (noted.imgMinor a)).convert cb
      (if cb = 0 then b.convA else b.convB)
    let sec := if cb = 0 then b.secA else b.secB
    let used : Chip := ((shown.put (UPD_BANKS.INUSE 0) cb).put (UPD_BANKS.INUSE 1) fb).forIn [2, 3, 4] fun k c =>
      match c.bootPick sec.layout k with
      | (some v, eq, c) => (c.bootEq eq).bootTake b sec.layout k v
      | (none, _, c) => c
    let loaded : Chip := ((used.bootLoad sec cb fb).banksShow).envUpdate.bootPending
    let stopped : Chip := (loaded.enterStop 0).bootStart.bootWindow
    let st := (stopped.image.map (·.start)).getD 0
    (¬ runs → Does s (.bootSequence b now) c) ∧
    (runs → tested.sys.loadHalt = true → Does s (.bootSequence b now) tested) ∧
    (goes → read.bootPick [] 0 = (none, ceq, p) → p.bootPick [] 1 = (fw, feq, q) → Does s (.bootSequence b now)
      ((told.put SYS_BOOTSTAT.CFGERR told.cfgErrNone).modSys fun y => { y with loadHalt := true })) ∧
    (goes → read.bootPick [] 0 = (some cb, ceq, p) → p.bootPick [] 1 = (none, feq, q) → Does s (.bootSequence b now)
      ((told.put SYS_BOOTSTAT.CFGERR 5).modSys fun y => { y with loadHalt := true })) ∧
    (goes → read.bootPick [] 0 = (some cb, ceq, p) → p.bootPick [] 1 = (some fb, feq, q) → loaded.pins.fence = false →
      loaded.sys.fenceSeen = false → Does s (.bootSequence b now)
      (stopped.modSys fun y => { y with start := if 1 ≤ st ∧ st ≤ 3 then some st else none })) ∧
    (goes → read.bootPick [] 0 = (some cb, ceq, p) → p.bootPick [] 1 = (some fb, feq, q) →
      loaded.pins.fence = true ∨ loaded.sys.fenceSeen = true → Does s (.bootSequence b now)
      (loaded.bootStart.enterSafeHold 4 false)) ∧
    (c.imgMajor (bankAt [] 0 k).1 < 3 → (c.convert k b.convA).sys.conv = some ⟨1 - k, c.converted (bankAt [] 0 k).1 b.convA, 0⟩) ∧
    (3 ≤ c.imgMajor (bankAt [] 0 k).1 → c.convert k b.convA = c.clr SYS_BOOTSTAT.MIGRATED) ∧
    c.bootEq true = (c.set1 SYS_BOOTSTAT.SEQEQ).fault 0 0x09 0 0 ∧ c.bootEq false = c ∧
    (c.bootBank [] k 0 = false → c.bootBank [] k 1 = false → c.bootPick [] k = (none, false, c)) ∧
    (c.bootBank [] k 0 = true → c.bootBank [] k 1 = false → c.updEntry k = 0 → c.bootPick [] k = (some 0, false, c)) ∧
    (c.bootBank [] k 0 = true → c.bootBank [] k 1 = true → c.updEntry k = 0 → seqPick (c.imgSeq (bankAt [] k 0).1) (c.imgSeq (bankAt [] k 1).1) = none →
      c.bootPick [] k = (some 0, true, c)) ∧
    (c.bootBank [] k 0 = true → c.bootBank [] k 1 = false → entPend (c.updEntry k) = 1 → entTries (c.updEntry k) ≠ 2 → entStg (c.updEntry k) = 0 →
      c.bootPick [] k = (some 0, false, c.putEntry k (entry 0 1 (entRev (c.updEntry k)) (entTries (c.updEntry k) + 1)))) ∧
    (x < 2 ^ 32 → y < 2 ^ 32 → (y + 2 ^ 32 - x) % 2 ^ 32 ≠ 0 → (y + 2 ^ 32 - x) % 2 ^ 32 < 2 ^ 31 → seqPick x y = some 1) ∧
    (x < 2 ^ 32 → y < 2 ^ 32 → 2 ^ 31 < (y + 2 ^ 32 - x) % 2 ^ 32 → seqPick x y = some 0) ∧ seqPick x x = none ∧
    (sampled.loadTb now).tb = now

/-- Accesses of agents (R4 to R7, R10, R15, R22 to R24, R332, R333, R471 to R473): a register access is one aligned word, an address without range is refused
and recorded, a plain write obeys the access codes of its fields and clears no W1C bit that hardware sets in its handshake, an admitted read gives the bytes and
changes nothing, the byte view of the status bits shows STN_DROPPED, an admitted write stores its bytes and nothing else, the boot ROM keeps its contents, and
what the host sends through BAR0 and BAR2 reaches the registers, the aperture and the host window. The model's own: FIXED and PV of such a record (log entry
43), what stands in the boot ROM (log entry 75), that a write to the active code half lands in the staging half (log entry 76), what an access outside a
block's own ranges meets (log entry 79), and who may write SYS and FLT (log entry 24). -/
def Obligations.AccessesOfAgents : Prop :=
  ∀ (s : State) (r : RegAccess) (m : MemAccess) (row : RegRow) (old v : Word) (locked : Bool) (i : Nat) (f : Nat → Byte),
    let c := came s r.now
    let d := came s m.now
    let a := r.addr.toNat
    let e := m.addr.toNat
    let n := m.data.length
    let word : Prop := r.size = 4 ∧ a % 4 = 0
    let inHostWindow : Prop := 0x38000000 ≤ e ∧ e + n ≤ 0x38080000
    let inDataStore : Prop := 0x20000000 ≤ e ∧ e + n ≤ 0x20300000
    let direct : Prop := r.via = .bus ∧ (isHost r.agent = true → HostReaches s)
    let byBus : Prop := m.via = .bus ∧ (isHost m.agent = true → HostReaches s)
    let value := r.value &&& ~~~(r.sets &&& ((regRow? a).elim 0 (·.w1c)))
    let host : Prop := isHost r.agent = true ∧ s.chip.pins.refclk = true ∧ s.chip.mbx.pci.d3hot = false
    let cw := if r.write then c.hostWake r.agent else c
    let dw := d.hostWake m.agent
    let rd := d.doIf (inBalance e m.len) (·.mimUpToNow)
    let rn := if inNvs e then rd.noteCells e m.len else rd
    let window := ((c.rd MBX_APBASE.reg).toNat + (a - 0x4000)) % 2 ^ 32
    let denied (c : Chip) (k : Nat) : Chip := { c with resp := ⟨List.replicate k 0, !isHost m.agent⟩ }
    (direct → inRegs a = true → ¬ word → Does s (.registerWrite r) ((cw.refuse r.agent r.write a).answer (List.replicate (if r.write then 0 else r.size) 0))) ∧
    (direct → inRegs a = true → word → r.write = false → isMc r.agent = true → Does s (.registerWrite r) (c.regRead r.agent a)) ∧
    (direct → inRegs a = true → word → r.write = true → isMc r.agent = true → a / 0x10000 = 0x4000 → a ≠ SYS_CMD.reg →
      Does s (.registerWrite r) ((c.answer []).plain a value)) ∧
    (direct → inRegs a = true → word → r.write = true → isMc r.agent = true → a / 0x10000 = 0x4007 → a ≠ FLT_DMCMD.reg →
      Does s (.registerWrite r) ((c.answer []).plain a value)) ∧
    (direct → inRegs a = true → word → r.write = true → 0x10 ≤ r.agent.toNat → r.agent.toNat ≤ 0x21 → a / 0x10000 = 0x4007 → a ≠ FLT_DMCMD.reg →
      Does s (.registerWrite r) ((c.refuse r.agent true a).denied r.agent 0)) ∧
    (regRow? a = none → c.plain a v = c) ∧
    (regRow? a = some row → storedAs a v = v → (c.plain a v).tasks = c.tasks ∧ (c.plain a v).mem = c.mem ∧
      (Canonical s → (c.plain a v).rd a = row.after (c.rwlLocked a) (c.rd a) v) ∧ ∀ b, b ≠ a → (c.plain a v).rd b = c.rd b) ∧
    (i < 32 → (row.after locked old v).getLsbD i =
      (((if row.rw.getLsbD i || (!locked && row.rwl.getLsbD i) then v.getLsbD i else old.getLsbD i)) && !(v.getLsbD i && row.w1c.getLsbD i))) ∧
    (byBus → m.write = true → isHost m.agent = false → inMap e = false → inRegs e = false → 0 < n →
      Does s (.agentMemoryAccess m) (denied (d.recordRefusal m.agent true e false none) 0)) ∧
    (byBus → m.write = false → isHost m.agent = false → inMap e = false → inRegs e = false → 0 < m.len →
      Does s (.agentMemoryAccess m) (denied (d.recordRefusal m.agent false e false none) m.len)) ∧
    (byBus → m.write = true → dw.barred m.agent true e n = some .fixed → Does s (.agentMemoryAccess m) (denied (dw.refuse m.agent true e) 0)) ∧
    (byBus → m.write = true → dw.barred m.agent true e n = some .partition → Does s (.agentMemoryAccess m) (denied (dw.refusePart m.agent true e n) 0)) ∧
    (byBus → m.write = true → inHostWindow → isMc m.agent = true → (∀ j, j < n → d.admitsByte m.agent true (e + j) = true) → Powered s → Canonical s →
      Leads (.agentMemoryAccess m) s fun c' =>
        (∀ j, j < n → c'.ldB (e + j) = m.data.getD j 0) ∧ (∀ b, b < e ∨ e + n ≤ b → c'.ldB b = d.ldB b) ∧ c'.regs = d.regs ∧ c'.tasks = d.tasks ∧
        c'.resp = ⟨[], false⟩) ∧
    (byBus → m.write = true → inDataStore → isMc m.agent = true → (∀ j, j < n → d.admitsByte m.agent true (e + j) = true) → Powered s → Canonical s →
      Leads (.agentMemoryAccess m) s fun c' =>
        (∀ j, j < n → c'.ldB (e + j) = m.data.getD j 0) ∧ (∀ b, b < e ∨ e + n ≤ b → c'.ldB b = d.ldB b) ∧ c'.regs = d.regs ∧ c'.resp = ⟨[], false⟩) ∧
    (byBus → m.write = false → m.ecc = .ok → inRegs e = false → inStatus e m.len = false → d.barred m.agent false e m.len = none →
      (∀ w ∈ wordsOf e m.len, w ∉ d.flt.poison) →
      (∀ j, j < m.len → rn.busByte (e + j) = some (f j)) → Does s (.agentMemoryAccess m) (rn.answer ((List.range m.len).map f))) ∧
    (byBus → m.write = true → e + n ≤ 0x10000 → dw.barred m.agent true e n = none → d.flt.poison = [] → Does s (.agentMemoryAccess m) (dw.answer [])) ∧
    (byBus → m.write = true → n = 1 → 0x10000000 ≤ e → e < 0x10300000 → dw.barred m.agent true e 1 = none → d.flt.poison = [] →
      Does s (.agentMemoryAccess m) ((dw.stB (e + 0x300000) (m.data.getD 0 0)).answer [])) ∧
    (byBus → m.write = false → m.ecc = .ok → m.len = 1 → e = 0x28004000 + i → 0 < i → i < 0x2000 → d.barred m.agent false e 1 = none →
      (∀ w ∈ wordsOf e 1, w ∉ d.flt.poison) → Does s (.agentMemoryAccess m) ({ d with free := d.free + 1 }.answer [d.statusByte i])) ∧
    (i < 128 → (d.statusByte (0x20 + i / 8)).getLsbD (i % 8) = (d.rd (STN_DROP.reg (Fin.ofNat 4 (i / 32)))).getLsbD (i % 32)) ∧
    (isHost m.agent = true ∨ m.agent = 0x58 → 0x28000000 ≤ e → e < 0x28004000 → d.fixedOk m.agent false e = false) ∧
    (host → r.via = .bar0 → r.size = 4 → a % 4 = 0 → a < 0x1000 → r.write = false →
      Does s (.registerWrite r) (c.regRead r.agent (0x400C0000 + a))) ∧
    (host → r.via = .bar0 → r.size = 4 → a % 4 = 0 → 0x4000 ≤ a → a < 0x8000 → c.mode ≠ mLOAD → r.write = false →
      Does s (.registerWrite r) (c.busRead r.agent window 4 .ok)) ∧
    (host → r.via = .bar0 → r.size = 4 → a % 4 = 0 → 0x4000 ≤ a → a < 0x8000 → c.mode = mLOAD → r.write = false →
      ¬ (inXspi window = true ∨ window / 0x10000 = 0x4000 ∨ window / 0x10000 = 0x4012) →
      Does s (.registerWrite r) ((c.refuse r.agent false window).denied r.agent 4)) ∧
    (isHost m.agent = true → HostReaches s → m.via = .bar2 → m.write = true → 1 ≤ n → n ≤ 256 → e + n ≤ 0x80000 →
      Does s (.agentMemoryAccess m) (d.busWrite m.agent (0x38000000 + e) m.data m.sets)) ∧
    (isHost m.agent = true → HostReaches s → m.via = .bar2 → m.write = true → 256 < n →
      Does s (.agentMemoryAccess m) ((dw.refuse m.agent true (0x38000000 + e)).answer []))

/-- The control-register space (R4): an aligned 32-bit access is accepted, that is, it becomes the read or the write of its register, and any other
access, by whatever
agent that reaches the chip and of whatever size, completes without an error and without a write, returns zeros to a read, and is recorded by the
guard: its agent, its direction
and its address stand in GRD_VINFO and GRD_VADDR, and nothing but the guard's record (and the host's HREF flag, and its wake source where the access
is a write, R450) has changed. -/
def Obligations.ControlRegistersTakeAlignedWordsOnly : Prop :=
  ∀ (s : State) (r : RegAccess) (m : MemAccess),
    let c := came s r.now
    let d := came s m.now
    let a := r.addr.toNat
    let b := m.addr.toNat
    let record (ag : AgentId) (write : Bool) : List Nat :=
      [GRD_VCNT.reg, GRD_VINFO.reg, GRD_VADDR.reg, GRD_STAT.reg] ++ (if isHost ag then [MBX_STAT.reg] else []) ++
        (if isHost ag && write then [PWR_WAKE.reg] else [])
    let turnedAway (c c' : Chip) (ag : AgentId) (write : Bool) (addr : Word) (n : Nat) : Prop :=
      c'.resp = ⟨List.replicate (if write then 0 else n) 0, false⟩ ∧ c'.get GRD_VINFO.AGENT = ag.toNat ∧ c'.get GRD_VINFO.DIR = write.toNat ∧
      c'.rd GRD_VADDR.reg = addr ∧ c'.get GRD_VCNT.CNT = min (c.get GRD_VCNT.CNT + 1) (2 ^ 32 - 1) ∧
      (∀ reg, reg ∉ record ag write → c'.rd reg = c.rd reg) ∧ c'.mem = c.mem ∧ c'.tasks = c.tasks ∧ c'.phys = c.phys ∧ c'.img = c.img
    let reaches (ag : AgentId) (v : Via) : Prop := v = .bus ∧ (isHost ag = true → HostReaches s)
    Canonical s → Powered s →
    (reaches r.agent r.via → inRegs a = true → r.size = 4 → a % 4 = 0 → isHost r.agent = false →
      exec (.registerWrite r) s = .next (at_ s (if r.write then c.regWrite a ⟨r.agent, r.value, false, r.sets, c.tb⟩ else c.regRead r.agent a))) ∧
    (reaches r.agent r.via → inRegs a = true → ¬ (r.size = 4 ∧ a % 4 = 0) →
      Leads (.registerWrite r) s fun c' => turnedAway c c' r.agent r.write r.addr r.size) ∧
    (reaches m.agent m.via → inRegs b = true → m.write = true → ¬ (m.data.length = 4 ∧ b % 4 = 0) →
      Leads (.agentMemoryAccess m) s fun c' => turnedAway d c' m.agent true m.addr 0) ∧
    (reaches m.agent m.via → inRegs b = true → m.write = false → ¬ (m.len = 4 ∧ b % 4 = 0) →
      Leads (.agentMemoryAccess m) s fun c' => turnedAway d c' m.agent false m.addr m.len)

/-- Writers of SYS_CMD (R53, R24): from MC0, MC1 and the host where it reaches the chip each of the six commands is admitted, that is, with its
key its code becomes LASTCMD, what pre-empts it and a transition in progress are looked at, and it takes its effect, and with another key it ends with
CMDERR 1 (whether LASTCMD then takes it is not claimed); from any other agent the write is refused: it completes with an error
response, the guard records the agent, the address and the direction, and nothing else has changed. -/
def Obligations.SysCmdIsWrittenByCoresAndHostAlone : Prop :=
  ∀ (s : State) (w : Cmd) (r : RegAccess),
    let u := written s w
    let refused (now : Time) (ag : AgentId) (c' : Chip) : Prop :=
      let c := came s now
      c'.resp = ⟨[], true⟩ ∧ c'.get GRD_VINFO.AGENT = ag.toNat ∧ c'.get GRD_VINFO.DIR = 1 ∧ c'.rd GRD_VADDR.reg = BitVec.ofNat 32 SYS_CMD.reg ∧
      (∀ reg, reg ∉ [GRD_VCNT.reg, GRD_VINFO.reg, GRD_VADDR.reg, GRD_STAT.reg] → c'.rd reg = c.rd reg) ∧
      c'.mem = c.mem ∧ c'.tasks = c.tasks ∧ c'.phys = c.phys ∧ c'.img = c.img ∧ c'.sys = c.sys
    let admitted (ag : AgentId) : Prop := ag = 0x01 ∨ ag = 0x02 ∨ ag = 0x40
    let rows : List ((Cmd → Instr) × Nat × (Chip → Chip)) :=
      [(.sysStop, 1, Chip.sysStop), (.sysRunCold, 2, fun c => c.sysRun false), (.sysRunWarm, 3, fun c => c.sysRun true),
       (.sysIntermission, 4, Chip.sysIntermission), (.sysLeaveSafehold, 5, Chip.sysLeave),
       (.sysSoftwareReset, 6, fun c => c.pinReset SYS_RSTCAUSE.SW)]
    Canonical s → Powered s →
    (∀ i ∈ rows, admitted w.agent → (isHost w.agent = true → HostReaches s) →
      let d := u.put SYS_CMDSTAT.LASTCMD i.2.1
      (SYS_CMD.KEY.of w.value = 0xC3A5 → exec (i.1 w) s = .next (at_ s (
        if w.preempted then d.cmdErr 5 else if d.flag SYS_MODE.TRANS then d.cmdErr 3 else i.2.2 d))) ∧
      (SYS_CMD.KEY.of w.value ≠ 0xC3A5 → exec (i.1 w) s = .next (at_ s (u.cmdErr 1)) ∨ exec (i.1 w) s = .next (at_ s (d.cmdErr 1)))) ∧
    (∀ i ∈ rows, ¬ admitted w.agent → Leads (i.1 w) s (refused w.now w.agent)) ∧
    (r.via = .bus → r.write = true → r.size = 4 → r.addr.toNat = SYS_CMD.reg → ¬ admitted r.agent → Leads (.registerWrite r) s (refused r.now r.agent))

/-- A step is the command at the front of the queue: for every command and state, step with the command in front is exec of it on the state with the queue's
rest. On an empty queue a tick of the 125 MHz clock passes (R19; that a step is then a tick is the model's choice, log entry 25): TB advances by 8 ns while
REFCLK runs and nothing steers it, by 16 ns or not at all where the standby follows the active unit's TB (R256) or PPS steers it (R405, log entry 117), and
without REFCLK or on a held chip the state stays as it is. -/
def Obligations.StepRunsFrontCommand : Prop :=
  (∀ (i : Instr) (s : State) (l : List Instr), step { s with pending := i :: l } = exec i { s with pending := l }) ∧
  ∀ s : State, s.pending = [] →
    let c := s.chip
    let adds (n : Time) (c' : Chip) : Prop := c'.tb = c.tb + n ∧ c'.regs = c.regs ∧ c'.mem = c.mem ∧ c'.tasks = c.tasks
    let steps (P : Chip → Prop) : Prop := ∃ t, step s = .next t ∧ t.pending = [] ∧ P t.chip
    let steered : Prop := c.flag RTC_PPSCTL.EN = true ∧ c.rtc.slews < c.get RTC_PPSCTL.MAXSLEW
    (¬ Powered s ∨ c.pins.refclk = false → step s = .next s) ∧
    (Powered s → c.pins.refclk = true → c.mode ≠ mFOLLOW → c.flag RTC_PPSCTL.EN = false → step s = .next (at_ s { c with tb := c.tb + 8 })) ∧
    (Powered s → c.pins.refclk = true → c.mode = mFOLLOW → 8 ≤ c.hsb.steer → steps fun c' => adds 16 c' ∧ c'.hsb.steer = c.hsb.steer - 8) ∧
    (Powered s → c.pins.refclk = true → c.mode = mFOLLOW → c.hsb.steer ≤ -8 → steps fun c' => adds 0 c' ∧ c'.hsb.steer = c.hsb.steer + 8) ∧
    (Powered s → c.pins.refclk = true → c.mode = mFOLLOW → -8 < c.hsb.steer → c.hsb.steer < 8 → step s = .next (at_ s { c with tb := c.tb + 8 })) ∧
    (Powered s → c.pins.refclk = true → c.mode ≠ mFOLLOW → steered → 8 ≤ c.rtc.slew → steps fun c' => adds 16 c' ∧ c'.rtc.slew = c.rtc.slew - 8) ∧
    (Powered s → c.pins.refclk = true → c.mode ≠ mFOLLOW → steered → c.rtc.slew ≤ -8 → steps fun c' => adds 0 c' ∧ c'.rtc.slew = c.rtc.slew + 8) ∧
    (Powered s → c.pins.refclk = true → c.mode ≠ mFOLLOW → c.flag RTC_PPSCTL.EN = true → c.get RTC_PPSCTL.MAXSLEW ≤ c.rtc.slews →
      steps fun c' => adds 8 c' ∧ c'.rtc.slew = c.rtc.slew)

/-- After reset, memory, the register file and the image stores are in canonical form (the model's representation of their contents; log entry 3 names
what an unlisted byte reads as), and the bounds of the hardware hold: no admission is held, and every return stack and mailbox queue is empty. -/
def Obligations.InvariantsHoldAtReset : Prop := Canonical State.reset ∧ WithinBounds State.reset.chip

/-- Every step keeps memory, the register file and the image stores in canonical form, whatever command is in front of the queue, so that every state of a
run that holds the same contents is the same data (the model's representation of their contents; log entry 3). -/
def Obligations.StepKeepsCanonical : Prop :=
  ∀ s t : State, Canonical s → step s = .next t → Canonical t

/-- Every command completes, with the rest of the queue as it was, but a power-on reset with TESTEN high, into whose test mode the spec does not follow the chip
(R484): that one stops under its name. And a chip that is halted after its power-fail flush, or held in power-on reset, runs nothing (R455, R490): every
command but the resets, a power-good, the end of a flush, what the clock of the backup domain does, and the supervisor's declarations of the feeds (R438;
that they reach a chip halted after a flush is the model's choice, log entry 141) leaves the state exactly as it is. -/
def Obligations.EveryCommandCompletesAndAHeldChipRunsNothing : Prop :=
  (∀ (i : Instr) (s : State),
    (∃ t, exec i s = .next t ∧ t.pending = s.pending) ∨ (∃ p now, i = .powerOnReset p now ∧ p.testen = true ∧ exec i s = .fault .testMode)) ∧
  ∀ (i : Instr) (s : State), ¬ Powered s →
    (∀ p now, i ≠ .powerOnReset p now) → (∀ now, i ≠ .pinReset now) → (∀ now, i ≠ .powerGoodLost now) → (∀ now, i ≠ .flushRecoveryReset now) →
    (∀ now, i ≠ .rtcSecondBoundary now) → (∀ now, i ≠ .trimSlotEnd now) → (∀ now, i ≠ .backupDomainBrownout now) →
    (∀ f now, i ≠ .feedLost f now) → (∀ f now, i ≠ .feedGood f now) → exec i s = .next s

/-- Every step keeps the bounds of the hardware, whatever command is in front of the queue: no more operations are admitted in a Turnstile class than it has
slots, and a requester holds at most one request and one operation in a class (R445, Table 18.3); every return stack holds at most 256 entries (R70, R87);
every pointer channel holds at most 16 (R340). -/
def Obligations.StepKeepsHardwareBounds : Prop :=
  ∀ s t : State, WithinBounds s.chip → step s = .next t → WithinBounds t.chip
end

