-- ==== Sys2Proof/Laws/State.lean ====
section
/-! SUPPORT. What each update of the chip leaves in each field: one lemma per update and field, true by computation, so that no proof unfolds a
record update. -/

namespace Sys2Proof.Laws

open Sys2Proof.Machine

/-! ### modTask -/

@[simp] theorem modTask_tb (c : Chip) (t : Fin 32) (f : Task → Task) : (c.modTask t f).tb = c.tb := rfl
@[simp] theorem modTask_idcode (c : Chip) (t : Fin 32) (f : Task → Task) : (c.modTask t f).idcode = c.idcode := rfl
@[simp] theorem modTask_regs (c : Chip) (t : Fin 32) (f : Task → Task) : (c.modTask t f).regs = c.regs := rfl
@[simp] theorem modTask_staged (c : Chip) (t : Fin 32) (f : Task → Task) : (c.modTask t f).staged = c.staged := rfl
@[simp] theorem modTask_mem (c : Chip) (t : Fin 32) (f : Task → Task) : (c.modTask t f).mem = c.mem := rfl
@[simp] theorem modTask_sys (c : Chip) (t : Fin 32) (f : Task → Task) : (c.modTask t f).sys = c.sys := rfl
@[simp] theorem modTask_image (c : Chip) (t : Fin 32) (f : Task → Task) : (c.modTask t f).image = c.image := rfl
@[simp] theorem modTask_img (c : Chip) (t : Fin 32) (f : Task → Task) : (c.modTask t f).img = c.img := rfl
@[simp] theorem modTask_tasks (c : Chip) (t : Fin 32) (f : Task → Task) : (c.modTask t f).tasks = c.tasks.set t (f c.tasks[t]) := rfl
@[simp] theorem modTask_engs (c : Chip) (t : Fin 32) (f : Task → Task) : (c.modTask t f).engs = c.engs := rfl
@[simp] theorem modTask_phys (c : Chip) (t : Fin 32) (f : Task → Task) : (c.modTask t f).phys = c.phys := rfl
@[simp] theorem modTask_cores (c : Chip) (t : Fin 32) (f : Task → Task) : (c.modTask t f).cores = c.cores := rfl
@[simp] theorem modTask_rings (c : Chip) (t : Fin 32) (f : Task → Task) : (c.modTask t f).rings = c.rings := rfl
@[simp] theorem modTask_hsb (c : Chip) (t : Fin 32) (f : Task → Task) : (c.modTask t f).hsb = c.hsb := rfl
@[simp] theorem modTask_olc (c : Chip) (t : Fin 32) (f : Task → Task) : (c.modTask t f).olc = c.olc := rfl
@[simp] theorem modTask_flt (c : Chip) (t : Fin 32) (f : Task → Task) : (c.modTask t f).flt = c.flt := rfl
@[simp] theorem modTask_pins (c : Chip) (t : Fin 32) (f : Task → Task) : (c.modTask t f).pins = c.pins := rfl
@[simp] theorem modTask_resp (c : Chip) (t : Fin 32) (f : Task → Task) : (c.modTask t f).resp = c.resp := rfl
@[simp] theorem modTask_free (c : Chip) (t : Fin 32) (f : Task → Task) : (c.modTask t f).free = c.free := rfl
@[simp] theorem modTask_rcd (c : Chip) (t : Fin 32) (f : Task → Task) : (c.modTask t f).rcd = c.rcd := rfl
@[simp] theorem modTask_turn (c : Chip) (t : Fin 32) (f : Task → Task) : (c.modTask t f).turn = c.turn := rfl
@[simp] theorem modTask_grd (c : Chip) (t : Fin 32) (f : Task → Task) : (c.modTask t f).grd = c.grd := rfl
@[simp] theorem modTask_mbx (c : Chip) (t : Fin 32) (f : Task → Task) : (c.modTask t f).mbx = c.mbx := rfl
@[simp] theorem modTask_rtc (c : Chip) (t : Fin 32) (f : Task → Task) : (c.modTask t f).rtc = c.rtc := rfl
@[simp] theorem modTask_wdg (c : Chip) (t : Fin 32) (f : Task → Task) : (c.modTask t f).wdg = c.wdg := rfl
@[simp] theorem modTask_nvs (c : Chip) (t : Fin 32) (f : Task → Task) : (c.modTask t f).nvs = c.nvs := rfl
@[simp] theorem modTask_cans (c : Chip) (t : Fin 32) (f : Task → Task) : (c.modTask t f).cans = c.cans := rfl
@[simp] theorem modTask_mim (c : Chip) (t : Fin 32) (f : Task → Task) : (c.modTask t f).mim = c.mim := rfl
@[simp] theorem modTask_pwr (c : Chip) (t : Fin 32) (f : Task → Task) : (c.modTask t f).pwr = c.pwr := rfl
@[simp] theorem modTask_upd (c : Chip) (t : Fin 32) (f : Task → Task) : (c.modTask t f).upd = c.upd := rfl
@[simp] theorem modTask_rd (c : Chip) (t : Fin 32) (f : Task → Task) (a : Nat) : (c.modTask t f).rd a = c.rd a := rfl
@[simp] theorem modTask_get (c : Chip) (t : Fin 32) (f : Task → Task) (g : Fld) : (c.modTask t f).get g = c.get g := rfl
@[simp] theorem modTask_flag (c : Chip) (t : Fin 32) (f : Task → Task) (g : Fld) : (c.modTask t f).flag g = c.flag g := rfl
@[simp] theorem modTask_ldB (c : Chip) (t : Fin 32) (f : Task → Task) (a : Nat) : (c.modTask t f).ldB a = c.ldB a := rfl
@[simp] theorem modTask_eng (c : Chip) (t : Fin 32) (f : Task → Task) (h : Fin 16) : (c.modTask t f).eng h = c.eng h := rfl
@[simp] theorem modTask_ph (c : Chip) (t : Fin 32) (f : Task → Task) (q : Fin 18) : (c.modTask t f).ph q = c.ph q := rfl
@[simp] theorem modTask_core (c : Chip) (t : Fin 32) (f : Task → Task) (k : Fin 2) : (c.modTask t f).core k = c.core k := rfl
@[simp] theorem modTask_ring (c : Chip) (t : Fin 32) (f : Task → Task) (s : Fin 4) : (c.modTask t f).ring s = c.ring s := rfl

/-! ### modEng -/

@[simp] theorem modEng_tb (c : Chip) (e : Fin 16) (f : Eng → Eng) : (c.modEng e f).tb = c.tb := rfl
@[simp] theorem modEng_idcode (c : Chip) (e : Fin 16) (f : Eng → Eng) : (c.modEng e f).idcode = c.idcode := rfl
@[simp] theorem modEng_regs (c : Chip) (e : Fin 16) (f : Eng → Eng) : (c.modEng e f).regs = c.regs := rfl
@[simp] theorem modEng_staged (c : Chip) (e : Fin 16) (f : Eng → Eng) : (c.modEng e f).staged = c.staged := rfl
@[simp] theorem modEng_mem (c : Chip) (e : Fin 16) (f : Eng → Eng) : (c.modEng e f).mem = c.mem := rfl
@[simp] theorem modEng_sys (c : Chip) (e : Fin 16) (f : Eng → Eng) : (c.modEng e f).sys = c.sys := rfl
@[simp] theorem modEng_image (c : Chip) (e : Fin 16) (f : Eng → Eng) : (c.modEng e f).image = c.image := rfl
@[simp] theorem modEng_img (c : Chip) (e : Fin 16) (f : Eng → Eng) : (c.modEng e f).img = c.img := rfl
@[simp] theorem modEng_tasks (c : Chip) (e : Fin 16) (f : Eng → Eng) : (c.modEng e f).tasks = c.tasks := rfl
@[simp] theorem modEng_engs (c : Chip) (e : Fin 16) (f : Eng → Eng) : (c.modEng e f).engs = c.engs.set e (f c.engs[e]) := rfl
@[simp] theorem modEng_phys (c : Chip) (e : Fin 16) (f : Eng → Eng) : (c.modEng e f).phys = c.phys := rfl
@[simp] theorem modEng_cores (c : Chip) (e : Fin 16) (f : Eng → Eng) : (c.modEng e f).cores = c.cores := rfl
@[simp] theorem modEng_rings (c : Chip) (e : Fin 16) (f : Eng → Eng) : (c.modEng e f).rings = c.rings := rfl
@[simp] theorem modEng_hsb (c : Chip) (e : Fin 16) (f : Eng → Eng) : (c.modEng e f).hsb = c.hsb := rfl
@[simp] theorem modEng_olc (c : Chip) (e : Fin 16) (f : Eng → Eng) : (c.modEng e f).olc = c.olc := rfl
@[simp] theorem modEng_flt (c : Chip) (e : Fin 16) (f : Eng → Eng) : (c.modEng e f).flt = c.flt := rfl
@[simp] theorem modEng_pins (c : Chip) (e : Fin 16) (f : Eng → Eng) : (c.modEng e f).pins = c.pins := rfl
@[simp] theorem modEng_resp (c : Chip) (e : Fin 16) (f : Eng → Eng) : (c.modEng e f).resp = c.resp := rfl
@[simp] theorem modEng_free (c : Chip) (e : Fin 16) (f : Eng → Eng) : (c.modEng e f).free = c.free := rfl
@[simp] theorem modEng_rcd (c : Chip) (e : Fin 16) (f : Eng → Eng) : (c.modEng e f).rcd = c.rcd := rfl
@[simp] theorem modEng_turn (c : Chip) (e : Fin 16) (f : Eng → Eng) : (c.modEng e f).turn = c.turn := rfl
@[simp] theorem modEng_grd (c : Chip) (e : Fin 16) (f : Eng → Eng) : (c.modEng e f).grd = c.grd := rfl
@[simp] theorem modEng_mbx (c : Chip) (e : Fin 16) (f : Eng → Eng) : (c.modEng e f).mbx = c.mbx := rfl
@[simp] theorem modEng_rtc (c : Chip) (e : Fin 16) (f : Eng → Eng) : (c.modEng e f).rtc = c.rtc := rfl
@[simp] theorem modEng_wdg (c : Chip) (e : Fin 16) (f : Eng → Eng) : (c.modEng e f).wdg = c.wdg := rfl
@[simp] theorem modEng_nvs (c : Chip) (e : Fin 16) (f : Eng → Eng) : (c.modEng e f).nvs = c.nvs := rfl
@[simp] theorem modEng_cans (c : Chip) (e : Fin 16) (f : Eng → Eng) : (c.modEng e f).cans = c.cans := rfl
@[simp] theorem modEng_mim (c : Chip) (e : Fin 16) (f : Eng → Eng) : (c.modEng e f).mim = c.mim := rfl
@[simp] theorem modEng_pwr (c : Chip) (e : Fin 16) (f : Eng → Eng) : (c.modEng e f).pwr = c.pwr := rfl
@[simp] theorem modEng_upd (c : Chip) (e : Fin 16) (f : Eng → Eng) : (c.modEng e f).upd = c.upd := rfl
@[simp] theorem modEng_rd (c : Chip) (e : Fin 16) (f : Eng → Eng) (a : Nat) : (c.modEng e f).rd a = c.rd a := rfl
@[simp] theorem modEng_get (c : Chip) (e : Fin 16) (f : Eng → Eng) (g : Fld) : (c.modEng e f).get g = c.get g := rfl
@[simp] theorem modEng_flag (c : Chip) (e : Fin 16) (f : Eng → Eng) (g : Fld) : (c.modEng e f).flag g = c.flag g := rfl
@[simp] theorem modEng_ldB (c : Chip) (e : Fin 16) (f : Eng → Eng) (a : Nat) : (c.modEng e f).ldB a = c.ldB a := rfl
@[simp] theorem modEng_task (c : Chip) (e : Fin 16) (f : Eng → Eng) (u : Fin 32) : (c.modEng e f).task u = c.task u := rfl
@[simp] theorem modEng_ph (c : Chip) (e : Fin 16) (f : Eng → Eng) (q : Fin 18) : (c.modEng e f).ph q = c.ph q := rfl
@[simp] theorem modEng_core (c : Chip) (e : Fin 16) (f : Eng → Eng) (k : Fin 2) : (c.modEng e f).core k = c.core k := rfl
@[simp] theorem modEng_ring (c : Chip) (e : Fin 16) (f : Eng → Eng) (s : Fin 4) : (c.modEng e f).ring s = c.ring s := rfl

/-! ### modPh -/

@[simp] theorem modPh_tb (c : Chip) (p : Fin 18) (f : Phys → Phys) : (c.modPh p f).tb = c.tb := rfl
@[simp] theorem modPh_idcode (c : Chip) (p : Fin 18) (f : Phys → Phys) : (c.modPh p f).idcode = c.idcode := rfl
@[simp] theorem modPh_regs (c : Chip) (p : Fin 18) (f : Phys → Phys) : (c.modPh p f).regs = c.regs := rfl
@[simp] theorem modPh_staged (c : Chip) (p : Fin 18) (f : Phys → Phys) : (c.modPh p f).staged = c.staged := rfl
@[simp] theorem modPh_mem (c : Chip) (p : Fin 18) (f : Phys → Phys) : (c.modPh p f).mem = c.mem := rfl
@[simp] theorem modPh_sys (c : Chip) (p : Fin 18) (f : Phys → Phys) : (c.modPh p f).sys = c.sys := rfl
@[simp] theorem modPh_image (c : Chip) (p : Fin 18) (f : Phys → Phys) : (c.modPh p f).image = c.image := rfl
@[simp] theorem modPh_img (c : Chip) (p : Fin 18) (f : Phys → Phys) : (c.modPh p f).img = c.img := rfl
@[simp] theorem modPh_tasks (c : Chip) (p : Fin 18) (f : Phys → Phys) : (c.modPh p f).tasks = c.tasks := rfl
@[simp] theorem modPh_engs (c : Chip) (p : Fin 18) (f : Phys → Phys) : (c.modPh p f).engs = c.engs := rfl
@[simp] theorem modPh_phys (c : Chip) (p : Fin 18) (f : Phys → Phys) : (c.modPh p f).phys = c.phys.set p (f c.phys[p]) := rfl
@[simp] theorem modPh_cores (c : Chip) (p : Fin 18) (f : Phys → Phys) : (c.modPh p f).cores = c.cores := rfl
@[simp] theorem modPh_rings (c : Chip) (p : Fin 18) (f : Phys → Phys) : (c.modPh p f).rings = c.rings := rfl
@[simp] theorem modPh_hsb (c : Chip) (p : Fin 18) (f : Phys → Phys) : (c.modPh p f).hsb = c.hsb := rfl
@[simp] theorem modPh_olc (c : Chip) (p : Fin 18) (f : Phys → Phys) : (c.modPh p f).olc = c.olc := rfl
@[simp] theorem modPh_flt (c : Chip) (p : Fin 18) (f : Phys → Phys) : (c.modPh p f).flt = c.flt := rfl
@[simp] theorem modPh_pins (c : Chip) (p : Fin 18) (f : Phys → Phys) : (c.modPh p f).pins = c.pins := rfl
@[simp] theorem modPh_resp (c : Chip) (p : Fin 18) (f : Phys → Phys) : (c.modPh p f).resp = c.resp := rfl
@[simp] theorem modPh_free (c : Chip) (p : Fin 18) (f : Phys → Phys) : (c.modPh p f).free = c.free := rfl
@[simp] theorem modPh_rcd (c : Chip) (p : Fin 18) (f : Phys → Phys) : (c.modPh p f).rcd = c.rcd := rfl
@[simp] theorem modPh_turn (c : Chip) (p : Fin 18) (f : Phys → Phys) : (c.modPh p f).turn = c.turn := rfl
@[simp] theorem modPh_grd (c : Chip) (p : Fin 18) (f : Phys → Phys) : (c.modPh p f).grd = c.grd := rfl
@[simp] theorem modPh_mbx (c : Chip) (p : Fin 18) (f : Phys → Phys) : (c.modPh p f).mbx = c.mbx := rfl
@[simp] theorem modPh_rtc (c : Chip) (p : Fin 18) (f : Phys → Phys) : (c.modPh p f).rtc = c.rtc := rfl
@[simp] theorem modPh_wdg (c : Chip) (p : Fin 18) (f : Phys → Phys) : (c.modPh p f).wdg = c.wdg := rfl
@[simp] theorem modPh_nvs (c : Chip) (p : Fin 18) (f : Phys → Phys) : (c.modPh p f).nvs = c.nvs := rfl
@[simp] theorem modPh_cans (c : Chip) (p : Fin 18) (f : Phys → Phys) : (c.modPh p f).cans = c.cans := rfl
@[simp] theorem modPh_mim (c : Chip) (p : Fin 18) (f : Phys → Phys) : (c.modPh p f).mim = c.mim := rfl
@[simp] theorem modPh_pwr (c : Chip) (p : Fin 18) (f : Phys → Phys) : (c.modPh p f).pwr = c.pwr := rfl
@[simp] theorem modPh_upd (c : Chip) (p : Fin 18) (f : Phys → Phys) : (c.modPh p f).upd = c.upd := rfl
@[simp] theorem modPh_rd (c : Chip) (p : Fin 18) (f : Phys → Phys) (a : Nat) : (c.modPh p f).rd a = c.rd a := rfl
@[simp] theorem modPh_get (c : Chip) (p : Fin 18) (f : Phys → Phys) (g : Fld) : (c.modPh p f).get g = c.get g := rfl
@[simp] theorem modPh_flag (c : Chip) (p : Fin 18) (f : Phys → Phys) (g : Fld) : (c.modPh p f).flag g = c.flag g := rfl
@[simp] theorem modPh_ldB (c : Chip) (p : Fin 18) (f : Phys → Phys) (a : Nat) : (c.modPh p f).ldB a = c.ldB a := rfl
@[simp] theorem modPh_task (c : Chip) (p : Fin 18) (f : Phys → Phys) (u : Fin 32) : (c.modPh p f).task u = c.task u := rfl
@[simp] theorem modPh_eng (c : Chip) (p : Fin 18) (f : Phys → Phys) (h : Fin 16) : (c.modPh p f).eng h = c.eng h := rfl
@[simp] theorem modPh_core (c : Chip) (p : Fin 18) (f : Phys → Phys) (k : Fin 2) : (c.modPh p f).core k = c.core k := rfl
@[simp] theorem modPh_ring (c : Chip) (p : Fin 18) (f : Phys → Phys) (s : Fin 4) : (c.modPh p f).ring s = c.ring s := rfl

/-! ### modCore -/

@[simp] theorem modCore_tb (c : Chip) (m : Fin 2) (f : Core → Core) : (c.modCore m f).tb = c.tb := rfl
@[simp] theorem modCore_idcode (c : Chip) (m : Fin 2) (f : Core → Core) : (c.modCore m f).idcode = c.idcode := rfl
@[simp] theorem modCore_regs (c : Chip) (m : Fin 2) (f : Core → Core) : (c.modCore m f).regs = c.regs := rfl
@[simp] theorem modCore_staged (c : Chip) (m : Fin 2) (f : Core → Core) : (c.modCore m f).staged = c.staged := rfl
@[simp] theorem modCore_mem (c : Chip) (m : Fin 2) (f : Core → Core) : (c.modCore m f).mem = c.mem := rfl
@[simp] theorem modCore_sys (c : Chip) (m : Fin 2) (f : Core → Core) : (c.modCore m f).sys = c.sys := rfl
@[simp] theorem modCore_image (c : Chip) (m : Fin 2) (f : Core → Core) : (c.modCore m f).image = c.image := rfl
@[simp] theorem modCore_img (c : Chip) (m : Fin 2) (f : Core → Core) : (c.modCore m f).img = c.img := rfl
@[simp] theorem modCore_tasks (c : Chip) (m : Fin 2) (f : Core → Core) : (c.modCore m f).tasks = c.tasks := rfl
@[simp] theorem modCore_engs (c : Chip) (m : Fin 2) (f : Core → Core) : (c.modCore m f).engs = c.engs := rfl
@[simp] theorem modCore_phys (c : Chip) (m : Fin 2) (f : Core → Core) : (c.modCore m f).phys = c.phys := rfl
@[simp] theorem modCore_cores (c : Chip) (m : Fin 2) (f : Core → Core) : (c.modCore m f).cores = c.cores.set m (f c.cores[m]) := rfl
@[simp] theorem modCore_rings (c : Chip) (m : Fin 2) (f : Core → Core) : (c.modCore m f).rings = c.rings := rfl
@[simp] theorem modCore_hsb (c : Chip) (m : Fin 2) (f : Core → Core) : (c.modCore m f).hsb = c.hsb := rfl
@[simp] theorem modCore_olc (c : Chip) (m : Fin 2) (f : Core → Core) : (c.modCore m f).olc = c.olc := rfl
@[simp] theorem modCore_flt (c : Chip) (m : Fin 2) (f : Core → Core) : (c.modCore m f).flt = c.flt := rfl
@[simp] theorem modCore_pins (c : Chip) (m : Fin 2) (f : Core → Core) : (c.modCore m f).pins = c.pins := rfl
@[simp] theorem modCore_resp (c : Chip) (m : Fin 2) (f : Core → Core) : (c.modCore m f).resp = c.resp := rfl
@[simp] theorem modCore_free (c : Chip) (m : Fin 2) (f : Core → Core) : (c.modCore m f).free = c.free := rfl
@[simp] theorem modCore_rcd (c : Chip) (m : Fin 2) (f : Core → Core) : (c.modCore m f).rcd = c.rcd := rfl
@[simp] theorem modCore_turn (c : Chip) (m : Fin 2) (f : Core → Core) : (c.modCore m f).turn = c.turn := rfl
@[simp] theorem modCore_grd (c : Chip) (m : Fin 2) (f : Core → Core) : (c.modCore m f).grd = c.grd := rfl
@[simp] theorem modCore_mbx (c : Chip) (m : Fin 2) (f : Core → Core) : (c.modCore m f).mbx = c.mbx := rfl
@[simp] theorem modCore_rtc (c : Chip) (m : Fin 2) (f : Core → Core) : (c.modCore m f).rtc = c.rtc := rfl
@[simp] theorem modCore_wdg (c : Chip) (m : Fin 2) (f : Core → Core) : (c.modCore m f).wdg = c.wdg := rfl
@[simp] theorem modCore_nvs (c : Chip) (m : Fin 2) (f : Core → Core) : (c.modCore m f).nvs = c.nvs := rfl
@[simp] theorem modCore_cans (c : Chip) (m : Fin 2) (f : Core → Core) : (c.modCore m f).cans = c.cans := rfl
@[simp] theorem modCore_mim (c : Chip) (m : Fin 2) (f : Core → Core) : (c.modCore m f).mim = c.mim := rfl
@[simp] theorem modCore_pwr (c : Chip) (m : Fin 2) (f : Core → Core) : (c.modCore m f).pwr = c.pwr := rfl
@[simp] theorem modCore_upd (c : Chip) (m : Fin 2) (f : Core → Core) : (c.modCore m f).upd = c.upd := rfl
@[simp] theorem modCore_rd (c : Chip) (m : Fin 2) (f : Core → Core) (a : Nat) : (c.modCore m f).rd a = c.rd a := rfl
@[simp] theorem modCore_get (c : Chip) (m : Fin 2) (f : Core → Core) (g : Fld) : (c.modCore m f).get g = c.get g := rfl
@[simp] theorem modCore_flag (c : Chip) (m : Fin 2) (f : Core → Core) (g : Fld) : (c.modCore m f).flag g = c.flag g := rfl
@[simp] theorem modCore_ldB (c : Chip) (m : Fin 2) (f : Core → Core) (a : Nat) : (c.modCore m f).ldB a = c.ldB a := rfl
@[simp] theorem modCore_task (c : Chip) (m : Fin 2) (f : Core → Core) (u : Fin 32) : (c.modCore m f).task u = c.task u := rfl
@[simp] theorem modCore_eng (c : Chip) (m : Fin 2) (f : Core → Core) (h : Fin 16) : (c.modCore m f).eng h = c.eng h := rfl
@[simp] theorem modCore_ph (c : Chip) (m : Fin 2) (f : Core → Core) (q : Fin 18) : (c.modCore m f).ph q = c.ph q := rfl
@[simp] theorem modCore_ring (c : Chip) (m : Fin 2) (f : Core → Core) (s : Fin 4) : (c.modCore m f).ring s = c.ring s := rfl

/-! ### modRing -/

@[simp] theorem modRing_tb (c : Chip) (r : Fin 4) (f : Ring → Ring) : (c.modRing r f).tb = c.tb := rfl
@[simp] theorem modRing_idcode (c : Chip) (r : Fin 4) (f : Ring → Ring) : (c.modRing r f).idcode = c.idcode := rfl
@[simp] theorem modRing_regs (c : Chip) (r : Fin 4) (f : Ring → Ring) : (c.modRing r f).regs = c.regs := rfl
@[simp] theorem modRing_staged (c : Chip) (r : Fin 4) (f : Ring → Ring) : (c.modRing r f).staged = c.staged := rfl
@[simp] theorem modRing_mem (c : Chip) (r : Fin 4) (f : Ring → Ring) : (c.modRing r f).mem = c.mem := rfl
@[simp] theorem modRing_sys (c : Chip) (r : Fin 4) (f : Ring → Ring) : (c.modRing r f).sys = c.sys := rfl
@[simp] theorem modRing_image (c : Chip) (r : Fin 4) (f : Ring → Ring) : (c.modRing r f).image = c.image := rfl
@[simp] theorem modRing_img (c : Chip) (r : Fin 4) (f : Ring → Ring) : (c.modRing r f).img = c.img := rfl
@[simp] theorem modRing_tasks (c : Chip) (r : Fin 4) (f : Ring → Ring) : (c.modRing r f).tasks = c.tasks := rfl
@[simp] theorem modRing_engs (c : Chip) (r : Fin 4) (f : Ring → Ring) : (c.modRing r f).engs = c.engs := rfl
@[simp] theorem modRing_phys (c : Chip) (r : Fin 4) (f : Ring → Ring) : (c.modRing r f).phys = c.phys := rfl
@[simp] theorem modRing_cores (c : Chip) (r : Fin 4) (f : Ring → Ring) : (c.modRing r f).cores = c.cores := rfl
@[simp] theorem modRing_rings (c : Chip) (r : Fin 4) (f : Ring → Ring) : (c.modRing r f).rings = c.rings.set r (f c.rings[r]) := rfl
@[simp] theorem modRing_hsb (c : Chip) (r : Fin 4) (f : Ring → Ring) : (c.modRing r f).hsb = c.hsb := rfl
@[simp] theorem modRing_olc (c : Chip) (r : Fin 4) (f : Ring → Ring) : (c.modRing r f).olc = c.olc := rfl
@[simp] theorem modRing_flt (c : Chip) (r : Fin 4) (f : Ring → Ring) : (c.modRing r f).flt = c.flt := rfl
@[simp] theorem modRing_pins (c : Chip) (r : Fin 4) (f : Ring → Ring) : (c.modRing r f).pins = c.pins := rfl
@[simp] theorem modRing_resp (c : Chip) (r : Fin 4) (f : Ring → Ring) : (c.modRing r f).resp = c.resp := rfl
@[simp] theorem modRing_free (c : Chip) (r : Fin 4) (f : Ring → Ring) : (c.modRing r f).free = c.free := rfl
@[simp] theorem modRing_rcd (c : Chip) (r : Fin 4) (f : Ring → Ring) : (c.modRing r f).rcd = c.rcd := rfl
@[simp] theorem modRing_turn (c : Chip) (r : Fin 4) (f : Ring → Ring) : (c.modRing r f).turn = c.turn := rfl
@[simp] theorem modRing_grd (c : Chip) (r : Fin 4) (f : Ring → Ring) : (c.modRing r f).grd = c.grd := rfl
@[simp] theorem modRing_mbx (c : Chip) (r : Fin 4) (f : Ring → Ring) : (c.modRing r f).mbx = c.mbx := rfl
@[simp] theorem modRing_rtc (c : Chip) (r : Fin 4) (f : Ring → Ring) : (c.modRing r f).rtc = c.rtc := rfl
@[simp] theorem modRing_wdg (c : Chip) (r : Fin 4) (f : Ring → Ring) : (c.modRing r f).wdg = c.wdg := rfl
@[simp] theorem modRing_nvs (c : Chip) (r : Fin 4) (f : Ring → Ring) : (c.modRing r f).nvs = c.nvs := rfl
@[simp] theorem modRing_cans (c : Chip) (r : Fin 4) (f : Ring → Ring) : (c.modRing r f).cans = c.cans := rfl
@[simp] theorem modRing_mim (c : Chip) (r : Fin 4) (f : Ring → Ring) : (c.modRing r f).mim = c.mim := rfl
@[simp] theorem modRing_pwr (c : Chip) (r : Fin 4) (f : Ring → Ring) : (c.modRing r f).pwr = c.pwr := rfl
@[simp] theorem modRing_upd (c : Chip) (r : Fin 4) (f : Ring → Ring) : (c.modRing r f).upd = c.upd := rfl
@[simp] theorem modRing_rd (c : Chip) (r : Fin 4) (f : Ring → Ring) (a : Nat) : (c.modRing r f).rd a = c.rd a := rfl
@[simp] theorem modRing_get (c : Chip) (r : Fin 4) (f : Ring → Ring) (g : Fld) : (c.modRing r f).get g = c.get g := rfl
@[simp] theorem modRing_flag (c : Chip) (r : Fin 4) (f : Ring → Ring) (g : Fld) : (c.modRing r f).flag g = c.flag g := rfl
@[simp] theorem modRing_ldB (c : Chip) (r : Fin 4) (f : Ring → Ring) (a : Nat) : (c.modRing r f).ldB a = c.ldB a := rfl
@[simp] theorem modRing_task (c : Chip) (r : Fin 4) (f : Ring → Ring) (u : Fin 32) : (c.modRing r f).task u = c.task u := rfl
@[simp] theorem modRing_eng (c : Chip) (r : Fin 4) (f : Ring → Ring) (h : Fin 16) : (c.modRing r f).eng h = c.eng h := rfl
@[simp] theorem modRing_ph (c : Chip) (r : Fin 4) (f : Ring → Ring) (q : Fin 18) : (c.modRing r f).ph q = c.ph q := rfl
@[simp] theorem modRing_core (c : Chip) (r : Fin 4) (f : Ring → Ring) (k : Fin 2) : (c.modRing r f).core k = c.core k := rfl

/-! ### modCan -/

@[simp] theorem modCan_tb (c : Chip) (n : Fin 4) (f : Can → Can) : (c.modCan n f).tb = c.tb := rfl
@[simp] theorem modCan_idcode (c : Chip) (n : Fin 4) (f : Can → Can) : (c.modCan n f).idcode = c.idcode := rfl
@[simp] theorem modCan_regs (c : Chip) (n : Fin 4) (f : Can → Can) : (c.modCan n f).regs = c.regs := rfl
@[simp] theorem modCan_staged (c : Chip) (n : Fin 4) (f : Can → Can) : (c.modCan n f).staged = c.staged := rfl
@[simp] theorem modCan_mem (c : Chip) (n : Fin 4) (f : Can → Can) : (c.modCan n f).mem = c.mem := rfl
@[simp] theorem modCan_sys (c : Chip) (n : Fin 4) (f : Can → Can) : (c.modCan n f).sys = c.sys := rfl
@[simp] theorem modCan_image (c : Chip) (n : Fin 4) (f : Can → Can) : (c.modCan n f).image = c.image := rfl
@[simp] theorem modCan_img (c : Chip) (n : Fin 4) (f : Can → Can) : (c.modCan n f).img = c.img := rfl
@[simp] theorem modCan_tasks (c : Chip) (n : Fin 4) (f : Can → Can) : (c.modCan n f).tasks = c.tasks := rfl
@[simp] theorem modCan_engs (c : Chip) (n : Fin 4) (f : Can → Can) : (c.modCan n f).engs = c.engs := rfl
@[simp] theorem modCan_phys (c : Chip) (n : Fin 4) (f : Can → Can) : (c.modCan n f).phys = c.phys := rfl
@[simp] theorem modCan_cores (c : Chip) (n : Fin 4) (f : Can → Can) : (c.modCan n f).cores = c.cores := rfl
@[simp] theorem modCan_rings (c : Chip) (n : Fin 4) (f : Can → Can) : (c.modCan n f).rings = c.rings := rfl
@[simp] theorem modCan_hsb (c : Chip) (n : Fin 4) (f : Can → Can) : (c.modCan n f).hsb = c.hsb := rfl
@[simp] theorem modCan_olc (c : Chip) (n : Fin 4) (f : Can → Can) : (c.modCan n f).olc = c.olc := rfl
@[simp] theorem modCan_flt (c : Chip) (n : Fin 4) (f : Can → Can) : (c.modCan n f).flt = c.flt := rfl
@[simp] theorem modCan_pins (c : Chip) (n : Fin 4) (f : Can → Can) : (c.modCan n f).pins = c.pins := rfl
@[simp] theorem modCan_resp (c : Chip) (n : Fin 4) (f : Can → Can) : (c.modCan n f).resp = c.resp := rfl
@[simp] theorem modCan_free (c : Chip) (n : Fin 4) (f : Can → Can) : (c.modCan n f).free = c.free := rfl
@[simp] theorem modCan_rcd (c : Chip) (n : Fin 4) (f : Can → Can) : (c.modCan n f).rcd = c.rcd := rfl
@[simp] theorem modCan_turn (c : Chip) (n : Fin 4) (f : Can → Can) : (c.modCan n f).turn = c.turn := rfl
@[simp] theorem modCan_grd (c : Chip) (n : Fin 4) (f : Can → Can) : (c.modCan n f).grd = c.grd := rfl
@[simp] theorem modCan_mbx (c : Chip) (n : Fin 4) (f : Can → Can) : (c.modCan n f).mbx = c.mbx := rfl
@[simp] theorem modCan_rtc (c : Chip) (n : Fin 4) (f : Can → Can) : (c.modCan n f).rtc = c.rtc := rfl
@[simp] theorem modCan_wdg (c : Chip) (n : Fin 4) (f : Can → Can) : (c.modCan n f).wdg = c.wdg := rfl
@[simp] theorem modCan_nvs (c : Chip) (n : Fin 4) (f : Can → Can) : (c.modCan n f).nvs = c.nvs := rfl
@[simp] theorem modCan_cans (c : Chip) (n : Fin 4) (f : Can → Can) : (c.modCan n f).cans = c.cans.set n (f c.cans[n]) := rfl
@[simp] theorem modCan_mim (c : Chip) (n : Fin 4) (f : Can → Can) : (c.modCan n f).mim = c.mim := rfl
@[simp] theorem modCan_pwr (c : Chip) (n : Fin 4) (f : Can → Can) : (c.modCan n f).pwr = c.pwr := rfl
@[simp] theorem modCan_upd (c : Chip) (n : Fin 4) (f : Can → Can) : (c.modCan n f).upd = c.upd := rfl
@[simp] theorem modCan_rd (c : Chip) (n : Fin 4) (f : Can → Can) (a : Nat) : (c.modCan n f).rd a = c.rd a := rfl
@[simp] theorem modCan_get (c : Chip) (n : Fin 4) (f : Can → Can) (g : Fld) : (c.modCan n f).get g = c.get g := rfl
@[simp] theorem modCan_flag (c : Chip) (n : Fin 4) (f : Can → Can) (g : Fld) : (c.modCan n f).flag g = c.flag g := rfl
@[simp] theorem modCan_ldB (c : Chip) (n : Fin 4) (f : Can → Can) (a : Nat) : (c.modCan n f).ldB a = c.ldB a := rfl
@[simp] theorem modCan_task (c : Chip) (n : Fin 4) (f : Can → Can) (u : Fin 32) : (c.modCan n f).task u = c.task u := rfl
@[simp] theorem modCan_eng (c : Chip) (n : Fin 4) (f : Can → Can) (h : Fin 16) : (c.modCan n f).eng h = c.eng h := rfl
@[simp] theorem modCan_ph (c : Chip) (n : Fin 4) (f : Can → Can) (q : Fin 18) : (c.modCan n f).ph q = c.ph q := rfl
@[simp] theorem modCan_core (c : Chip) (n : Fin 4) (f : Can → Can) (k : Fin 2) : (c.modCan n f).core k = c.core k := rfl
@[simp] theorem modCan_ring (c : Chip) (n : Fin 4) (f : Can → Can) (s : Fin 4) : (c.modCan n f).ring s = c.ring s := rfl

/-! ### modHsb -/

@[simp] theorem modHsb_tb (c : Chip) (f : Hsb → Hsb) : (c.modHsb f).tb = c.tb := rfl
@[simp] theorem modHsb_idcode (c : Chip) (f : Hsb → Hsb) : (c.modHsb f).idcode = c.idcode := rfl
@[simp] theorem modHsb_regs (c : Chip) (f : Hsb → Hsb) : (c.modHsb f).regs = c.regs := rfl
@[simp] theorem modHsb_staged (c : Chip) (f : Hsb → Hsb) : (c.modHsb f).staged = c.staged := rfl
@[simp] theorem modHsb_mem (c : Chip) (f : Hsb → Hsb) : (c.modHsb f).mem = c.mem := rfl
@[simp] theorem modHsb_sys (c : Chip) (f : Hsb → Hsb) : (c.modHsb f).sys = c.sys := rfl
@[simp] theorem modHsb_image (c : Chip) (f : Hsb → Hsb) : (c.modHsb f).image = c.image := rfl
@[simp] theorem modHsb_img (c : Chip) (f : Hsb → Hsb) : (c.modHsb f).img = c.img := rfl
@[simp] theorem modHsb_tasks (c : Chip) (f : Hsb → Hsb) : (c.modHsb f).tasks = c.tasks := rfl
@[simp] theorem modHsb_engs (c : Chip) (f : Hsb → Hsb) : (c.modHsb f).engs = c.engs := rfl
@[simp] theorem modHsb_phys (c : Chip) (f : Hsb → Hsb) : (c.modHsb f).phys = c.phys := rfl
@[simp] theorem modHsb_cores (c : Chip) (f : Hsb → Hsb) : (c.modHsb f).cores = c.cores := rfl
@[simp] theorem modHsb_rings (c : Chip) (f : Hsb → Hsb) : (c.modHsb f).rings = c.rings := rfl
@[simp] theorem modHsb_hsb (c : Chip) (f : Hsb → Hsb) : (c.modHsb f).hsb = f c.hsb := rfl
@[simp] theorem modHsb_olc (c : Chip) (f : Hsb → Hsb) : (c.modHsb f).olc = c.olc := rfl
@[simp] theorem modHsb_flt (c : Chip) (f : Hsb → Hsb) : (c.modHsb f).flt = c.flt := rfl
@[simp] theorem modHsb_pins (c : Chip) (f : Hsb → Hsb) : (c.modHsb f).pins = c.pins := rfl
@[simp] theorem modHsb_resp (c : Chip) (f : Hsb → Hsb) : (c.modHsb f).resp = c.resp := rfl
@[simp] theorem modHsb_free (c : Chip) (f : Hsb → Hsb) : (c.modHsb f).free = c.free := rfl
@[simp] theorem modHsb_rcd (c : Chip) (f : Hsb → Hsb) : (c.modHsb f).rcd = c.rcd := rfl
@[simp] theorem modHsb_turn (c : Chip) (f : Hsb → Hsb) : (c.modHsb f).turn = c.turn := rfl
@[simp] theorem modHsb_grd (c : Chip) (f : Hsb → Hsb) : (c.modHsb f).grd = c.grd := rfl
@[simp] theorem modHsb_mbx (c : Chip) (f : Hsb → Hsb) : (c.modHsb f).mbx = c.mbx := rfl
@[simp] theorem modHsb_rtc (c : Chip) (f : Hsb → Hsb) : (c.modHsb f).rtc = c.rtc := rfl
@[simp] theorem modHsb_wdg (c : Chip) (f : Hsb → Hsb) : (c.modHsb f).wdg = c.wdg := rfl
@[simp] theorem modHsb_nvs (c : Chip) (f : Hsb → Hsb) : (c.modHsb f).nvs = c.nvs := rfl
@[simp] theorem modHsb_cans (c : Chip) (f : Hsb → Hsb) : (c.modHsb f).cans = c.cans := rfl
@[simp] theorem modHsb_mim (c : Chip) (f : Hsb → Hsb) : (c.modHsb f).mim = c.mim := rfl
@[simp] theorem modHsb_pwr (c : Chip) (f : Hsb → Hsb) : (c.modHsb f).pwr = c.pwr := rfl
@[simp] theorem modHsb_upd (c : Chip) (f : Hsb → Hsb) : (c.modHsb f).upd = c.upd := rfl
@[simp] theorem modHsb_rd (c : Chip) (f : Hsb → Hsb) (a : Nat) : (c.modHsb f).rd a = c.rd a := rfl
@[simp] theorem modHsb_get (c : Chip) (f : Hsb → Hsb) (g : Fld) : (c.modHsb f).get g = c.get g := rfl
@[simp] theorem modHsb_flag (c : Chip) (f : Hsb → Hsb) (g : Fld) : (c.modHsb f).flag g = c.flag g := rfl
@[simp] theorem modHsb_ldB (c : Chip) (f : Hsb → Hsb) (a : Nat) : (c.modHsb f).ldB a = c.ldB a := rfl
@[simp] theorem modHsb_task (c : Chip) (f : Hsb → Hsb) (u : Fin 32) : (c.modHsb f).task u = c.task u := rfl
@[simp] theorem modHsb_eng (c : Chip) (f : Hsb → Hsb) (h : Fin 16) : (c.modHsb f).eng h = c.eng h := rfl
@[simp] theorem modHsb_ph (c : Chip) (f : Hsb → Hsb) (q : Fin 18) : (c.modHsb f).ph q = c.ph q := rfl
@[simp] theorem modHsb_core (c : Chip) (f : Hsb → Hsb) (k : Fin 2) : (c.modHsb f).core k = c.core k := rfl
@[simp] theorem modHsb_ring (c : Chip) (f : Hsb → Hsb) (s : Fin 4) : (c.modHsb f).ring s = c.ring s := rfl

/-! ### modOlc -/

@[simp] theorem modOlc_tb (c : Chip) (f : Olc → Olc) : (c.modOlc f).tb = c.tb := rfl
@[simp] theorem modOlc_idcode (c : Chip) (f : Olc → Olc) : (c.modOlc f).idcode = c.idcode := rfl
@[simp] theorem modOlc_regs (c : Chip) (f : Olc → Olc) : (c.modOlc f).regs = c.regs := rfl
@[simp] theorem modOlc_staged (c : Chip) (f : Olc → Olc) : (c.modOlc f).staged = c.staged := rfl
@[simp] theorem modOlc_mem (c : Chip) (f : Olc → Olc) : (c.modOlc f).mem = c.mem := rfl
@[simp] theorem modOlc_sys (c : Chip) (f : Olc → Olc) : (c.modOlc f).sys = c.sys := rfl
@[simp] theorem modOlc_image (c : Chip) (f : Olc → Olc) : (c.modOlc f).image = c.image := rfl
@[simp] theorem modOlc_img (c : Chip) (f : Olc → Olc) : (c.modOlc f).img = c.img := rfl
@[simp] theorem modOlc_tasks (c : Chip) (f : Olc → Olc) : (c.modOlc f).tasks = c.tasks := rfl
@[simp] theorem modOlc_engs (c : Chip) (f : Olc → Olc) : (c.modOlc f).engs = c.engs := rfl
@[simp] theorem modOlc_phys (c : Chip) (f : Olc → Olc) : (c.modOlc f).phys = c.phys := rfl
@[simp] theorem modOlc_cores (c : Chip) (f : Olc → Olc) : (c.modOlc f).cores = c.cores := rfl
@[simp] theorem modOlc_rings (c : Chip) (f : Olc → Olc) : (c.modOlc f).rings = c.rings := rfl
@[simp] theorem modOlc_hsb (c : Chip) (f : Olc → Olc) : (c.modOlc f).hsb = c.hsb := rfl
@[simp] theorem modOlc_olc (c : Chip) (f : Olc → Olc) : (c.modOlc f).olc = f c.olc := rfl
@[simp] theorem modOlc_flt (c : Chip) (f : Olc → Olc) : (c.modOlc f).flt = c.flt := rfl
@[simp] theorem modOlc_pins (c : Chip) (f : Olc → Olc) : (c.modOlc f).pins = c.pins := rfl
@[simp] theorem modOlc_resp (c : Chip) (f : Olc → Olc) : (c.modOlc f).resp = c.resp := rfl
@[simp] theorem modOlc_free (c : Chip) (f : Olc → Olc) : (c.modOlc f).free = c.free := rfl
@[simp] theorem modOlc_rcd (c : Chip) (f : Olc → Olc) : (c.modOlc f).rcd = c.rcd := rfl
@[simp] theorem modOlc_turn (c : Chip) (f : Olc → Olc) : (c.modOlc f).turn = c.turn := rfl
@[simp] theorem modOlc_grd (c : Chip) (f : Olc → Olc) : (c.modOlc f).grd = c.grd := rfl
@[simp] theorem modOlc_mbx (c : Chip) (f : Olc → Olc) : (c.modOlc f).mbx = c.mbx := rfl
@[simp] theorem modOlc_rtc (c : Chip) (f : Olc → Olc) : (c.modOlc f).rtc = c.rtc := rfl
@[simp] theorem modOlc_wdg (c : Chip) (f : Olc → Olc) : (c.modOlc f).wdg = c.wdg := rfl
@[simp] theorem modOlc_nvs (c : Chip) (f : Olc → Olc) : (c.modOlc f).nvs = c.nvs := rfl
@[simp] theorem modOlc_cans (c : Chip) (f : Olc → Olc) : (c.modOlc f).cans = c.cans := rfl
@[simp] theorem modOlc_mim (c : Chip) (f : Olc → Olc) : (c.modOlc f).mim = c.mim := rfl
@[simp] theorem modOlc_pwr (c : Chip) (f : Olc → Olc) : (c.modOlc f).pwr = c.pwr := rfl
@[simp] theorem modOlc_upd (c : Chip) (f : Olc → Olc) : (c.modOlc f).upd = c.upd := rfl
@[simp] theorem modOlc_rd (c : Chip) (f : Olc → Olc) (a : Nat) : (c.modOlc f).rd a = c.rd a := rfl
@[simp] theorem modOlc_get (c : Chip) (f : Olc → Olc) (g : Fld) : (c.modOlc f).get g = c.get g := rfl
@[simp] theorem modOlc_flag (c : Chip) (f : Olc → Olc) (g : Fld) : (c.modOlc f).flag g = c.flag g := rfl
@[simp] theorem modOlc_ldB (c : Chip) (f : Olc → Olc) (a : Nat) : (c.modOlc f).ldB a = c.ldB a := rfl
@[simp] theorem modOlc_task (c : Chip) (f : Olc → Olc) (u : Fin 32) : (c.modOlc f).task u = c.task u := rfl
@[simp] theorem modOlc_eng (c : Chip) (f : Olc → Olc) (h : Fin 16) : (c.modOlc f).eng h = c.eng h := rfl
@[simp] theorem modOlc_ph (c : Chip) (f : Olc → Olc) (q : Fin 18) : (c.modOlc f).ph q = c.ph q := rfl
@[simp] theorem modOlc_core (c : Chip) (f : Olc → Olc) (k : Fin 2) : (c.modOlc f).core k = c.core k := rfl
@[simp] theorem modOlc_ring (c : Chip) (f : Olc → Olc) (s : Fin 4) : (c.modOlc f).ring s = c.ring s := rfl

/-! ### modFlt -/

@[simp] theorem modFlt_tb (c : Chip) (f : Flt → Flt) : (c.modFlt f).tb = c.tb := rfl
@[simp] theorem modFlt_idcode (c : Chip) (f : Flt → Flt) : (c.modFlt f).idcode = c.idcode := rfl
@[simp] theorem modFlt_regs (c : Chip) (f : Flt → Flt) : (c.modFlt f).regs = c.regs := rfl
@[simp] theorem modFlt_staged (c : Chip) (f : Flt → Flt) : (c.modFlt f).staged = c.staged := rfl
@[simp] theorem modFlt_mem (c : Chip) (f : Flt → Flt) : (c.modFlt f).mem = c.mem := rfl
@[simp] theorem modFlt_sys (c : Chip) (f : Flt → Flt) : (c.modFlt f).sys = c.sys := rfl
@[simp] theorem modFlt_image (c : Chip) (f : Flt → Flt) : (c.modFlt f).image = c.image := rfl
@[simp] theorem modFlt_img (c : Chip) (f : Flt → Flt) : (c.modFlt f).img = c.img := rfl
@[simp] theorem modFlt_tasks (c : Chip) (f : Flt → Flt) : (c.modFlt f).tasks = c.tasks := rfl
@[simp] theorem modFlt_engs (c : Chip) (f : Flt → Flt) : (c.modFlt f).engs = c.engs := rfl
@[simp] theorem modFlt_phys (c : Chip) (f : Flt → Flt) : (c.modFlt f).phys = c.phys := rfl
@[simp] theorem modFlt_cores (c : Chip) (f : Flt → Flt) : (c.modFlt f).cores = c.cores := rfl
@[simp] theorem modFlt_rings (c : Chip) (f : Flt → Flt) : (c.modFlt f).rings = c.rings := rfl
@[simp] theorem modFlt_hsb (c : Chip) (f : Flt → Flt) : (c.modFlt f).hsb = c.hsb := rfl
@[simp] theorem modFlt_olc (c : Chip) (f : Flt → Flt) : (c.modFlt f).olc = c.olc := rfl
@[simp] theorem modFlt_flt (c : Chip) (f : Flt → Flt) : (c.modFlt f).flt = f c.flt := rfl
@[simp] theorem modFlt_pins (c : Chip) (f : Flt → Flt) : (c.modFlt f).pins = c.pins := rfl
@[simp] theorem modFlt_resp (c : Chip) (f : Flt → Flt) : (c.modFlt f).resp = c.resp := rfl
@[simp] theorem modFlt_free (c : Chip) (f : Flt → Flt) : (c.modFlt f).free = c.free := rfl
@[simp] theorem modFlt_rcd (c : Chip) (f : Flt → Flt) : (c.modFlt f).rcd = c.rcd := rfl
@[simp] theorem modFlt_turn (c : Chip) (f : Flt → Flt) : (c.modFlt f).turn = c.turn := rfl
@[simp] theorem modFlt_grd (c : Chip) (f : Flt → Flt) : (c.modFlt f).grd = c.grd := rfl
@[simp] theorem modFlt_mbx (c : Chip) (f : Flt → Flt) : (c.modFlt f).mbx = c.mbx := rfl
@[simp] theorem modFlt_rtc (c : Chip) (f : Flt → Flt) : (c.modFlt f).rtc = c.rtc := rfl
@[simp] theorem modFlt_wdg (c : Chip) (f : Flt → Flt) : (c.modFlt f).wdg = c.wdg := rfl
@[simp] theorem modFlt_nvs (c : Chip) (f : Flt → Flt) : (c.modFlt f).nvs = c.nvs := rfl
@[simp] theorem modFlt_cans (c : Chip) (f : Flt → Flt) : (c.modFlt f).cans = c.cans := rfl
@[simp] theorem modFlt_mim (c : Chip) (f : Flt → Flt) : (c.modFlt f).mim = c.mim := rfl
@[simp] theorem modFlt_pwr (c : Chip) (f : Flt → Flt) : (c.modFlt f).pwr = c.pwr := rfl
@[simp] theorem modFlt_upd (c : Chip) (f : Flt → Flt) : (c.modFlt f).upd = c.upd := rfl
@[simp] theorem modFlt_rd (c : Chip) (f : Flt → Flt) (a : Nat) : (c.modFlt f).rd a = c.rd a := rfl
@[simp] theorem modFlt_get (c : Chip) (f : Flt → Flt) (g : Fld) : (c.modFlt f).get g = c.get g := rfl
@[simp] theorem modFlt_flag (c : Chip) (f : Flt → Flt) (g : Fld) : (c.modFlt f).flag g = c.flag g := rfl
@[simp] theorem modFlt_ldB (c : Chip) (f : Flt → Flt) (a : Nat) : (c.modFlt f).ldB a = c.ldB a := rfl
@[simp] theorem modFlt_task (c : Chip) (f : Flt → Flt) (u : Fin 32) : (c.modFlt f).task u = c.task u := rfl
@[simp] theorem modFlt_eng (c : Chip) (f : Flt → Flt) (h : Fin 16) : (c.modFlt f).eng h = c.eng h := rfl
@[simp] theorem modFlt_ph (c : Chip) (f : Flt → Flt) (q : Fin 18) : (c.modFlt f).ph q = c.ph q := rfl
@[simp] theorem modFlt_core (c : Chip) (f : Flt → Flt) (k : Fin 2) : (c.modFlt f).core k = c.core k := rfl
@[simp] theorem modFlt_ring (c : Chip) (f : Flt → Flt) (s : Fin 4) : (c.modFlt f).ring s = c.ring s := rfl

/-! ### modSys -/

@[simp] theorem modSys_tb (c : Chip) (f : Sys → Sys) : (c.modSys f).tb = c.tb := rfl
@[simp] theorem modSys_idcode (c : Chip) (f : Sys → Sys) : (c.modSys f).idcode = c.idcode := rfl
@[simp] theorem modSys_regs (c : Chip) (f : Sys → Sys) : (c.modSys f).regs = c.regs := rfl
@[simp] theorem modSys_staged (c : Chip) (f : Sys → Sys) : (c.modSys f).staged = c.staged := rfl
@[simp] theorem modSys_mem (c : Chip) (f : Sys → Sys) : (c.modSys f).mem = c.mem := rfl
@[simp] theorem modSys_sys (c : Chip) (f : Sys → Sys) : (c.modSys f).sys = f c.sys := rfl
@[simp] theorem modSys_image (c : Chip) (f : Sys → Sys) : (c.modSys f).image = c.image := rfl
@[simp] theorem modSys_img (c : Chip) (f : Sys → Sys) : (c.modSys f).img = c.img := rfl
@[simp] theorem modSys_tasks (c : Chip) (f : Sys → Sys) : (c.modSys f).tasks = c.tasks := rfl
@[simp] theorem modSys_engs (c : Chip) (f : Sys → Sys) : (c.modSys f).engs = c.engs := rfl
@[simp] theorem modSys_phys (c : Chip) (f : Sys → Sys) : (c.modSys f).phys = c.phys := rfl
@[simp] theorem modSys_cores (c : Chip) (f : Sys → Sys) : (c.modSys f).cores = c.cores := rfl
@[simp] theorem modSys_rings (c : Chip) (f : Sys → Sys) : (c.modSys f).rings = c.rings := rfl
@[simp] theorem modSys_hsb (c : Chip) (f : Sys → Sys) : (c.modSys f).hsb = c.hsb := rfl
@[simp] theorem modSys_olc (c : Chip) (f : Sys → Sys) : (c.modSys f).olc = c.olc := rfl
@[simp] theorem modSys_flt (c : Chip) (f : Sys → Sys) : (c.modSys f).flt = c.flt := rfl
@[simp] theorem modSys_pins (c : Chip) (f : Sys → Sys) : (c.modSys f).pins = c.pins := rfl
@[simp] theorem modSys_resp (c : Chip) (f : Sys → Sys) : (c.modSys f).resp = c.resp := rfl
@[simp] theorem modSys_free (c : Chip) (f : Sys → Sys) : (c.modSys f).free = c.free := rfl
@[simp] theorem modSys_rcd (c : Chip) (f : Sys → Sys) : (c.modSys f).rcd = c.rcd := rfl
@[simp] theorem modSys_turn (c : Chip) (f : Sys → Sys) : (c.modSys f).turn = c.turn := rfl
@[simp] theorem modSys_grd (c : Chip) (f : Sys → Sys) : (c.modSys f).grd = c.grd := rfl
@[simp] theorem modSys_mbx (c : Chip) (f : Sys → Sys) : (c.modSys f).mbx = c.mbx := rfl
@[simp] theorem modSys_rtc (c : Chip) (f : Sys → Sys) : (c.modSys f).rtc = c.rtc := rfl
@[simp] theorem modSys_wdg (c : Chip) (f : Sys → Sys) : (c.modSys f).wdg = c.wdg := rfl
@[simp] theorem modSys_nvs (c : Chip) (f : Sys → Sys) : (c.modSys f).nvs = c.nvs := rfl
@[simp] theorem modSys_cans (c : Chip) (f : Sys → Sys) : (c.modSys f).cans = c.cans := rfl
@[simp] theorem modSys_mim (c : Chip) (f : Sys → Sys) : (c.modSys f).mim = c.mim := rfl
@[simp] theorem modSys_pwr (c : Chip) (f : Sys → Sys) : (c.modSys f).pwr = c.pwr := rfl
@[simp] theorem modSys_upd (c : Chip) (f : Sys → Sys) : (c.modSys f).upd = c.upd := rfl
@[simp] theorem modSys_rd (c : Chip) (f : Sys → Sys) (a : Nat) : (c.modSys f).rd a = c.rd a := rfl
@[simp] theorem modSys_get (c : Chip) (f : Sys → Sys) (g : Fld) : (c.modSys f).get g = c.get g := rfl
@[simp] theorem modSys_flag (c : Chip) (f : Sys → Sys) (g : Fld) : (c.modSys f).flag g = c.flag g := rfl
@[simp] theorem modSys_ldB (c : Chip) (f : Sys → Sys) (a : Nat) : (c.modSys f).ldB a = c.ldB a := rfl
@[simp] theorem modSys_task (c : Chip) (f : Sys → Sys) (u : Fin 32) : (c.modSys f).task u = c.task u := rfl
@[simp] theorem modSys_eng (c : Chip) (f : Sys → Sys) (h : Fin 16) : (c.modSys f).eng h = c.eng h := rfl
@[simp] theorem modSys_ph (c : Chip) (f : Sys → Sys) (q : Fin 18) : (c.modSys f).ph q = c.ph q := rfl
@[simp] theorem modSys_core (c : Chip) (f : Sys → Sys) (k : Fin 2) : (c.modSys f).core k = c.core k := rfl
@[simp] theorem modSys_ring (c : Chip) (f : Sys → Sys) (s : Fin 4) : (c.modSys f).ring s = c.ring s := rfl

/-! ### modImg -/

@[simp] theorem modImg_tb (c : Chip) (f : Img → Img) : (c.modImg f).tb = c.tb := rfl
@[simp] theorem modImg_idcode (c : Chip) (f : Img → Img) : (c.modImg f).idcode = c.idcode := rfl
@[simp] theorem modImg_regs (c : Chip) (f : Img → Img) : (c.modImg f).regs = c.regs := rfl
@[simp] theorem modImg_staged (c : Chip) (f : Img → Img) : (c.modImg f).staged = c.staged := rfl
@[simp] theorem modImg_mem (c : Chip) (f : Img → Img) : (c.modImg f).mem = c.mem := rfl
@[simp] theorem modImg_sys (c : Chip) (f : Img → Img) : (c.modImg f).sys = c.sys := rfl
@[simp] theorem modImg_image (c : Chip) (f : Img → Img) : (c.modImg f).image = c.image := rfl
@[simp] theorem modImg_img (c : Chip) (f : Img → Img) : (c.modImg f).img = f c.img := rfl
@[simp] theorem modImg_tasks (c : Chip) (f : Img → Img) : (c.modImg f).tasks = c.tasks := rfl
@[simp] theorem modImg_engs (c : Chip) (f : Img → Img) : (c.modImg f).engs = c.engs := rfl
@[simp] theorem modImg_phys (c : Chip) (f : Img → Img) : (c.modImg f).phys = c.phys := rfl
@[simp] theorem modImg_cores (c : Chip) (f : Img → Img) : (c.modImg f).cores = c.cores := rfl
@[simp] theorem modImg_rings (c : Chip) (f : Img → Img) : (c.modImg f).rings = c.rings := rfl
@[simp] theorem modImg_hsb (c : Chip) (f : Img → Img) : (c.modImg f).hsb = c.hsb := rfl
@[simp] theorem modImg_olc (c : Chip) (f : Img → Img) : (c.modImg f).olc = c.olc := rfl
@[simp] theorem modImg_flt (c : Chip) (f : Img → Img) : (c.modImg f).flt = c.flt := rfl
@[simp] theorem modImg_pins (c : Chip) (f : Img → Img) : (c.modImg f).pins = c.pins := rfl
@[simp] theorem modImg_resp (c : Chip) (f : Img → Img) : (c.modImg f).resp = c.resp := rfl
@[simp] theorem modImg_free (c : Chip) (f : Img → Img) : (c.modImg f).free = c.free := rfl
@[simp] theorem modImg_rcd (c : Chip) (f : Img → Img) : (c.modImg f).rcd = c.rcd := rfl
@[simp] theorem modImg_turn (c : Chip) (f : Img → Img) : (c.modImg f).turn = c.turn := rfl
@[simp] theorem modImg_grd (c : Chip) (f : Img → Img) : (c.modImg f).grd = c.grd := rfl
@[simp] theorem modImg_mbx (c : Chip) (f : Img → Img) : (c.modImg f).mbx = c.mbx := rfl
@[simp] theorem modImg_rtc (c : Chip) (f : Img → Img) : (c.modImg f).rtc = c.rtc := rfl
@[simp] theorem modImg_wdg (c : Chip) (f : Img → Img) : (c.modImg f).wdg = c.wdg := rfl
@[simp] theorem modImg_nvs (c : Chip) (f : Img → Img) : (c.modImg f).nvs = c.nvs := rfl
@[simp] theorem modImg_cans (c : Chip) (f : Img → Img) : (c.modImg f).cans = c.cans := rfl
@[simp] theorem modImg_mim (c : Chip) (f : Img → Img) : (c.modImg f).mim = c.mim := rfl
@[simp] theorem modImg_pwr (c : Chip) (f : Img → Img) : (c.modImg f).pwr = c.pwr := rfl
@[simp] theorem modImg_upd (c : Chip) (f : Img → Img) : (c.modImg f).upd = c.upd := rfl
@[simp] theorem modImg_rd (c : Chip) (f : Img → Img) (a : Nat) : (c.modImg f).rd a = c.rd a := rfl
@[simp] theorem modImg_get (c : Chip) (f : Img → Img) (g : Fld) : (c.modImg f).get g = c.get g := rfl
@[simp] theorem modImg_flag (c : Chip) (f : Img → Img) (g : Fld) : (c.modImg f).flag g = c.flag g := rfl
@[simp] theorem modImg_ldB (c : Chip) (f : Img → Img) (a : Nat) : (c.modImg f).ldB a = c.ldB a := rfl
@[simp] theorem modImg_task (c : Chip) (f : Img → Img) (u : Fin 32) : (c.modImg f).task u = c.task u := rfl
@[simp] theorem modImg_eng (c : Chip) (f : Img → Img) (h : Fin 16) : (c.modImg f).eng h = c.eng h := rfl
@[simp] theorem modImg_ph (c : Chip) (f : Img → Img) (q : Fin 18) : (c.modImg f).ph q = c.ph q := rfl
@[simp] theorem modImg_core (c : Chip) (f : Img → Img) (k : Fin 2) : (c.modImg f).core k = c.core k := rfl
@[simp] theorem modImg_ring (c : Chip) (f : Img → Img) (s : Fin 4) : (c.modImg f).ring s = c.ring s := rfl

/-! ### modRec -/

@[simp] theorem modRec_tb (c : Chip) (f : Rec → Rec) : (c.modRec f).tb = c.tb := rfl
@[simp] theorem modRec_idcode (c : Chip) (f : Rec → Rec) : (c.modRec f).idcode = c.idcode := rfl
@[simp] theorem modRec_regs (c : Chip) (f : Rec → Rec) : (c.modRec f).regs = c.regs := rfl
@[simp] theorem modRec_staged (c : Chip) (f : Rec → Rec) : (c.modRec f).staged = c.staged := rfl
@[simp] theorem modRec_mem (c : Chip) (f : Rec → Rec) : (c.modRec f).mem = c.mem := rfl
@[simp] theorem modRec_sys (c : Chip) (f : Rec → Rec) : (c.modRec f).sys = c.sys := rfl
@[simp] theorem modRec_image (c : Chip) (f : Rec → Rec) : (c.modRec f).image = c.image := rfl
@[simp] theorem modRec_img (c : Chip) (f : Rec → Rec) : (c.modRec f).img = c.img := rfl
@[simp] theorem modRec_tasks (c : Chip) (f : Rec → Rec) : (c.modRec f).tasks = c.tasks := rfl
@[simp] theorem modRec_engs (c : Chip) (f : Rec → Rec) : (c.modRec f).engs = c.engs := rfl
@[simp] theorem modRec_phys (c : Chip) (f : Rec → Rec) : (c.modRec f).phys = c.phys := rfl
@[simp] theorem modRec_cores (c : Chip) (f : Rec → Rec) : (c.modRec f).cores = c.cores := rfl
@[simp] theorem modRec_rings (c : Chip) (f : Rec → Rec) : (c.modRec f).rings = c.rings := rfl
@[simp] theorem modRec_hsb (c : Chip) (f : Rec → Rec) : (c.modRec f).hsb = c.hsb := rfl
@[simp] theorem modRec_olc (c : Chip) (f : Rec → Rec) : (c.modRec f).olc = c.olc := rfl
@[simp] theorem modRec_flt (c : Chip) (f : Rec → Rec) : (c.modRec f).flt = c.flt := rfl
@[simp] theorem modRec_pins (c : Chip) (f : Rec → Rec) : (c.modRec f).pins = c.pins := rfl
@[simp] theorem modRec_resp (c : Chip) (f : Rec → Rec) : (c.modRec f).resp = c.resp := rfl
@[simp] theorem modRec_free (c : Chip) (f : Rec → Rec) : (c.modRec f).free = c.free := rfl
@[simp] theorem modRec_rcd (c : Chip) (f : Rec → Rec) : (c.modRec f).rcd = f c.rcd := rfl
@[simp] theorem modRec_turn (c : Chip) (f : Rec → Rec) : (c.modRec f).turn = c.turn := rfl
@[simp] theorem modRec_grd (c : Chip) (f : Rec → Rec) : (c.modRec f).grd = c.grd := rfl
@[simp] theorem modRec_mbx (c : Chip) (f : Rec → Rec) : (c.modRec f).mbx = c.mbx := rfl
@[simp] theorem modRec_rtc (c : Chip) (f : Rec → Rec) : (c.modRec f).rtc = c.rtc := rfl
@[simp] theorem modRec_wdg (c : Chip) (f : Rec → Rec) : (c.modRec f).wdg = c.wdg := rfl
@[simp] theorem modRec_nvs (c : Chip) (f : Rec → Rec) : (c.modRec f).nvs = c.nvs := rfl
@[simp] theorem modRec_cans (c : Chip) (f : Rec → Rec) : (c.modRec f).cans = c.cans := rfl
@[simp] theorem modRec_mim (c : Chip) (f : Rec → Rec) : (c.modRec f).mim = c.mim := rfl
@[simp] theorem modRec_pwr (c : Chip) (f : Rec → Rec) : (c.modRec f).pwr = c.pwr := rfl
@[simp] theorem modRec_upd (c : Chip) (f : Rec → Rec) : (c.modRec f).upd = c.upd := rfl
@[simp] theorem modRec_rd (c : Chip) (f : Rec → Rec) (a : Nat) : (c.modRec f).rd a = c.rd a := rfl
@[simp] theorem modRec_get (c : Chip) (f : Rec → Rec) (g : Fld) : (c.modRec f).get g = c.get g := rfl
@[simp] theorem modRec_flag (c : Chip) (f : Rec → Rec) (g : Fld) : (c.modRec f).flag g = c.flag g := rfl
@[simp] theorem modRec_ldB (c : Chip) (f : Rec → Rec) (a : Nat) : (c.modRec f).ldB a = c.ldB a := rfl
@[simp] theorem modRec_task (c : Chip) (f : Rec → Rec) (u : Fin 32) : (c.modRec f).task u = c.task u := rfl
@[simp] theorem modRec_eng (c : Chip) (f : Rec → Rec) (h : Fin 16) : (c.modRec f).eng h = c.eng h := rfl
@[simp] theorem modRec_ph (c : Chip) (f : Rec → Rec) (q : Fin 18) : (c.modRec f).ph q = c.ph q := rfl
@[simp] theorem modRec_core (c : Chip) (f : Rec → Rec) (k : Fin 2) : (c.modRec f).core k = c.core k := rfl
@[simp] theorem modRec_ring (c : Chip) (f : Rec → Rec) (s : Fin 4) : (c.modRec f).ring s = c.ring s := rfl

/-! ### modGrd -/

@[simp] theorem modGrd_tb (c : Chip) (f : Grd → Grd) : (c.modGrd f).tb = c.tb := rfl
@[simp] theorem modGrd_idcode (c : Chip) (f : Grd → Grd) : (c.modGrd f).idcode = c.idcode := rfl
@[simp] theorem modGrd_regs (c : Chip) (f : Grd → Grd) : (c.modGrd f).regs = c.regs := rfl
@[simp] theorem modGrd_staged (c : Chip) (f : Grd → Grd) : (c.modGrd f).staged = c.staged := rfl
@[simp] theorem modGrd_mem (c : Chip) (f : Grd → Grd) : (c.modGrd f).mem = c.mem := rfl
@[simp] theorem modGrd_sys (c : Chip) (f : Grd → Grd) : (c.modGrd f).sys = c.sys := rfl
@[simp] theorem modGrd_image (c : Chip) (f : Grd → Grd) : (c.modGrd f).image = c.image := rfl
@[simp] theorem modGrd_img (c : Chip) (f : Grd → Grd) : (c.modGrd f).img = c.img := rfl
@[simp] theorem modGrd_tasks (c : Chip) (f : Grd → Grd) : (c.modGrd f).tasks = c.tasks := rfl
@[simp] theorem modGrd_engs (c : Chip) (f : Grd → Grd) : (c.modGrd f).engs = c.engs := rfl
@[simp] theorem modGrd_phys (c : Chip) (f : Grd → Grd) : (c.modGrd f).phys = c.phys := rfl
@[simp] theorem modGrd_cores (c : Chip) (f : Grd → Grd) : (c.modGrd f).cores = c.cores := rfl
@[simp] theorem modGrd_rings (c : Chip) (f : Grd → Grd) : (c.modGrd f).rings = c.rings := rfl
@[simp] theorem modGrd_hsb (c : Chip) (f : Grd → Grd) : (c.modGrd f).hsb = c.hsb := rfl
@[simp] theorem modGrd_olc (c : Chip) (f : Grd → Grd) : (c.modGrd f).olc = c.olc := rfl
@[simp] theorem modGrd_flt (c : Chip) (f : Grd → Grd) : (c.modGrd f).flt = c.flt := rfl
@[simp] theorem modGrd_pins (c : Chip) (f : Grd → Grd) : (c.modGrd f).pins = c.pins := rfl
@[simp] theorem modGrd_resp (c : Chip) (f : Grd → Grd) : (c.modGrd f).resp = c.resp := rfl
@[simp] theorem modGrd_free (c : Chip) (f : Grd → Grd) : (c.modGrd f).free = c.free := rfl
@[simp] theorem modGrd_rcd (c : Chip) (f : Grd → Grd) : (c.modGrd f).rcd = c.rcd := rfl
@[simp] theorem modGrd_turn (c : Chip) (f : Grd → Grd) : (c.modGrd f).turn = c.turn := rfl
@[simp] theorem modGrd_grd (c : Chip) (f : Grd → Grd) : (c.modGrd f).grd = f c.grd := rfl
@[simp] theorem modGrd_mbx (c : Chip) (f : Grd → Grd) : (c.modGrd f).mbx = c.mbx := rfl
@[simp] theorem modGrd_rtc (c : Chip) (f : Grd → Grd) : (c.modGrd f).rtc = c.rtc := rfl
@[simp] theorem modGrd_wdg (c : Chip) (f : Grd → Grd) : (c.modGrd f).wdg = c.wdg := rfl
@[simp] theorem modGrd_nvs (c : Chip) (f : Grd → Grd) : (c.modGrd f).nvs = c.nvs := rfl
@[simp] theorem modGrd_cans (c : Chip) (f : Grd → Grd) : (c.modGrd f).cans = c.cans := rfl
@[simp] theorem modGrd_mim (c : Chip) (f : Grd → Grd) : (c.modGrd f).mim = c.mim := rfl
@[simp] theorem modGrd_pwr (c : Chip) (f : Grd → Grd) : (c.modGrd f).pwr = c.pwr := rfl
@[simp] theorem modGrd_upd (c : Chip) (f : Grd → Grd) : (c.modGrd f).upd = c.upd := rfl
@[simp] theorem modGrd_rd (c : Chip) (f : Grd → Grd) (a : Nat) : (c.modGrd f).rd a = c.rd a := rfl
@[simp] theorem modGrd_get (c : Chip) (f : Grd → Grd) (g : Fld) : (c.modGrd f).get g = c.get g := rfl
@[simp] theorem modGrd_flag (c : Chip) (f : Grd → Grd) (g : Fld) : (c.modGrd f).flag g = c.flag g := rfl
@[simp] theorem modGrd_ldB (c : Chip) (f : Grd → Grd) (a : Nat) : (c.modGrd f).ldB a = c.ldB a := rfl
@[simp] theorem modGrd_task (c : Chip) (f : Grd → Grd) (u : Fin 32) : (c.modGrd f).task u = c.task u := rfl
@[simp] theorem modGrd_eng (c : Chip) (f : Grd → Grd) (h : Fin 16) : (c.modGrd f).eng h = c.eng h := rfl
@[simp] theorem modGrd_ph (c : Chip) (f : Grd → Grd) (q : Fin 18) : (c.modGrd f).ph q = c.ph q := rfl
@[simp] theorem modGrd_core (c : Chip) (f : Grd → Grd) (k : Fin 2) : (c.modGrd f).core k = c.core k := rfl
@[simp] theorem modGrd_ring (c : Chip) (f : Grd → Grd) (s : Fin 4) : (c.modGrd f).ring s = c.ring s := rfl

/-! ### modMbx -/

@[simp] theorem modMbx_tb (c : Chip) (f : Mbx → Mbx) : (c.modMbx f).tb = c.tb := rfl
@[simp] theorem modMbx_idcode (c : Chip) (f : Mbx → Mbx) : (c.modMbx f).idcode = c.idcode := rfl
@[simp] theorem modMbx_regs (c : Chip) (f : Mbx → Mbx) : (c.modMbx f).regs = c.regs := rfl
@[simp] theorem modMbx_staged (c : Chip) (f : Mbx → Mbx) : (c.modMbx f).staged = c.staged := rfl
@[simp] theorem modMbx_mem (c : Chip) (f : Mbx → Mbx) : (c.modMbx f).mem = c.mem := rfl
@[simp] theorem modMbx_sys (c : Chip) (f : Mbx → Mbx) : (c.modMbx f).sys = c.sys := rfl
@[simp] theorem modMbx_image (c : Chip) (f : Mbx → Mbx) : (c.modMbx f).image = c.image := rfl
@[simp] theorem modMbx_img (c : Chip) (f : Mbx → Mbx) : (c.modMbx f).img = c.img := rfl
@[simp] theorem modMbx_tasks (c : Chip) (f : Mbx → Mbx) : (c.modMbx f).tasks = c.tasks := rfl
@[simp] theorem modMbx_engs (c : Chip) (f : Mbx → Mbx) : (c.modMbx f).engs = c.engs := rfl
@[simp] theorem modMbx_phys (c : Chip) (f : Mbx → Mbx) : (c.modMbx f).phys = c.phys := rfl
@[simp] theorem modMbx_cores (c : Chip) (f : Mbx → Mbx) : (c.modMbx f).cores = c.cores := rfl
@[simp] theorem modMbx_rings (c : Chip) (f : Mbx → Mbx) : (c.modMbx f).rings = c.rings := rfl
@[simp] theorem modMbx_hsb (c : Chip) (f : Mbx → Mbx) : (c.modMbx f).hsb = c.hsb := rfl
@[simp] theorem modMbx_olc (c : Chip) (f : Mbx → Mbx) : (c.modMbx f).olc = c.olc := rfl
@[simp] theorem modMbx_flt (c : Chip) (f : Mbx → Mbx) : (c.modMbx f).flt = c.flt := rfl
@[simp] theorem modMbx_pins (c : Chip) (f : Mbx → Mbx) : (c.modMbx f).pins = c.pins := rfl
@[simp] theorem modMbx_resp (c : Chip) (f : Mbx → Mbx) : (c.modMbx f).resp = c.resp := rfl
@[simp] theorem modMbx_free (c : Chip) (f : Mbx → Mbx) : (c.modMbx f).free = c.free := rfl
@[simp] theorem modMbx_rcd (c : Chip) (f : Mbx → Mbx) : (c.modMbx f).rcd = c.rcd := rfl
@[simp] theorem modMbx_turn (c : Chip) (f : Mbx → Mbx) : (c.modMbx f).turn = c.turn := rfl
@[simp] theorem modMbx_grd (c : Chip) (f : Mbx → Mbx) : (c.modMbx f).grd = c.grd := rfl
@[simp] theorem modMbx_mbx (c : Chip) (f : Mbx → Mbx) : (c.modMbx f).mbx = f c.mbx := rfl
@[simp] theorem modMbx_rtc (c : Chip) (f : Mbx → Mbx) : (c.modMbx f).rtc = c.rtc := rfl
@[simp] theorem modMbx_wdg (c : Chip) (f : Mbx → Mbx) : (c.modMbx f).wdg = c.wdg := rfl
@[simp] theorem modMbx_nvs (c : Chip) (f : Mbx → Mbx) : (c.modMbx f).nvs = c.nvs := rfl
@[simp] theorem modMbx_cans (c : Chip) (f : Mbx → Mbx) : (c.modMbx f).cans = c.cans := rfl
@[simp] theorem modMbx_mim (c : Chip) (f : Mbx → Mbx) : (c.modMbx f).mim = c.mim := rfl
@[simp] theorem modMbx_pwr (c : Chip) (f : Mbx → Mbx) : (c.modMbx f).pwr = c.pwr := rfl
@[simp] theorem modMbx_upd (c : Chip) (f : Mbx → Mbx) : (c.modMbx f).upd = c.upd := rfl
@[simp] theorem modMbx_rd (c : Chip) (f : Mbx → Mbx) (a : Nat) : (c.modMbx f).rd a = c.rd a := rfl
@[simp] theorem modMbx_get (c : Chip) (f : Mbx → Mbx) (g : Fld) : (c.modMbx f).get g = c.get g := rfl
@[simp] theorem modMbx_flag (c : Chip) (f : Mbx → Mbx) (g : Fld) : (c.modMbx f).flag g = c.flag g := rfl
@[simp] theorem modMbx_ldB (c : Chip) (f : Mbx → Mbx) (a : Nat) : (c.modMbx f).ldB a = c.ldB a := rfl
@[simp] theorem modMbx_task (c : Chip) (f : Mbx → Mbx) (u : Fin 32) : (c.modMbx f).task u = c.task u := rfl
@[simp] theorem modMbx_eng (c : Chip) (f : Mbx → Mbx) (h : Fin 16) : (c.modMbx f).eng h = c.eng h := rfl
@[simp] theorem modMbx_ph (c : Chip) (f : Mbx → Mbx) (q : Fin 18) : (c.modMbx f).ph q = c.ph q := rfl
@[simp] theorem modMbx_core (c : Chip) (f : Mbx → Mbx) (k : Fin 2) : (c.modMbx f).core k = c.core k := rfl
@[simp] theorem modMbx_ring (c : Chip) (f : Mbx → Mbx) (s : Fin 4) : (c.modMbx f).ring s = c.ring s := rfl

/-! ### modRtc -/

@[simp] theorem modRtc_tb (c : Chip) (f : Rtc → Rtc) : (c.modRtc f).tb = c.tb := rfl
@[simp] theorem modRtc_idcode (c : Chip) (f : Rtc → Rtc) : (c.modRtc f).idcode = c.idcode := rfl
@[simp] theorem modRtc_regs (c : Chip) (f : Rtc → Rtc) : (c.modRtc f).regs = c.regs := rfl
@[simp] theorem modRtc_staged (c : Chip) (f : Rtc → Rtc) : (c.modRtc f).staged = c.staged := rfl
@[simp] theorem modRtc_mem (c : Chip) (f : Rtc → Rtc) : (c.modRtc f).mem = c.mem := rfl
@[simp] theorem modRtc_sys (c : Chip) (f : Rtc → Rtc) : (c.modRtc f).sys = c.sys := rfl
@[simp] theorem modRtc_image (c : Chip) (f : Rtc → Rtc) : (c.modRtc f).image = c.image := rfl
@[simp] theorem modRtc_img (c : Chip) (f : Rtc → Rtc) : (c.modRtc f).img = c.img := rfl
@[simp] theorem modRtc_tasks (c : Chip) (f : Rtc → Rtc) : (c.modRtc f).tasks = c.tasks := rfl
@[simp] theorem modRtc_engs (c : Chip) (f : Rtc → Rtc) : (c.modRtc f).engs = c.engs := rfl
@[simp] theorem modRtc_phys (c : Chip) (f : Rtc → Rtc) : (c.modRtc f).phys = c.phys := rfl
@[simp] theorem modRtc_cores (c : Chip) (f : Rtc → Rtc) : (c.modRtc f).cores = c.cores := rfl
@[simp] theorem modRtc_rings (c : Chip) (f : Rtc → Rtc) : (c.modRtc f).rings = c.rings := rfl
@[simp] theorem modRtc_hsb (c : Chip) (f : Rtc → Rtc) : (c.modRtc f).hsb = c.hsb := rfl
@[simp] theorem modRtc_olc (c : Chip) (f : Rtc → Rtc) : (c.modRtc f).olc = c.olc := rfl
@[simp] theorem modRtc_flt (c : Chip) (f : Rtc → Rtc) : (c.modRtc f).flt = c.flt := rfl
@[simp] theorem modRtc_pins (c : Chip) (f : Rtc → Rtc) : (c.modRtc f).pins = c.pins := rfl
@[simp] theorem modRtc_resp (c : Chip) (f : Rtc → Rtc) : (c.modRtc f).resp = c.resp := rfl
@[simp] theorem modRtc_free (c : Chip) (f : Rtc → Rtc) : (c.modRtc f).free = c.free := rfl
@[simp] theorem modRtc_rcd (c : Chip) (f : Rtc → Rtc) : (c.modRtc f).rcd = c.rcd := rfl
@[simp] theorem modRtc_turn (c : Chip) (f : Rtc → Rtc) : (c.modRtc f).turn = c.turn := rfl
@[simp] theorem modRtc_grd (c : Chip) (f : Rtc → Rtc) : (c.modRtc f).grd = c.grd := rfl
@[simp] theorem modRtc_mbx (c : Chip) (f : Rtc → Rtc) : (c.modRtc f).mbx = c.mbx := rfl
@[simp] theorem modRtc_rtc (c : Chip) (f : Rtc → Rtc) : (c.modRtc f).rtc = f c.rtc := rfl
@[simp] theorem modRtc_wdg (c : Chip) (f : Rtc → Rtc) : (c.modRtc f).wdg = c.wdg := rfl
@[simp] theorem modRtc_nvs (c : Chip) (f : Rtc → Rtc) : (c.modRtc f).nvs = c.nvs := rfl
@[simp] theorem modRtc_cans (c : Chip) (f : Rtc → Rtc) : (c.modRtc f).cans = c.cans := rfl
@[simp] theorem modRtc_mim (c : Chip) (f : Rtc → Rtc) : (c.modRtc f).mim = c.mim := rfl
@[simp] theorem modRtc_pwr (c : Chip) (f : Rtc → Rtc) : (c.modRtc f).pwr = c.pwr := rfl
@[simp] theorem modRtc_upd (c : Chip) (f : Rtc → Rtc) : (c.modRtc f).upd = c.upd := rfl
@[simp] theorem modRtc_rd (c : Chip) (f : Rtc → Rtc) (a : Nat) : (c.modRtc f).rd a = c.rd a := rfl
@[simp] theorem modRtc_get (c : Chip) (f : Rtc → Rtc) (g : Fld) : (c.modRtc f).get g = c.get g := rfl
@[simp] theorem modRtc_flag (c : Chip) (f : Rtc → Rtc) (g : Fld) : (c.modRtc f).flag g = c.flag g := rfl
@[simp] theorem modRtc_ldB (c : Chip) (f : Rtc → Rtc) (a : Nat) : (c.modRtc f).ldB a = c.ldB a := rfl
@[simp] theorem modRtc_task (c : Chip) (f : Rtc → Rtc) (u : Fin 32) : (c.modRtc f).task u = c.task u := rfl
@[simp] theorem modRtc_eng (c : Chip) (f : Rtc → Rtc) (h : Fin 16) : (c.modRtc f).eng h = c.eng h := rfl
@[simp] theorem modRtc_ph (c : Chip) (f : Rtc → Rtc) (q : Fin 18) : (c.modRtc f).ph q = c.ph q := rfl
@[simp] theorem modRtc_core (c : Chip) (f : Rtc → Rtc) (k : Fin 2) : (c.modRtc f).core k = c.core k := rfl
@[simp] theorem modRtc_ring (c : Chip) (f : Rtc → Rtc) (s : Fin 4) : (c.modRtc f).ring s = c.ring s := rfl

/-! ### modWdg -/

@[simp] theorem modWdg_tb (c : Chip) (f : Wdg → Wdg) : (c.modWdg f).tb = c.tb := rfl
@[simp] theorem modWdg_idcode (c : Chip) (f : Wdg → Wdg) : (c.modWdg f).idcode = c.idcode := rfl
@[simp] theorem modWdg_regs (c : Chip) (f : Wdg → Wdg) : (c.modWdg f).regs = c.regs := rfl
@[simp] theorem modWdg_staged (c : Chip) (f : Wdg → Wdg) : (c.modWdg f).staged = c.staged := rfl
@[simp] theorem modWdg_mem (c : Chip) (f : Wdg → Wdg) : (c.modWdg f).mem = c.mem := rfl
@[simp] theorem modWdg_sys (c : Chip) (f : Wdg → Wdg) : (c.modWdg f).sys = c.sys := rfl
@[simp] theorem modWdg_image (c : Chip) (f : Wdg → Wdg) : (c.modWdg f).image = c.image := rfl
@[simp] theorem modWdg_img (c : Chip) (f : Wdg → Wdg) : (c.modWdg f).img = c.img := rfl
@[simp] theorem modWdg_tasks (c : Chip) (f : Wdg → Wdg) : (c.modWdg f).tasks = c.tasks := rfl
@[simp] theorem modWdg_engs (c : Chip) (f : Wdg → Wdg) : (c.modWdg f).engs = c.engs := rfl
@[simp] theorem modWdg_phys (c : Chip) (f : Wdg → Wdg) : (c.modWdg f).phys = c.phys := rfl
@[simp] theorem modWdg_cores (c : Chip) (f : Wdg → Wdg) : (c.modWdg f).cores = c.cores := rfl
@[simp] theorem modWdg_rings (c : Chip) (f : Wdg → Wdg) : (c.modWdg f).rings = c.rings := rfl
@[simp] theorem modWdg_hsb (c : Chip) (f : Wdg → Wdg) : (c.modWdg f).hsb = c.hsb := rfl
@[simp] theorem modWdg_olc (c : Chip) (f : Wdg → Wdg) : (c.modWdg f).olc = c.olc := rfl
@[simp] theorem modWdg_flt (c : Chip) (f : Wdg → Wdg) : (c.modWdg f).flt = c.flt := rfl
@[simp] theorem modWdg_pins (c : Chip) (f : Wdg → Wdg) : (c.modWdg f).pins = c.pins := rfl
@[simp] theorem modWdg_resp (c : Chip) (f : Wdg → Wdg) : (c.modWdg f).resp = c.resp := rfl
@[simp] theorem modWdg_free (c : Chip) (f : Wdg → Wdg) : (c.modWdg f).free = c.free := rfl
@[simp] theorem modWdg_rcd (c : Chip) (f : Wdg → Wdg) : (c.modWdg f).rcd = c.rcd := rfl
@[simp] theorem modWdg_turn (c : Chip) (f : Wdg → Wdg) : (c.modWdg f).turn = c.turn := rfl
@[simp] theorem modWdg_grd (c : Chip) (f : Wdg → Wdg) : (c.modWdg f).grd = c.grd := rfl
@[simp] theorem modWdg_mbx (c : Chip) (f : Wdg → Wdg) : (c.modWdg f).mbx = c.mbx := rfl
@[simp] theorem modWdg_rtc (c : Chip) (f : Wdg → Wdg) : (c.modWdg f).rtc = c.rtc := rfl
@[simp] theorem modWdg_wdg (c : Chip) (f : Wdg → Wdg) : (c.modWdg f).wdg = f c.wdg := rfl
@[simp] theorem modWdg_nvs (c : Chip) (f : Wdg → Wdg) : (c.modWdg f).nvs = c.nvs := rfl
@[simp] theorem modWdg_cans (c : Chip) (f : Wdg → Wdg) : (c.modWdg f).cans = c.cans := rfl
@[simp] theorem modWdg_mim (c : Chip) (f : Wdg → Wdg) : (c.modWdg f).mim = c.mim := rfl
@[simp] theorem modWdg_pwr (c : Chip) (f : Wdg → Wdg) : (c.modWdg f).pwr = c.pwr := rfl
@[simp] theorem modWdg_upd (c : Chip) (f : Wdg → Wdg) : (c.modWdg f).upd = c.upd := rfl
@[simp] theorem modWdg_rd (c : Chip) (f : Wdg → Wdg) (a : Nat) : (c.modWdg f).rd a = c.rd a := rfl
@[simp] theorem modWdg_get (c : Chip) (f : Wdg → Wdg) (g : Fld) : (c.modWdg f).get g = c.get g := rfl
@[simp] theorem modWdg_flag (c : Chip) (f : Wdg → Wdg) (g : Fld) : (c.modWdg f).flag g = c.flag g := rfl
@[simp] theorem modWdg_ldB (c : Chip) (f : Wdg → Wdg) (a : Nat) : (c.modWdg f).ldB a = c.ldB a := rfl
@[simp] theorem modWdg_task (c : Chip) (f : Wdg → Wdg) (u : Fin 32) : (c.modWdg f).task u = c.task u := rfl
@[simp] theorem modWdg_eng (c : Chip) (f : Wdg → Wdg) (h : Fin 16) : (c.modWdg f).eng h = c.eng h := rfl
@[simp] theorem modWdg_ph (c : Chip) (f : Wdg → Wdg) (q : Fin 18) : (c.modWdg f).ph q = c.ph q := rfl
@[simp] theorem modWdg_core (c : Chip) (f : Wdg → Wdg) (k : Fin 2) : (c.modWdg f).core k = c.core k := rfl
@[simp] theorem modWdg_ring (c : Chip) (f : Wdg → Wdg) (s : Fin 4) : (c.modWdg f).ring s = c.ring s := rfl

/-! ### modMim -/

@[simp] theorem modMim_tb (c : Chip) (f : Mim → Mim) : (c.modMim f).tb = c.tb := rfl
@[simp] theorem modMim_idcode (c : Chip) (f : Mim → Mim) : (c.modMim f).idcode = c.idcode := rfl
@[simp] theorem modMim_regs (c : Chip) (f : Mim → Mim) : (c.modMim f).regs = c.regs := rfl
@[simp] theorem modMim_staged (c : Chip) (f : Mim → Mim) : (c.modMim f).staged = c.staged := rfl
@[simp] theorem modMim_mem (c : Chip) (f : Mim → Mim) : (c.modMim f).mem = c.mem := rfl
@[simp] theorem modMim_sys (c : Chip) (f : Mim → Mim) : (c.modMim f).sys = c.sys := rfl
@[simp] theorem modMim_image (c : Chip) (f : Mim → Mim) : (c.modMim f).image = c.image := rfl
@[simp] theorem modMim_img (c : Chip) (f : Mim → Mim) : (c.modMim f).img = c.img := rfl
@[simp] theorem modMim_tasks (c : Chip) (f : Mim → Mim) : (c.modMim f).tasks = c.tasks := rfl
@[simp] theorem modMim_engs (c : Chip) (f : Mim → Mim) : (c.modMim f).engs = c.engs := rfl
@[simp] theorem modMim_phys (c : Chip) (f : Mim → Mim) : (c.modMim f).phys = c.phys := rfl
@[simp] theorem modMim_cores (c : Chip) (f : Mim → Mim) : (c.modMim f).cores = c.cores := rfl
@[simp] theorem modMim_rings (c : Chip) (f : Mim → Mim) : (c.modMim f).rings = c.rings := rfl
@[simp] theorem modMim_hsb (c : Chip) (f : Mim → Mim) : (c.modMim f).hsb = c.hsb := rfl
@[simp] theorem modMim_olc (c : Chip) (f : Mim → Mim) : (c.modMim f).olc = c.olc := rfl
@[simp] theorem modMim_flt (c : Chip) (f : Mim → Mim) : (c.modMim f).flt = c.flt := rfl
@[simp] theorem modMim_pins (c : Chip) (f : Mim → Mim) : (c.modMim f).pins = c.pins := rfl
@[simp] theorem modMim_resp (c : Chip) (f : Mim → Mim) : (c.modMim f).resp = c.resp := rfl
@[simp] theorem modMim_free (c : Chip) (f : Mim → Mim) : (c.modMim f).free = c.free := rfl
@[simp] theorem modMim_rcd (c : Chip) (f : Mim → Mim) : (c.modMim f).rcd = c.rcd := rfl
@[simp] theorem modMim_turn (c : Chip) (f : Mim → Mim) : (c.modMim f).turn = c.turn := rfl
@[simp] theorem modMim_grd (c : Chip) (f : Mim → Mim) : (c.modMim f).grd = c.grd := rfl
@[simp] theorem modMim_mbx (c : Chip) (f : Mim → Mim) : (c.modMim f).mbx = c.mbx := rfl
@[simp] theorem modMim_rtc (c : Chip) (f : Mim → Mim) : (c.modMim f).rtc = c.rtc := rfl
@[simp] theorem modMim_wdg (c : Chip) (f : Mim → Mim) : (c.modMim f).wdg = c.wdg := rfl
@[simp] theorem modMim_nvs (c : Chip) (f : Mim → Mim) : (c.modMim f).nvs = c.nvs := rfl
@[simp] theorem modMim_cans (c : Chip) (f : Mim → Mim) : (c.modMim f).cans = c.cans := rfl
@[simp] theorem modMim_mim (c : Chip) (f : Mim → Mim) : (c.modMim f).mim = f c.mim := rfl
@[simp] theorem modMim_pwr (c : Chip) (f : Mim → Mim) : (c.modMim f).pwr = c.pwr := rfl
@[simp] theorem modMim_upd (c : Chip) (f : Mim → Mim) : (c.modMim f).upd = c.upd := rfl
@[simp] theorem modMim_rd (c : Chip) (f : Mim → Mim) (a : Nat) : (c.modMim f).rd a = c.rd a := rfl
@[simp] theorem modMim_get (c : Chip) (f : Mim → Mim) (g : Fld) : (c.modMim f).get g = c.get g := rfl
@[simp] theorem modMim_flag (c : Chip) (f : Mim → Mim) (g : Fld) : (c.modMim f).flag g = c.flag g := rfl
@[simp] theorem modMim_ldB (c : Chip) (f : Mim → Mim) (a : Nat) : (c.modMim f).ldB a = c.ldB a := rfl
@[simp] theorem modMim_task (c : Chip) (f : Mim → Mim) (u : Fin 32) : (c.modMim f).task u = c.task u := rfl
@[simp] theorem modMim_eng (c : Chip) (f : Mim → Mim) (h : Fin 16) : (c.modMim f).eng h = c.eng h := rfl
@[simp] theorem modMim_ph (c : Chip) (f : Mim → Mim) (q : Fin 18) : (c.modMim f).ph q = c.ph q := rfl
@[simp] theorem modMim_core (c : Chip) (f : Mim → Mim) (k : Fin 2) : (c.modMim f).core k = c.core k := rfl
@[simp] theorem modMim_ring (c : Chip) (f : Mim → Mim) (s : Fin 4) : (c.modMim f).ring s = c.ring s := rfl

/-! ### modNvs -/

@[simp] theorem modNvs_tb (c : Chip) (f : Nvs → Nvs) : (c.modNvs f).tb = c.tb := rfl
@[simp] theorem modNvs_idcode (c : Chip) (f : Nvs → Nvs) : (c.modNvs f).idcode = c.idcode := rfl
@[simp] theorem modNvs_regs (c : Chip) (f : Nvs → Nvs) : (c.modNvs f).regs = c.regs := rfl
@[simp] theorem modNvs_staged (c : Chip) (f : Nvs → Nvs) : (c.modNvs f).staged = c.staged := rfl
@[simp] theorem modNvs_mem (c : Chip) (f : Nvs → Nvs) : (c.modNvs f).mem = c.mem := rfl
@[simp] theorem modNvs_sys (c : Chip) (f : Nvs → Nvs) : (c.modNvs f).sys = c.sys := rfl
@[simp] theorem modNvs_image (c : Chip) (f : Nvs → Nvs) : (c.modNvs f).image = c.image := rfl
@[simp] theorem modNvs_img (c : Chip) (f : Nvs → Nvs) : (c.modNvs f).img = c.img := rfl
@[simp] theorem modNvs_tasks (c : Chip) (f : Nvs → Nvs) : (c.modNvs f).tasks = c.tasks := rfl
@[simp] theorem modNvs_engs (c : Chip) (f : Nvs → Nvs) : (c.modNvs f).engs = c.engs := rfl
@[simp] theorem modNvs_phys (c : Chip) (f : Nvs → Nvs) : (c.modNvs f).phys = c.phys := rfl
@[simp] theorem modNvs_cores (c : Chip) (f : Nvs → Nvs) : (c.modNvs f).cores = c.cores := rfl
@[simp] theorem modNvs_rings (c : Chip) (f : Nvs → Nvs) : (c.modNvs f).rings = c.rings := rfl
@[simp] theorem modNvs_hsb (c : Chip) (f : Nvs → Nvs) : (c.modNvs f).hsb = c.hsb := rfl
@[simp] theorem modNvs_olc (c : Chip) (f : Nvs → Nvs) : (c.modNvs f).olc = c.olc := rfl
@[simp] theorem modNvs_flt (c : Chip) (f : Nvs → Nvs) : (c.modNvs f).flt = c.flt := rfl
@[simp] theorem modNvs_pins (c : Chip) (f : Nvs → Nvs) : (c.modNvs f).pins = c.pins := rfl
@[simp] theorem modNvs_resp (c : Chip) (f : Nvs → Nvs) : (c.modNvs f).resp = c.resp := rfl
@[simp] theorem modNvs_free (c : Chip) (f : Nvs → Nvs) : (c.modNvs f).free = c.free := rfl
@[simp] theorem modNvs_rcd (c : Chip) (f : Nvs → Nvs) : (c.modNvs f).rcd = c.rcd := rfl
@[simp] theorem modNvs_turn (c : Chip) (f : Nvs → Nvs) : (c.modNvs f).turn = c.turn := rfl
@[simp] theorem modNvs_grd (c : Chip) (f : Nvs → Nvs) : (c.modNvs f).grd = c.grd := rfl
@[simp] theorem modNvs_mbx (c : Chip) (f : Nvs → Nvs) : (c.modNvs f).mbx = c.mbx := rfl
@[simp] theorem modNvs_rtc (c : Chip) (f : Nvs → Nvs) : (c.modNvs f).rtc = c.rtc := rfl
@[simp] theorem modNvs_wdg (c : Chip) (f : Nvs → Nvs) : (c.modNvs f).wdg = c.wdg := rfl
@[simp] theorem modNvs_nvs (c : Chip) (f : Nvs → Nvs) : (c.modNvs f).nvs = f c.nvs := rfl
@[simp] theorem modNvs_cans (c : Chip) (f : Nvs → Nvs) : (c.modNvs f).cans = c.cans := rfl
@[simp] theorem modNvs_mim (c : Chip) (f : Nvs → Nvs) : (c.modNvs f).mim = c.mim := rfl
@[simp] theorem modNvs_pwr (c : Chip) (f : Nvs → Nvs) : (c.modNvs f).pwr = c.pwr := rfl
@[simp] theorem modNvs_upd (c : Chip) (f : Nvs → Nvs) : (c.modNvs f).upd = c.upd := rfl
@[simp] theorem modNvs_rd (c : Chip) (f : Nvs → Nvs) (a : Nat) : (c.modNvs f).rd a = c.rd a := rfl
@[simp] theorem modNvs_get (c : Chip) (f : Nvs → Nvs) (g : Fld) : (c.modNvs f).get g = c.get g := rfl
@[simp] theorem modNvs_flag (c : Chip) (f : Nvs → Nvs) (g : Fld) : (c.modNvs f).flag g = c.flag g := rfl
@[simp] theorem modNvs_ldB (c : Chip) (f : Nvs → Nvs) (a : Nat) : (c.modNvs f).ldB a = c.ldB a := rfl
@[simp] theorem modNvs_task (c : Chip) (f : Nvs → Nvs) (u : Fin 32) : (c.modNvs f).task u = c.task u := rfl
@[simp] theorem modNvs_eng (c : Chip) (f : Nvs → Nvs) (h : Fin 16) : (c.modNvs f).eng h = c.eng h := rfl
@[simp] theorem modNvs_ph (c : Chip) (f : Nvs → Nvs) (q : Fin 18) : (c.modNvs f).ph q = c.ph q := rfl
@[simp] theorem modNvs_core (c : Chip) (f : Nvs → Nvs) (k : Fin 2) : (c.modNvs f).core k = c.core k := rfl
@[simp] theorem modNvs_ring (c : Chip) (f : Nvs → Nvs) (s : Fin 4) : (c.modNvs f).ring s = c.ring s := rfl

/-! ### modPwr -/

@[simp] theorem modPwr_tb (c : Chip) (f : Pwr → Pwr) : (c.modPwr f).tb = c.tb := rfl
@[simp] theorem modPwr_idcode (c : Chip) (f : Pwr → Pwr) : (c.modPwr f).idcode = c.idcode := rfl
@[simp] theorem modPwr_regs (c : Chip) (f : Pwr → Pwr) : (c.modPwr f).regs = c.regs := rfl
@[simp] theorem modPwr_staged (c : Chip) (f : Pwr → Pwr) : (c.modPwr f).staged = c.staged := rfl
@[simp] theorem modPwr_mem (c : Chip) (f : Pwr → Pwr) : (c.modPwr f).mem = c.mem := rfl
@[simp] theorem modPwr_sys (c : Chip) (f : Pwr → Pwr) : (c.modPwr f).sys = c.sys := rfl
@[simp] theorem modPwr_image (c : Chip) (f : Pwr → Pwr) : (c.modPwr f).image = c.image := rfl
@[simp] theorem modPwr_img (c : Chip) (f : Pwr → Pwr) : (c.modPwr f).img = c.img := rfl
@[simp] theorem modPwr_tasks (c : Chip) (f : Pwr → Pwr) : (c.modPwr f).tasks = c.tasks := rfl
@[simp] theorem modPwr_engs (c : Chip) (f : Pwr → Pwr) : (c.modPwr f).engs = c.engs := rfl
@[simp] theorem modPwr_phys (c : Chip) (f : Pwr → Pwr) : (c.modPwr f).phys = c.phys := rfl
@[simp] theorem modPwr_cores (c : Chip) (f : Pwr → Pwr) : (c.modPwr f).cores = c.cores := rfl
@[simp] theorem modPwr_rings (c : Chip) (f : Pwr → Pwr) : (c.modPwr f).rings = c.rings := rfl
@[simp] theorem modPwr_hsb (c : Chip) (f : Pwr → Pwr) : (c.modPwr f).hsb = c.hsb := rfl
@[simp] theorem modPwr_olc (c : Chip) (f : Pwr → Pwr) : (c.modPwr f).olc = c.olc := rfl
@[simp] theorem modPwr_flt (c : Chip) (f : Pwr → Pwr) : (c.modPwr f).flt = c.flt := rfl
@[simp] theorem modPwr_pins (c : Chip) (f : Pwr → Pwr) : (c.modPwr f).pins = c.pins := rfl
@[simp] theorem modPwr_resp (c : Chip) (f : Pwr → Pwr) : (c.modPwr f).resp = c.resp := rfl
@[simp] theorem modPwr_free (c : Chip) (f : Pwr → Pwr) : (c.modPwr f).free = c.free := rfl
@[simp] theorem modPwr_rcd (c : Chip) (f : Pwr → Pwr) : (c.modPwr f).rcd = c.rcd := rfl
@[simp] theorem modPwr_turn (c : Chip) (f : Pwr → Pwr) : (c.modPwr f).turn = c.turn := rfl
@[simp] theorem modPwr_grd (c : Chip) (f : Pwr → Pwr) : (c.modPwr f).grd = c.grd := rfl
@[simp] theorem modPwr_mbx (c : Chip) (f : Pwr → Pwr) : (c.modPwr f).mbx = c.mbx := rfl
@[simp] theorem modPwr_rtc (c : Chip) (f : Pwr → Pwr) : (c.modPwr f).rtc = c.rtc := rfl
@[simp] theorem modPwr_wdg (c : Chip) (f : Pwr → Pwr) : (c.modPwr f).wdg = c.wdg := rfl
@[simp] theorem modPwr_nvs (c : Chip) (f : Pwr → Pwr) : (c.modPwr f).nvs = c.nvs := rfl
@[simp] theorem modPwr_cans (c : Chip) (f : Pwr → Pwr) : (c.modPwr f).cans = c.cans := rfl
@[simp] theorem modPwr_mim (c : Chip) (f : Pwr → Pwr) : (c.modPwr f).mim = c.mim := rfl
@[simp] theorem modPwr_pwr (c : Chip) (f : Pwr → Pwr) : (c.modPwr f).pwr = f c.pwr := rfl
@[simp] theorem modPwr_upd (c : Chip) (f : Pwr → Pwr) : (c.modPwr f).upd = c.upd := rfl
@[simp] theorem modPwr_rd (c : Chip) (f : Pwr → Pwr) (a : Nat) : (c.modPwr f).rd a = c.rd a := rfl
@[simp] theorem modPwr_get (c : Chip) (f : Pwr → Pwr) (g : Fld) : (c.modPwr f).get g = c.get g := rfl
@[simp] theorem modPwr_flag (c : Chip) (f : Pwr → Pwr) (g : Fld) : (c.modPwr f).flag g = c.flag g := rfl
@[simp] theorem modPwr_ldB (c : Chip) (f : Pwr → Pwr) (a : Nat) : (c.modPwr f).ldB a = c.ldB a := rfl
@[simp] theorem modPwr_task (c : Chip) (f : Pwr → Pwr) (u : Fin 32) : (c.modPwr f).task u = c.task u := rfl
@[simp] theorem modPwr_eng (c : Chip) (f : Pwr → Pwr) (h : Fin 16) : (c.modPwr f).eng h = c.eng h := rfl
@[simp] theorem modPwr_ph (c : Chip) (f : Pwr → Pwr) (q : Fin 18) : (c.modPwr f).ph q = c.ph q := rfl
@[simp] theorem modPwr_core (c : Chip) (f : Pwr → Pwr) (k : Fin 2) : (c.modPwr f).core k = c.core k := rfl
@[simp] theorem modPwr_ring (c : Chip) (f : Pwr → Pwr) (s : Fin 4) : (c.modPwr f).ring s = c.ring s := rfl

/-! ### modUpd -/

@[simp] theorem modUpd_tb (c : Chip) (f : Upd → Upd) : (c.modUpd f).tb = c.tb := rfl
@[simp] theorem modUpd_idcode (c : Chip) (f : Upd → Upd) : (c.modUpd f).idcode = c.idcode := rfl
@[simp] theorem modUpd_regs (c : Chip) (f : Upd → Upd) : (c.modUpd f).regs = c.regs := rfl
@[simp] theorem modUpd_staged (c : Chip) (f : Upd → Upd) : (c.modUpd f).staged = c.staged := rfl
@[simp] theorem modUpd_mem (c : Chip) (f : Upd → Upd) : (c.modUpd f).mem = c.mem := rfl
@[simp] theorem modUpd_sys (c : Chip) (f : Upd → Upd) : (c.modUpd f).sys = c.sys := rfl
@[simp] theorem modUpd_image (c : Chip) (f : Upd → Upd) : (c.modUpd f).image = c.image := rfl
@[simp] theorem modUpd_img (c : Chip) (f : Upd → Upd) : (c.modUpd f).img = c.img := rfl
@[simp] theorem modUpd_tasks (c : Chip) (f : Upd → Upd) : (c.modUpd f).tasks = c.tasks := rfl
@[simp] theorem modUpd_engs (c : Chip) (f : Upd → Upd) : (c.modUpd f).engs = c.engs := rfl
@[simp] theorem modUpd_phys (c : Chip) (f : Upd → Upd) : (c.modUpd f).phys = c.phys := rfl
@[simp] theorem modUpd_cores (c : Chip) (f : Upd → Upd) : (c.modUpd f).cores = c.cores := rfl
@[simp] theorem modUpd_rings (c : Chip) (f : Upd → Upd) : (c.modUpd f).rings = c.rings := rfl
@[simp] theorem modUpd_hsb (c : Chip) (f : Upd → Upd) : (c.modUpd f).hsb = c.hsb := rfl
@[simp] theorem modUpd_olc (c : Chip) (f : Upd → Upd) : (c.modUpd f).olc = c.olc := rfl
@[simp] theorem modUpd_flt (c : Chip) (f : Upd → Upd) : (c.modUpd f).flt = c.flt := rfl
@[simp] theorem modUpd_pins (c : Chip) (f : Upd → Upd) : (c.modUpd f).pins = c.pins := rfl
@[simp] theorem modUpd_resp (c : Chip) (f : Upd → Upd) : (c.modUpd f).resp = c.resp := rfl
@[simp] theorem modUpd_free (c : Chip) (f : Upd → Upd) : (c.modUpd f).free = c.free := rfl
@[simp] theorem modUpd_rcd (c : Chip) (f : Upd → Upd) : (c.modUpd f).rcd = c.rcd := rfl
@[simp] theorem modUpd_turn (c : Chip) (f : Upd → Upd) : (c.modUpd f).turn = c.turn := rfl
@[simp] theorem modUpd_grd (c : Chip) (f : Upd → Upd) : (c.modUpd f).grd = c.grd := rfl
@[simp] theorem modUpd_mbx (c : Chip) (f : Upd → Upd) : (c.modUpd f).mbx = c.mbx := rfl
@[simp] theorem modUpd_rtc (c : Chip) (f : Upd → Upd) : (c.modUpd f).rtc = c.rtc := rfl
@[simp] theorem modUpd_wdg (c : Chip) (f : Upd → Upd) : (c.modUpd f).wdg = c.wdg := rfl
@[simp] theorem modUpd_nvs (c : Chip) (f : Upd → Upd) : (c.modUpd f).nvs = c.nvs := rfl
@[simp] theorem modUpd_cans (c : Chip) (f : Upd → Upd) : (c.modUpd f).cans = c.cans := rfl
@[simp] theorem modUpd_mim (c : Chip) (f : Upd → Upd) : (c.modUpd f).mim = c.mim := rfl
@[simp] theorem modUpd_pwr (c : Chip) (f : Upd → Upd) : (c.modUpd f).pwr = c.pwr := rfl
@[simp] theorem modUpd_upd (c : Chip) (f : Upd → Upd) : (c.modUpd f).upd = f c.upd := rfl
@[simp] theorem modUpd_rd (c : Chip) (f : Upd → Upd) (a : Nat) : (c.modUpd f).rd a = c.rd a := rfl
@[simp] theorem modUpd_get (c : Chip) (f : Upd → Upd) (g : Fld) : (c.modUpd f).get g = c.get g := rfl
@[simp] theorem modUpd_flag (c : Chip) (f : Upd → Upd) (g : Fld) : (c.modUpd f).flag g = c.flag g := rfl
@[simp] theorem modUpd_ldB (c : Chip) (f : Upd → Upd) (a : Nat) : (c.modUpd f).ldB a = c.ldB a := rfl
@[simp] theorem modUpd_task (c : Chip) (f : Upd → Upd) (u : Fin 32) : (c.modUpd f).task u = c.task u := rfl
@[simp] theorem modUpd_eng (c : Chip) (f : Upd → Upd) (h : Fin 16) : (c.modUpd f).eng h = c.eng h := rfl
@[simp] theorem modUpd_ph (c : Chip) (f : Upd → Upd) (q : Fin 18) : (c.modUpd f).ph q = c.ph q := rfl
@[simp] theorem modUpd_core (c : Chip) (f : Upd → Upd) (k : Fin 2) : (c.modUpd f).core k = c.core k := rfl
@[simp] theorem modUpd_ring (c : Chip) (f : Upd → Upd) (s : Fin 4) : (c.modUpd f).ring s = c.ring s := rfl

/-! ### wr -/

@[simp] theorem wr_tb (c : Chip) (a : Nat) (w : Word) : (c.wr a w).tb = c.tb := rfl
@[simp] theorem wr_idcode (c : Chip) (a : Nat) (w : Word) : (c.wr a w).idcode = c.idcode := rfl
@[simp] theorem wr_regs (c : Chip) (a : Nat) (w : Word) : (c.wr a w).regs = spSet (regReset a) a w c.regs := rfl
@[simp] theorem wr_staged (c : Chip) (a : Nat) (w : Word) : (c.wr a w).staged = c.staged := rfl
@[simp] theorem wr_mem (c : Chip) (a : Nat) (w : Word) : (c.wr a w).mem = c.mem := rfl
@[simp] theorem wr_sys (c : Chip) (a : Nat) (w : Word) : (c.wr a w).sys = c.sys := rfl
@[simp] theorem wr_image (c : Chip) (a : Nat) (w : Word) : (c.wr a w).image = c.image := rfl
@[simp] theorem wr_img (c : Chip) (a : Nat) (w : Word) : (c.wr a w).img = c.img := rfl
@[simp] theorem wr_tasks (c : Chip) (a : Nat) (w : Word) : (c.wr a w).tasks = c.tasks := rfl
@[simp] theorem wr_engs (c : Chip) (a : Nat) (w : Word) : (c.wr a w).engs = c.engs := rfl
@[simp] theorem wr_phys (c : Chip) (a : Nat) (w : Word) : (c.wr a w).phys = c.phys := rfl
@[simp] theorem wr_cores (c : Chip) (a : Nat) (w : Word) : (c.wr a w).cores = c.cores := rfl
@[simp] theorem wr_rings (c : Chip) (a : Nat) (w : Word) : (c.wr a w).rings = c.rings := rfl
@[simp] theorem wr_hsb (c : Chip) (a : Nat) (w : Word) : (c.wr a w).hsb = c.hsb := rfl
@[simp] theorem wr_olc (c : Chip) (a : Nat) (w : Word) : (c.wr a w).olc = c.olc := rfl
@[simp] theorem wr_flt (c : Chip) (a : Nat) (w : Word) : (c.wr a w).flt = c.flt := rfl
@[simp] theorem wr_pins (c : Chip) (a : Nat) (w : Word) : (c.wr a w).pins = c.pins := rfl
@[simp] theorem wr_resp (c : Chip) (a : Nat) (w : Word) : (c.wr a w).resp = c.resp := rfl
@[simp] theorem wr_free (c : Chip) (a : Nat) (w : Word) : (c.wr a w).free = c.free := rfl
@[simp] theorem wr_rcd (c : Chip) (a : Nat) (w : Word) : (c.wr a w).rcd = c.rcd := rfl
@[simp] theorem wr_turn (c : Chip) (a : Nat) (w : Word) : (c.wr a w).turn = c.turn := rfl
@[simp] theorem wr_grd (c : Chip) (a : Nat) (w : Word) : (c.wr a w).grd = c.grd := rfl
@[simp] theorem wr_mbx (c : Chip) (a : Nat) (w : Word) : (c.wr a w).mbx = c.mbx := rfl
@[simp] theorem wr_rtc (c : Chip) (a : Nat) (w : Word) : (c.wr a w).rtc = c.rtc := rfl
@[simp] theorem wr_wdg (c : Chip) (a : Nat) (w : Word) : (c.wr a w).wdg = c.wdg := rfl
@[simp] theorem wr_nvs (c : Chip) (a : Nat) (w : Word) : (c.wr a w).nvs = c.nvs := rfl
@[simp] theorem wr_cans (c : Chip) (a : Nat) (w : Word) : (c.wr a w).cans = c.cans := rfl
@[simp] theorem wr_mim (c : Chip) (a : Nat) (w : Word) : (c.wr a w).mim = c.mim := rfl
@[simp] theorem wr_pwr (c : Chip) (a : Nat) (w : Word) : (c.wr a w).pwr = c.pwr := rfl
@[simp] theorem wr_upd (c : Chip) (a : Nat) (w : Word) : (c.wr a w).upd = c.upd := rfl
@[simp] theorem wr_ldB (c : Chip) (a : Nat) (w : Word) (b : Nat) : (c.wr a w).ldB b = c.ldB b := rfl
@[simp] theorem wr_task (c : Chip) (a : Nat) (w : Word) (u : Fin 32) : (c.wr a w).task u = c.task u := rfl
@[simp] theorem wr_eng (c : Chip) (a : Nat) (w : Word) (h : Fin 16) : (c.wr a w).eng h = c.eng h := rfl
@[simp] theorem wr_ph (c : Chip) (a : Nat) (w : Word) (q : Fin 18) : (c.wr a w).ph q = c.ph q := rfl
@[simp] theorem wr_core (c : Chip) (a : Nat) (w : Word) (k : Fin 2) : (c.wr a w).core k = c.core k := rfl
@[simp] theorem wr_ring (c : Chip) (a : Nat) (w : Word) (s : Fin 4) : (c.wr a w).ring s = c.ring s := rfl

/-! ### put -/

@[simp] theorem put_tb (c : Chip) (f : Fld) (v : Nat) : (c.put f v).tb = c.tb := rfl
@[simp] theorem put_idcode (c : Chip) (f : Fld) (v : Nat) : (c.put f v).idcode = c.idcode := rfl
@[simp] theorem put_regs (c : Chip) (f : Fld) (v : Nat) : (c.put f v).regs = spSet (regReset f.addr) f.addr (f.ins (c.rd f.addr) v) c.regs := rfl
@[simp] theorem put_staged (c : Chip) (f : Fld) (v : Nat) : (c.put f v).staged = c.staged := rfl
@[simp] theorem put_mem (c : Chip) (f : Fld) (v : Nat) : (c.put f v).mem = c.mem := rfl
@[simp] theorem put_sys (c : Chip) (f : Fld) (v : Nat) : (c.put f v).sys = c.sys := rfl
@[simp] theorem put_image (c : Chip) (f : Fld) (v : Nat) : (c.put f v).image = c.image := rfl
@[simp] theorem put_img (c : Chip) (f : Fld) (v : Nat) : (c.put f v).img = c.img := rfl
@[simp] theorem put_tasks (c : Chip) (f : Fld) (v : Nat) : (c.put f v).tasks = c.tasks := rfl
@[simp] theorem put_engs (c : Chip) (f : Fld) (v : Nat) : (c.put f v).engs = c.engs := rfl
@[simp] theorem put_phys (c : Chip) (f : Fld) (v : Nat) : (c.put f v).phys = c.phys := rfl
@[simp] theorem put_cores (c : Chip) (f : Fld) (v : Nat) : (c.put f v).cores = c.cores := rfl
@[simp] theorem put_rings (c : Chip) (f : Fld) (v : Nat) : (c.put f v).rings = c.rings := rfl
@[simp] theorem put_hsb (c : Chip) (f : Fld) (v : Nat) : (c.put f v).hsb = c.hsb := rfl
@[simp] theorem put_olc (c : Chip) (f : Fld) (v : Nat) : (c.put f v).olc = c.olc := rfl
@[simp] theorem put_flt (c : Chip) (f : Fld) (v : Nat) : (c.put f v).flt = c.flt := rfl
@[simp] theorem put_pins (c : Chip) (f : Fld) (v : Nat) : (c.put f v).pins = c.pins := rfl
@[simp] theorem put_resp (c : Chip) (f : Fld) (v : Nat) : (c.put f v).resp = c.resp := rfl
@[simp] theorem put_free (c : Chip) (f : Fld) (v : Nat) : (c.put f v).free = c.free := rfl
@[simp] theorem put_rcd (c : Chip) (f : Fld) (v : Nat) : (c.put f v).rcd = c.rcd := rfl
@[simp] theorem put_turn (c : Chip) (f : Fld) (v : Nat) : (c.put f v).turn = c.turn := rfl
@[simp] theorem put_grd (c : Chip) (f : Fld) (v : Nat) : (c.put f v).grd = c.grd := rfl
@[simp] theorem put_mbx (c : Chip) (f : Fld) (v : Nat) : (c.put f v).mbx = c.mbx := rfl
@[simp] theorem put_rtc (c : Chip) (f : Fld) (v : Nat) : (c.put f v).rtc = c.rtc := rfl
@[simp] theorem put_wdg (c : Chip) (f : Fld) (v : Nat) : (c.put f v).wdg = c.wdg := rfl
@[simp] theorem put_nvs (c : Chip) (f : Fld) (v : Nat) : (c.put f v).nvs = c.nvs := rfl
@[simp] theorem put_cans (c : Chip) (f : Fld) (v : Nat) : (c.put f v).cans = c.cans := rfl
@[simp] theorem put_mim (c : Chip) (f : Fld) (v : Nat) : (c.put f v).mim = c.mim := rfl
@[simp] theorem put_pwr (c : Chip) (f : Fld) (v : Nat) : (c.put f v).pwr = c.pwr := rfl
@[simp] theorem put_upd (c : Chip) (f : Fld) (v : Nat) : (c.put f v).upd = c.upd := rfl
@[simp] theorem put_ldB (c : Chip) (f : Fld) (v : Nat) (a : Nat) : (c.put f v).ldB a = c.ldB a := rfl
@[simp] theorem put_task (c : Chip) (f : Fld) (v : Nat) (u : Fin 32) : (c.put f v).task u = c.task u := rfl
@[simp] theorem put_eng (c : Chip) (f : Fld) (v : Nat) (h : Fin 16) : (c.put f v).eng h = c.eng h := rfl
@[simp] theorem put_ph (c : Chip) (f : Fld) (v : Nat) (q : Fin 18) : (c.put f v).ph q = c.ph q := rfl
@[simp] theorem put_core (c : Chip) (f : Fld) (v : Nat) (k : Fin 2) : (c.put f v).core k = c.core k := rfl
@[simp] theorem put_ring (c : Chip) (f : Fld) (v : Nat) (s : Fin 4) : (c.put f v).ring s = c.ring s := rfl

/-! ### answer -/

@[simp] theorem answer_tb (c : Chip) (l : List Byte) : (c.answer l).tb = c.tb := rfl
@[simp] theorem answer_idcode (c : Chip) (l : List Byte) : (c.answer l).idcode = c.idcode := rfl
@[simp] theorem answer_regs (c : Chip) (l : List Byte) : (c.answer l).regs = c.regs := rfl
@[simp] theorem answer_staged (c : Chip) (l : List Byte) : (c.answer l).staged = c.staged := rfl
@[simp] theorem answer_mem (c : Chip) (l : List Byte) : (c.answer l).mem = c.mem := rfl
@[simp] theorem answer_sys (c : Chip) (l : List Byte) : (c.answer l).sys = c.sys := rfl
@[simp] theorem answer_image (c : Chip) (l : List Byte) : (c.answer l).image = c.image := rfl
@[simp] theorem answer_img (c : Chip) (l : List Byte) : (c.answer l).img = c.img := rfl
@[simp] theorem answer_tasks (c : Chip) (l : List Byte) : (c.answer l).tasks = c.tasks := rfl
@[simp] theorem answer_engs (c : Chip) (l : List Byte) : (c.answer l).engs = c.engs := rfl
@[simp] theorem answer_phys (c : Chip) (l : List Byte) : (c.answer l).phys = c.phys := rfl
@[simp] theorem answer_cores (c : Chip) (l : List Byte) : (c.answer l).cores = c.cores := rfl
@[simp] theorem answer_rings (c : Chip) (l : List Byte) : (c.answer l).rings = c.rings := rfl
@[simp] theorem answer_hsb (c : Chip) (l : List Byte) : (c.answer l).hsb = c.hsb := rfl
@[simp] theorem answer_olc (c : Chip) (l : List Byte) : (c.answer l).olc = c.olc := rfl
@[simp] theorem answer_flt (c : Chip) (l : List Byte) : (c.answer l).flt = c.flt := rfl
@[simp] theorem answer_pins (c : Chip) (l : List Byte) : (c.answer l).pins = c.pins := rfl
@[simp] theorem answer_resp (c : Chip) (l : List Byte) : (c.answer l).resp = ⟨l, false⟩ := rfl
@[simp] theorem answer_free (c : Chip) (l : List Byte) : (c.answer l).free = c.free := rfl
@[simp] theorem answer_rcd (c : Chip) (l : List Byte) : (c.answer l).rcd = c.rcd := rfl
@[simp] theorem answer_turn (c : Chip) (l : List Byte) : (c.answer l).turn = c.turn := rfl
@[simp] theorem answer_grd (c : Chip) (l : List Byte) : (c.answer l).grd = c.grd := rfl
@[simp] theorem answer_mbx (c : Chip) (l : List Byte) : (c.answer l).mbx = c.mbx := rfl
@[simp] theorem answer_rtc (c : Chip) (l : List Byte) : (c.answer l).rtc = c.rtc := rfl
@[simp] theorem answer_wdg (c : Chip) (l : List Byte) : (c.answer l).wdg = c.wdg := rfl
@[simp] theorem answer_nvs (c : Chip) (l : List Byte) : (c.answer l).nvs = c.nvs := rfl
@[simp] theorem answer_cans (c : Chip) (l : List Byte) : (c.answer l).cans = c.cans := rfl
@[simp] theorem answer_mim (c : Chip) (l : List Byte) : (c.answer l).mim = c.mim := rfl
@[simp] theorem answer_pwr (c : Chip) (l : List Byte) : (c.answer l).pwr = c.pwr := rfl
@[simp] theorem answer_upd (c : Chip) (l : List Byte) : (c.answer l).upd = c.upd := rfl
@[simp] theorem answer_rd (c : Chip) (l : List Byte) (a : Nat) : (c.answer l).rd a = c.rd a := rfl
@[simp] theorem answer_get (c : Chip) (l : List Byte) (g : Fld) : (c.answer l).get g = c.get g := rfl
@[simp] theorem answer_flag (c : Chip) (l : List Byte) (g : Fld) : (c.answer l).flag g = c.flag g := rfl
@[simp] theorem answer_ldB (c : Chip) (l : List Byte) (a : Nat) : (c.answer l).ldB a = c.ldB a := rfl
@[simp] theorem answer_task (c : Chip) (l : List Byte) (u : Fin 32) : (c.answer l).task u = c.task u := rfl
@[simp] theorem answer_eng (c : Chip) (l : List Byte) (h : Fin 16) : (c.answer l).eng h = c.eng h := rfl
@[simp] theorem answer_ph (c : Chip) (l : List Byte) (q : Fin 18) : (c.answer l).ph q = c.ph q := rfl
@[simp] theorem answer_core (c : Chip) (l : List Byte) (k : Fin 2) : (c.answer l).core k = c.core k := rfl
@[simp] theorem answer_ring (c : Chip) (l : List Byte) (s : Fin 4) : (c.answer l).ring s = c.ring s := rfl

end Sys2Proof.Laws
end

