-- ==== Sys2Proof/Laws/Issue.lean ====
section
/-! SUPPORT. What the issue of an instruction does, once for all instructions: laws about `Chip.issueLe` and the functions around it. -/

namespace Sys2Proof.Laws

open Sys2Proof.Machine Sys2Proof.Safety

/-- Writing an engine's own contents back changes nothing. -/
theorem modPh_same (c : Chip) (p : Fin 18) (f : Phys → Phys) (h : f c.phys[p] = c.phys[p]) : c.modPh p f = c := by
  unfold Chip.modPh
  rw [h]
  have : c.phys.set p c.phys[p] = c.phys := by
    ext i hi
    simp only [Vector.getElem_set]
    split
    · subst_vars; rfl
    · rfl
  rw [this]

/-- Two changes of one task are one. -/
theorem modTask_modTask (c : Chip) (t : Fin 32) (f g : Task → Task) : (c.modTask t f).modTask t g = c.modTask t fun k => g (f k) := by
  simp [Chip.modTask]

/-- Two changes that agree on the task's contents are the same. -/
theorem modTask_congr (c : Chip) (t : Fin 32) (f g : Task → Task) (h : f c.tasks[t] = g c.tasks[t]) : c.modTask t f = c.modTask t g := by
  simp only [Chip.modTask, h]

@[simp] theorem modTask_task (c : Chip) (t : Fin 32) (f : Task → Task) : (c.modTask t f).task t = f (c.task t) := by
  simp [Chip.modTask, Chip.task]

theorem forIn_nil {α : Type} (c : Chip) (f : α → Chip → Chip) : c.forIn [] f = c := rfl

/-- Counting steps within the budget. -/
theorem countSteps_ok (c : Chip) (t : Fin 32) (n : Nat) (h : (c.task t).steps + n ≤ c.get (SCN_TBUD.TBUD t)) :
    c.countSteps t n = c.modTask t fun k => { k with steps := k.steps + n } := by
  simp [Chip.countSteps]
  omega

/-- A SINGLE task's instruction without stores, pushes or pops: its registers and step count change, and nothing else. -/
theorem retire_plain (c : Chip) (e : Fin 16) (t : Fin 32) (p : Fin 18) (ext : Bool) (out : KOut) (sx : Ctx)
    (hp : (c.task t).paired = false) (hi : (c.task t).inBlock = false) (ha : (c.task t).admitted = false) (hw : (c.task t).waiting = false)
    (hr : (c.task t).resumed = false) (hs : out.stores = []) (hu : out.push = false) (ho : out.pop = false) (hn : out.next ≠ .stay)
    (hb : (c.task t).steps + out.steps ≤ c.get (SCN_TBUD.TBUD t)) :
    c.retire e t p ext out sx none = c.modTask t fun k => { k with ctx := nextPc out (c.task t).ctx.pc ext, steps := k.steps + out.steps } := by
  unfold Chip.retire
  simp only [Chip.storeAll, hp, hs, forIn_nil, stackAfter, hu, ho, Bool.not_false, ite_true, Bool.false_eq_true, ite_false]
  rw [modPh_same _ _ _ rfl]
  simp only [hn, ite_false, Chip.blockEnd, modTask_task, ha, Bool.false_eq_true, modTask_modTask, decide_false]
  rw [countSteps_ok]
  · simp only [modTask_modTask]
    apply modTask_congr
    have : c.tasks[t] = c.task t := rfl
    rw [this]
    generalize c.task t = k at hi ha hw hr
    cases k
    simp_all
  · simpa using hb

/-- An instruction of a SINGLE task that runs: what `issueLe` makes of the meaning's answer. -/
theorem issueLe_single (c : Chip) (e : Fin 16) (opc : Nat) (o : Op) (sem : Sem) (t : Fin 32) (p : Fin 18) (out : KOut)
    (hc : c.canIssue e = some (t, p)) (hf : c.fetchExc p opc o (c.task t).ctx.pc = none)
    (hq : condHolds o.cond (c.task t).ctx.flg (c.task t).ctx.ba = true) (hp : (c.task t).paired = false) (he : o.ecc = .ok)
    (hw : (c.task t).waiting = false) (hn : needsAdmission opc o.opd (c.task t).ctx = false)
    (hs : sem (c.kin t p false false opc o.am o.opd o.ext (c.task t).ctx) = .ok out) :
    c.issueLe e opc o sem = c.retire e t p (hasExt opc o.am) out (c.task t).sctx.compl none := by
  have e1 : (Ecc.ok == Ecc.uncorrectable) = false := rfl
  have e2 : (Ecc.ok == Ecc.corrected) = false := rfl
  unfold Chip.issueLe Chip.gate
  simp only [hc, hf, hp, hq, he, e1, e2]
  simp [hn, hw, hs, hp]

/-- The same, for an instruction without stores, pushes or pops. -/
theorem issueLe_plain (c : Chip) (e : Fin 16) (opc : Nat) (o : Op) (sem : Sem) (t : Fin 32) (p : Fin 18) (out : KOut)
    (hc : c.canIssue e = some (t, p)) (hf : c.fetchExc p opc o (c.task t).ctx.pc = none)
    (hq : condHolds o.cond (c.task t).ctx.flg (c.task t).ctx.ba = true) (hp : (c.task t).paired = false) (he : o.ecc = .ok)
    (hw : (c.task t).waiting = false) (hi : (c.task t).inBlock = false) (ha : (c.task t).admitted = false) (hr : (c.task t).resumed = false)
    (hn : needsAdmission opc o.opd (c.task t).ctx = false)
    (hs : sem (c.kin t p false false opc o.am o.opd o.ext (c.task t).ctx) = .ok out)
    (h1 : out.stores = []) (h2 : out.push = false) (h3 : out.pop = false) (h4 : out.next ≠ .stay)
    (hb : (c.task t).steps + out.steps ≤ c.get (SCN_TBUD.TBUD t)) :
    c.issueLe e opc o sem =
      c.modTask t fun k => { k with ctx := nextPc out (c.task t).ctx.pc (hasExt opc o.am), steps := k.steps + out.steps } := by
  rw [issueLe_single c e opc o sem t p out hc hf hq hp he hw hn hs]
  exact retire_plain c e t p _ out _ hp hi ha hw hr h1 h2 h3 h4 hb

/-- `runs_plain`: a command whose arm issues `sem`, for a SINGLE task, in the terms of the statements. -/
theorem runs_plain (i : Op → Instr) (opc : Nat) (sem : Sem) (hx : ∀ o s, exec (i o) s = s.on fun c => c.issue opc o sem)
    (hna : ∀ opd x, needsAdmission opc opd x = false)
    (s : State) (o : Op) (e : Fin 16) (t : Fin 32) (p : Fin 18) (out : KOut) (h : Runs s o opc e t p)
    (hs : sem (view s o opc t p) = .ok out)
    (h1 : out.stores = []) (h2 : out.push = false) (h3 : out.pop = false) (h4 : out.next ≠ .stay) (hb : InBudget s o t out.steps) :
    exec (i o) s = .next (ranTo s o t (nextPc out (regsOf s o t).pc (hasExt opc o.am)) out.steps) := by
  obtain ⟨⟨hpow, hle, hecc, hcan, hfe, hcond, hw, hi, ha, hr⟩, hp⟩ := h
  rw [hx]
  unfold State.on State.onHeld
  have hpow' : s.chip.sys.held = .no := hpow
  simp only [hpow', ite_true, Chip.issue, hle]
  rw [issueLe_plain (s.chip.arrive o.now) e opc o sem t p out hcan hfe hcond hp hecc hw hi ha hr (hna _ _) hs h1 h2 h3 h4 hb]
  rfl

/-! ### Instructions that change registers alone -/

@[simp] theorem view_x (s : State) (o : Op) (opc : Nat) (t : Fin 32) (p : Fin 18) : (view s o opc t p).x = regsOf s o t := rfl
@[simp] theorem view_am (s : State) (o : Op) (opc : Nat) (t : Fin 32) (p : Fin 18) : (view s o opc t p).am = o.am := rfl
@[simp] theorem view_opd (s : State) (o : Op) (opc : Nat) (t : Fin 32) (p : Fin 18) : (view s o opc t p).opd = o.opd := rfl
@[simp] theorem view_ext (s : State) (o : Op) (opc : Nat) (t : Fin 32) (p : Fin 18) : (view s o opc t p).ext = o.ext := rfl

/-- An instruction with a 32-bit operand. -/
theorem runs_word (i : Op → Instr) (opc n : Nat) (sem : Sem) (hx : ∀ o s, exec (i o) s = s.on fun c => c.issue opc o sem)
    (hna : ∀ opd x, needsAdmission opc opd x = false) (s : State) (o : Op) (e : Fin 16) (t : Fin 32) (p : Fin 18) (b : Word) (x' : Ctx)
    (h : RunsWord s o opc e t p b n)
    (hs : (view s o opc t p).word = .ok b → sem (view s o opc t p) = .ok { x := x', steps := n + (view s o opc t p).s }) :
    exec (i o) s = wordTo s o opc t p n x' := by
  obtain ⟨h1, h2, h3⟩ := h
  rw [runs_plain i opc sem hx hna s o e t p _ h1 (hs h2) rfl rfl rfl (by simp) h3]
  rfl

/-- An instruction with a 64-bit operand. -/
theorem runs_long (i : Op → Instr) (opc n : Nat) (sem : Sem) (hx : ∀ o s, exec (i o) s = s.on fun c => c.issue opc o sem)
    (hna : ∀ opd x, needsAdmission opc opd x = false) (s : State) (o : Op) (e : Fin 16) (t : Fin 32) (p : Fin 18) (b : Long) (x' : Ctx)
    (h : RunsLong s o opc e t p b n)
    (hs : (view s o opc t p).long = .ok b → sem (view s o opc t p) = .ok { x := x', steps := n + (view s o opc t p).sL }) :
    exec (i o) s = longTo s o opc t p n x' := by
  obtain ⟨h1, h2, h3⟩ := h
  rw [runs_plain i opc sem hx hna s o e t p _ h1 (hs h2) rfl rfl rfl (by simp) h3]
  rfl

/-- An instruction without a memory operand. -/
theorem runs_in (i : Op → Instr) (opc n : Nat) (sem : Sem) (hx : ∀ o s, exec (i o) s = s.on fun c => c.issue opc o sem)
    (hna : ∀ opd x, needsAdmission opc opd x = false) (s : State) (o : Op) (e : Fin 16) (t : Fin 32) (p : Fin 18) (x' : Ctx)
    (h : RunsIn s o opc e t p n) (hs : sem (view s o opc t p) = .ok { x := x', steps := n }) :
    exec (i o) s = plainTo s o opc t n x' := by
  obtain ⟨h1, h3⟩ := h
  rw [runs_plain i opc sem hx hna s o e t p _ h1 hs rfl rfl rfl (by simp) h3]
  rfl

/-- The model's range check and the statements' overflow are one. -/
theorem not_fitsS (w : Nat) (i : Int) : (!fitsS w i) = overflows w i := by
  unfold fitsS overflows
  generalize (2 : Int) ^ (w - 1) = m
  by_cases h : i < -m
  · have : ¬ (-m ≤ i) := by omega
    simp [h, this]
  · by_cases h2 : m ≤ i
    · have : ¬ (i < m) := by omega
      simp [h2, this]
    · have : -m ≤ i := by omega
      have : i < m := by omega
      simp [*]

end Sys2Proof.Laws
end

