-- ==== Sys2Proof/Laws/Sparse.lean ====
section
/-! SUPPORT. Sparse arrays: what a read gives after a write, and that a write keeps the canonical form. -/

namespace Sys2Proof.Laws

open Sys2Proof.Machine

variable {α : Type}

theorem spGet_spIns_same (d : α) (k : Nat) (v : α) (l : List (Nat × α)) : spGet d (spIns k v l) k = v := by
  induction l with
  | nil => simp [spIns, spGet]
  | cons e l ih =>
    obtain ⟨k', v'⟩ := e
    by_cases h : k < k'
    · simp [spIns, spGet, h]
    · by_cases h' : k' = k
      · simp [spIns, spGet, h']
      · simp [spIns, spGet, h, h', ih]

theorem spGet_spIns_other (d : α) (k j : Nat) (v : α) (l : List (Nat × α)) (h : j ≠ k) : spGet d (spIns k v l) j = spGet d l j := by
  induction l with
  | nil => simp [spIns, spGet, Ne.symm h]
  | cons e l ih =>
    obtain ⟨k', v'⟩ := e
    by_cases h1 : k < k'
    · simp [spIns, spGet, h1, Ne.symm h]
    · by_cases h2 : k' = k
      · subst h2; simp [spIns, spGet, Ne.symm h]
      · simp [spIns, spGet, h1, h2, ih]

theorem spGet_spDel_other (d : α) (k j : Nat) (l : List (Nat × α)) (h : j ≠ k) : spGet d (spDel k l) j = spGet d l j := by
  induction l with
  | nil => rfl
  | cons e l ih =>
    obtain ⟨k', v'⟩ := e
    by_cases h2 : k' = k
    · subst h2; simp [spDel, spGet, Ne.symm h]
    · simp [spDel, spGet, h2, ih]

/-- Every key of a rising list is above a key below its head. -/
theorem spSorted_above (k : Nat) (v : α) (l : List (Nat × α)) (h : spSorted ((k, v) :: l) = true) : ∀ e ∈ l, k < e.1 := by
  induction l generalizing k v with
  | nil => simp
  | cons e l ih =>
    obtain ⟨k', v'⟩ := e
    simp only [spSorted, Bool.and_eq_true, decide_eq_true_eq] at h
    intro e he
    rcases List.mem_cons.1 he with rfl | he
    · exact h.1
    · exact Nat.lt_trans h.1 (ih k' v' h.2 e he)

theorem spSorted_tail (e : Nat × α) (l : List (Nat × α)) (h : spSorted (e :: l) = true) : spSorted l = true := by
  cases l with
  | nil => rfl
  | cons e' l =>
    obtain ⟨k', v'⟩ := e'
    obtain ⟨k, v⟩ := e
    simp only [spSorted, Bool.and_eq_true] at h
    exact h.2

theorem spSorted_cons (k : Nat) (v : α) (l : List (Nat × α)) (h : spSorted l = true) (ha : ∀ e ∈ l, k < e.1) : spSorted ((k, v) :: l) = true := by
  cases l with
  | nil => rfl
  | cons e l =>
    obtain ⟨k', v'⟩ := e
    simp only [spSorted, Bool.and_eq_true, decide_eq_true_eq]
    exact ⟨ha _ List.mem_cons_self, h⟩

/-- A key below all the keys listed reads the default. -/
theorem spGet_above (d : α) (k : Nat) (l : List (Nat × α)) (h : ∀ e ∈ l, k < e.1) : spGet d l k = d := by
  induction l with
  | nil => rfl
  | cons e l ih =>
    obtain ⟨k', v'⟩ := e
    have : k < k' := h (k', v') List.mem_cons_self
    have h' : k' ≠ k := by omega
    simp only [spGet, h', ite_false]
    exact ih fun e he => h e (List.mem_cons_of_mem _ he)

theorem spGet_spDel_same (d : α) (k : Nat) (l : List (Nat × α)) (h : spSorted l = true) : spGet d (spDel k l) k = d := by
  induction l with
  | nil => rfl
  | cons e l ih =>
    obtain ⟨k', v'⟩ := e
    by_cases h2 : k' = k
    · subst h2
      simp only [spDel, ite_true]
      exact spGet_above d _ l (spSorted_above _ v' l h)
    · simp only [spDel, spGet, h2, ite_false]
      exact ih (spSorted_tail _ l h)

theorem spIns_mem (k : Nat) (v : α) (l : List (Nat × α)) (e : Nat × α) (h : e ∈ spIns k v l) : e = (k, v) ∨ e ∈ l := by
  induction l with
  | nil => simpa [spIns] using h
  | cons f l ih =>
    obtain ⟨k', v'⟩ := f
    unfold spIns at h
    split at h
    · simpa using h
    · split at h
      · rcases List.mem_cons.1 h with rfl | h
        · exact .inl rfl
        · exact .inr (List.mem_cons_of_mem _ h)
      · rcases List.mem_cons.1 h with rfl | h
        · exact .inr List.mem_cons_self
        · exact (ih h).imp_right (List.mem_cons_of_mem _)

theorem spDel_mem (k : Nat) (l : List (Nat × α)) (e : Nat × α) (h : e ∈ spDel k l) : e ∈ l := by
  induction l with
  | nil => simp [spDel] at h
  | cons f l ih =>
    obtain ⟨k', v'⟩ := f
    unfold spDel at h
    split at h
    · exact List.mem_cons_of_mem _ h
    · rcases List.mem_cons.1 h with rfl | h
      · exact List.mem_cons_self
      · exact List.mem_cons_of_mem _ (ih h)

theorem spSorted_spIns (k : Nat) (v : α) (l : List (Nat × α)) (h : spSorted l = true) : spSorted (spIns k v l) = true := by
  induction l with
  | nil => rfl
  | cons e l ih =>
    obtain ⟨k', v'⟩ := e
    have ha := spSorted_above _ _ _ h
    unfold spIns
    split
    · rename_i hk
      exact spSorted_cons _ _ _ h fun e he => by
        rcases List.mem_cons.1 he with rfl | he
        · exact hk
        · exact Nat.lt_trans hk (ha e he)
    · split
      · rename_i hk; subst hk
        exact spSorted_cons _ _ _ (spSorted_tail _ _ h) ha
      · refine spSorted_cons _ _ _ (ih (spSorted_tail _ _ h)) fun e he => ?_
        rcases spIns_mem _ _ _ _ he with rfl | he
        · simp only; omega
        · exact ha e he

theorem spSorted_spDel (k : Nat) (l : List (Nat × α)) (h : spSorted l = true) : spSorted (spDel k l) = true := by
  induction l with
  | nil => rfl
  | cons e l ih =>
    obtain ⟨k', v'⟩ := e
    unfold spDel
    split
    · exact spSorted_tail _ _ h
    · exact spSorted_cons _ _ _ (ih (spSorted_tail _ _ h)) fun e he => spSorted_above _ _ _ h e (spDel_mem _ _ _ he)

/-- A rising list is one whose entries rise pairwise. -/
theorem spSorted_iff (l : List (Nat × α)) : spSorted l = true ↔ l.Pairwise fun a b => a.1 < b.1 := by
  induction l with
  | nil => simp [spSorted]
  | cons e l ih =>
    obtain ⟨k, v⟩ := e
    rw [List.pairwise_cons]
    exact ⟨fun h => ⟨spSorted_above k v l h, ih.1 (spSorted_tail _ l h)⟩, fun h => spSorted_cons k v l (ih.2 h.2) h.1⟩

variable [DecidableEq α]

/-- The canonical form, entry by entry. -/
theorem spWf_iff (d : Nat → α) (l : List (Nat × α)) : spWf d l = true ↔ (l.Pairwise fun a b => a.1 < b.1) ∧ ∀ e ∈ l, e.2 ≠ d e.1 := by
  simp [spWf, spSorted_iff]

/-- Leaving entries out keeps the canonical form. -/
theorem spWf_filter (d : Nat → α) (l : List (Nat × α)) (p : Nat × α → Bool) (h : spWf d l = true) : spWf d (l.filter p) = true := by
  rw [spWf_iff] at h ⊢
  exact ⟨h.1.filter p, fun e he => h.2 e (List.mem_filter.1 he).1⟩

/-- After a write, another key reads as before. -/
theorem spGet_spSet_other (d d' : α) (k j : Nat) (v : α) (l : List (Nat × α)) (h : j ≠ k) : spGet d (spSet d' k v l) j = spGet d l j := by
  unfold spSet
  split
  · exact spGet_spDel_other _ _ _ _ h
  · exact spGet_spIns_other _ _ _ _ _ h

/-- After a write to a rising list, the key reads what was written. -/
theorem spGet_spSet_same (d : α) (k : Nat) (v : α) (l : List (Nat × α)) (h : spSorted l = true) : spGet d (spSet d k v l) k = v := by
  unfold spSet
  split
  · rename_i hv; rw [hv]; exact spGet_spDel_same _ _ _ h
  · exact spGet_spIns_same _ _ _ _

/-- A list in canonical form is rising. -/
theorem spWf_sorted (d : Nat → α) (l : List (Nat × α)) (h : spWf d l = true) : spSorted l = true := by
  simp only [spWf, Bool.and_eq_true] at h
  exact h.1

/-- A write keeps the canonical form. -/
theorem spWf_spSet (d : Nat → α) (k : Nat) (v : α) (l : List (Nat × α)) (h : spWf d l = true) : spWf d (spSet (d k) k v l) = true := by
  simp only [spWf, Bool.and_eq_true, List.all_eq_true, decide_eq_true_eq] at h ⊢
  unfold spSet
  split
  · exact ⟨spSorted_spDel _ _ h.1, fun e he => h.2 e (spDel_mem _ _ _ he)⟩
  · rename_i hv
    refine ⟨spSorted_spIns _ _ _ h.1, fun e he => ?_⟩
    rcases spIns_mem _ _ _ _ he with rfl | he
    · exact hv
    · exact h.2 e he

end Sys2Proof.Laws
end

