-- ==== Sys2Proof/Laws/Memory.lean ====
section
/-! SUPPORT. Memory: a read after a write, what a write leaves alone, and that every operation on memory keeps its canonical form. -/

namespace Sys2Proof.Laws

open Sys2Proof.Machine

/-! ### What a write of memory changes -/

/-- A dirty mark changes the standby controller's page list alone (R275). -/
theorem mark_eq (c : Chip) (a : Nat) : c.mark a = { c with hsb := (c.mark a).hsb } := by
  unfold Chip.mark
  split <;> rfl

/-- A byte written changes memory and the page list alone. -/
theorem stB_eq (c : Chip) (a : Nat) (b : Byte) :
    c.stB a b = { c with hsb := (c.mark a).hsb, mem := spSet (memDefault a) a b c.mem } := by
  unfold Chip.stB
  rw [mark_eq]

@[simp] theorem stB_regs (c : Chip) (a : Nat) (b : Byte) : (c.stB a b).regs = c.regs := by rw [stB_eq]
@[simp] theorem stB_img (c : Chip) (a : Nat) (b : Byte) : (c.stB a b).img = c.img := by rw [stB_eq]
@[simp] theorem stB_tasks (c : Chip) (a : Nat) (b : Byte) : (c.stB a b).tasks = c.tasks := by rw [stB_eq]
@[simp] theorem stB_phys (c : Chip) (a : Nat) (b : Byte) : (c.stB a b).phys = c.phys := by rw [stB_eq]
@[simp] theorem stB_mem (c : Chip) (a : Nat) (b : Byte) : (c.stB a b).mem = spSet (memDefault a) a b c.mem := rfl

/-! ### Bytes -/

/-- A byte reads what was written. -/
theorem ldB_stB_same (c : Chip) (a : Nat) (b : Byte) (h : Memory.wf c.mem = true) : (c.stB a b).ldB a = b :=
  spGet_spSet_same _ _ _ _ (spWf_sorted _ _ h)

/-- A write of a byte leaves every other byte. -/
theorem ldB_stB_other (c : Chip) (a i : Nat) (b : Byte) (h : i ≠ a) : (c.stB a b).ldB i = c.ldB i := spGet_spSet_other _ _ _ _ _ _ h

/-- A write of a byte keeps the canonical form. -/
theorem stB_wf (c : Chip) (a : Nat) (b : Byte) (h : Memory.wf c.mem = true) : Memory.wf (c.stB a b).mem = true := spWf_spSet _ _ _ _ h

/-! ### Values of several bytes, little-endian -/

theorem st_wf (c : Chip) (a n v : Nat) (h : Memory.wf c.mem = true) : Memory.wf (c.st a n v).mem = true := by
  induction n generalizing c a v with
  | zero => exact h
  | succ n ih => exact ih _ _ _ (stB_wf _ _ _ h)

theorem ldB_st_other (c : Chip) (a n v i : Nat) (h : i < a ∨ a + n ≤ i) : (c.st a n v).ldB i = c.ldB i := by
  induction n generalizing c a v with
  | zero => rfl
  | succ n ih =>
    have := ih (c.stB a (BitVec.ofNat 8 v)) (a + 1) (v / 256) (by omega)
    simp only [Chip.st, this]
    exact ldB_stB_other _ _ _ _ (by omega)

/-- Reading depends on the bytes read alone. -/
theorem ld_congr (c d : Chip) (a n : Nat) (h : ∀ i, a ≤ i → i < a + n → c.ldB i = d.ldB i) : c.ld a n = d.ld a n := by
  induction n generalizing a with
  | zero => rfl
  | succ n ih =>
    simp only [Chip.ld, h a (by omega) (by omega)]
    rw [ih (a + 1) fun i hi hj => h i (by omega) (by omega)]

/-- A value read back is the value written, modulo its width. -/
theorem ld_st_same (c : Chip) (a n v : Nat) (h : Memory.wf c.mem = true) : (c.st a n v).ld a n = v % 256 ^ n := by
  induction n generalizing c a v with
  | zero => simp [Chip.ld, Nat.mod_one]
  | succ n ih =>
    have hw := stB_wf c a (BitVec.ofNat 8 v) h
    have hm : v % 256 ^ (n + 1) = v % 256 + 256 * (v / 256 % 256 ^ n) := by rw [Nat.pow_succ', Nat.mod_mul]
    simp only [Chip.st, Chip.ld, hm]
    rw [ldB_st_other _ _ _ _ _ (by omega), ldB_stB_same _ _ _ h, ih _ _ _ hw, BitVec.toNat_ofNat]

theorem stBytes_wf (c : Chip) (a : Nat) (l : List Byte) (h : Memory.wf c.mem = true) : Memory.wf (c.stBytes a l).mem = true := by
  induction l generalizing c a with
  | nil => exact h
  | cons b l ih => exact ih _ _ (stB_wf _ _ _ h)

theorem ldB_stBytes_other (c : Chip) (a : Nat) (l : List Byte) (i : Nat) (h : i < a ∨ a + l.length ≤ i) : (c.stBytes a l).ldB i = c.ldB i := by
  induction l generalizing c a with
  | nil => rfl
  | cons b l ih =>
    simp only [List.length_cons] at h
    simp only [Chip.stBytes, ih (c.stB a b) (a + 1) (by omega)]
    exact ldB_stB_other _ _ _ _ (by omega)

/-- A list of bytes reads back byte by byte. -/
theorem ldB_stBytes_same (c : Chip) (a : Nat) (l : List Byte) (j : Nat) (h : Memory.wf c.mem = true) (hj : j < l.length) :
    (c.stBytes a l).ldB (a + j) = l[j] := by
  induction l generalizing c a j with
  | nil => simp at hj
  | cons b l ih =>
    simp only [Chip.stBytes]
    cases j with
    | zero =>
      simp only [Nat.add_zero, List.getElem_cons_zero]
      rw [ldB_stBytes_other _ _ _ _ (by omega), ldB_stB_same _ _ _ h]
    | succ j =>
      rw [show a + (j + 1) = a + 1 + j by omega, ih _ _ _ (stB_wf _ _ _ h) (by simpa using hj), List.getElem_cons_succ]

/-! ### Bits -/

theorem stBit_wf (c : Chip) (b : Nat) (v : Bool) (h : Memory.wf c.mem = true) : Memory.wf (c.stBit b v).mem = true := stB_wf _ _ _ h

/-- A byte with one bit set or cleared. -/
theorem byte_bit (x : Byte) (k j : Nat) (v : Bool) (hk : k < 8) (hj : j < 8) :
    (if v then x ||| ((1 : Byte) <<< k) else x &&& ~~~((1 : Byte) <<< k)).getLsbD j = if j = k then v else x.getLsbD j := by
  have hm : ((1 : Byte) <<< k).getLsbD j = decide (j = k) := by
    simp only [BitVec.getLsbD_shiftLeft, hj, decide_true, Bool.true_and]
    by_cases h : j < k
    · simp [h, show j ≠ k by omega]
    · by_cases h' : j = k
      · subst h'; simp
      · have : (1 : Byte).getLsbD (j - k) = decide (j - k = 0) := by simp [BitVec.getLsbD_one]
        rw [this]
        simp [h, h', show j - k ≠ 0 by omega]
  cases v <;> simp only [Bool.false_eq_true, ite_true, ite_false, BitVec.getLsbD_or, BitVec.getLsbD_and, BitVec.getLsbD_not, hm, hj, decide_true,
    Bool.true_and] <;> by_cases h : j = k <;> simp [h]

/-- A bit reads what was written. -/
theorem ldBit_stBit_same (c : Chip) (b : Nat) (v : Bool) (h : Memory.wf c.mem = true) : (c.stBit b v).ldBit b = v := by
  have hb : b % 8 < 8 := Nat.mod_lt _ (by decide)
  simp only [Chip.ldBit, Chip.stBit, ldB_stB_same _ _ _ h]
  rw [byte_bit _ _ _ _ hb hb, if_pos rfl]

/-- A write of a bit leaves every other bit. -/
theorem ldBit_stBit_other (c : Chip) (b i : Nat) (v : Bool) (h : Memory.wf c.mem = true) (hi : i ≠ b) : (c.stBit b v).ldBit i = c.ldBit i := by
  have hl : i % 8 < 8 := Nat.mod_lt _ (by decide)
  have hb : b % 8 < 8 := Nat.mod_lt _ (by decide)
  by_cases hq : i / 8 = b / 8
  · simp only [Chip.ldBit, Chip.stBit, hq, ldB_stB_same _ _ _ h]
    rw [byte_bit _ _ _ _ hb hl, if_neg (by omega)]
  · simp only [Chip.ldBit, Chip.stBit]
    rw [ldB_stB_other _ _ _ _ (by omega)]

/-! ### Whole ranges -/

/-- Erasing cells of the parameter store keeps the canonical form. -/
theorem eraseNvs_wf (c : Chip) (o n : Nat) (h : Memory.wf c.mem = true) : Memory.wf (c.eraseNvs o n).mem = true := spWf_filter _ _ _ h

/-- Code addresses read 0 where nothing is listed. -/
theorem memDefault_code (a : Nat) (h : a < 0x10600000) : memDefault a = 0 := by
  have : ¬ 0x70000000 ≤ a := by omega
  simp [memDefault, this]

/-- The exchange of the code halves keeps the canonical form (R22). -/
theorem swapHalves_wf (c : Chip) (h : Memory.wf c.mem = true) : Memory.wf c.swapHalves.mem = true := by
  unfold Memory.wf at h ⊢
  rw [spWf_iff] at h ⊢
  obtain ⟨hp, hd⟩ := h
  constructor
  · simp only [Chip.swapHalves, List.append_assoc]
    refine List.pairwise_append.2 ⟨hp.filter _, List.pairwise_append.2 ⟨?_, List.pairwise_append.2 ⟨?_, hp.filter _, ?_⟩, ?_⟩, ?_⟩
    · refine List.pairwise_map.2 ((List.Pairwise.and_mem.1 (hp.filter _)).imp ?_)
      rintro a b ⟨ha, hb, hab⟩
      simp only [List.mem_filter, Bool.and_eq_true, decide_eq_true_eq] at ha hb
      show a.1 - 0x300000 < b.1 - 0x300000
      omega
    · refine List.pairwise_map.2 ((hp.filter _).imp ?_)
      intro a b hab
      show a.1 + 0x300000 < b.1 + 0x300000
      omega
    · simp only [List.mem_map, List.mem_filter, Bool.and_eq_true, decide_eq_true_eq, forall_exists_index, and_imp]
      rintro _ e _ h1 h2 rfl b _ hb
      show e.1 + 0x300000 < b.1
      omega
    · simp only [List.mem_append, List.mem_map, List.mem_filter, Bool.and_eq_true, decide_eq_true_eq, forall_exists_index, and_imp]
      rintro _ e _ h1 h2 rfl b (⟨f, ⟨_, h3, h4⟩, rfl⟩ | ⟨_, h3⟩)
      · show e.1 - 0x300000 < f.1 + 0x300000
        omega
      · show e.1 - 0x300000 < b.1
        omega
    · simp only [List.mem_append, List.mem_map, List.mem_filter, Bool.and_eq_true, decide_eq_true_eq, and_imp]
      rintro a _ h1 b (⟨f, ⟨_, h3, h4⟩, rfl⟩ | ⟨f, ⟨_, h3, h4⟩, rfl⟩ | ⟨_, h3⟩)
      · show a.1 < f.1 - 0x300000
        omega
      · show a.1 < f.1 + 0x300000
        omega
      · omega
  · intro e he
    simp only [Chip.swapHalves, List.mem_append, List.mem_map, List.mem_filter, Bool.and_eq_true, decide_eq_true_eq] at he
    rcases he with ((⟨he, _⟩ | ⟨f, ⟨hf, h1, h2⟩, rfl⟩) | ⟨f, ⟨hf, h1, h2⟩, rfl⟩) | ⟨he, _⟩
    · exact hd e he
    · have := hd f hf
      rw [memDefault_code _ (by omega)] at this
      rw [memDefault_code _ (by show f.1 - 0x300000 < _; omega)]
      exact this
    · have := hd f hf
      rw [memDefault_code _ (by omega)] at this
      rw [memDefault_code _ (by show f.1 + 0x300000 < _; omega)]
      exact this
    · exact hd e he

/-- Copying a portion of the active code half into the staging half keeps the canonical form (R194). -/
theorem copyCode_wf (c : Chip) (k : Nat) (hk : k < 768) (h : Memory.wf c.mem = true) : Memory.wf (c.copyCode k).mem = true := by
  unfold Memory.wf at h ⊢
  rw [spWf_iff] at h ⊢
  obtain ⟨hp, hd⟩ := h
  constructor
  · simp only [Chip.copyCode, List.append_assoc]
    refine List.pairwise_append.2 ⟨hp.filter _, List.pairwise_append.2 ⟨?_, hp.filter _, ?_⟩, ?_⟩
    · refine List.pairwise_map.2 ((hp.filter _).imp ?_)
      intro a b hab
      show a.1 + 0x300000 < b.1 + 0x300000
      omega
    · simp only [List.mem_map, List.mem_filter, Bool.and_eq_true, decide_eq_true_eq, forall_exists_index, and_imp]
      rintro _ e _ h1 h2 rfl b _ hb
      show e.1 + 0x300000 < b.1
      omega
    · simp only [List.mem_append, List.mem_map, List.mem_filter, Bool.and_eq_true, decide_eq_true_eq, and_imp]
      rintro a _ h1 b (⟨f, ⟨_, h3, h4⟩, rfl⟩ | ⟨_, h3⟩)
      · show a.1 < f.1 + 0x300000
        omega
      · omega
  · intro e he
    simp only [Chip.copyCode, List.mem_append, List.mem_map, List.mem_filter, Bool.and_eq_true, decide_eq_true_eq] at he
    rcases he with (⟨he, _⟩ | ⟨f, ⟨hf, h1, h2⟩, rfl⟩) | ⟨he, _⟩
    · exact hd e he
    · have := hd f hf
      rw [memDefault_code _ (by omega)] at this
      rw [memDefault_code _ (by show f.1 + 0x300000 < _; omega)]
      exact this
    · exact hd e he

/-- Memory after reset lists nothing, and so is in canonical form. -/
theorem reset_mem_wf : Memory.wf State.reset.chip.mem = true := rfl

end Sys2Proof.Laws
end

