-- ==== Sys2Proof/Laws/Regs.lean ====
section
/-! SUPPORT. Control registers and fields: what a read gives after a write, and what the operations on fields leave alone. -/

namespace Sys2Proof.Laws

open Sys2Proof.Machine Sys2Proof.Safety

/-! ### Fields of a word -/

/-- A field written into a word reads back modulo its width. -/
theorem fld_of_ins (f : Fld) (w : Word) (v : Nat) (h : f.lo ≤ f.hi) (h' : f.hi < 32) : f.of (f.ins w v) = v % 2 ^ f.width := by
  have hw : f.lo + f.width ≤ 32 := by simp only [Fld.width]; omega
  have hv : v % 2 ^ f.width < 2 ^ f.width := Nat.mod_lt _ (Nat.two_pow_pos _)
  apply Nat.eq_of_testBit_eq
  intro i
  simp only [Fld.of, Fld.ins, Nat.testBit_mod_two_pow, Nat.testBit_div_two_pow, BitVec.toNat_or, BitVec.toNat_and, BitVec.toNat_not, BitVec.toNat_ofNat]
  by_cases hi : i < f.width
  · have h32 : i + f.lo < 32 := by omega
    simp only [hi, decide_true, Bool.true_and, Nat.testBit_or, Nat.testBit_and]
    rw [Nat.sub_sub, Nat.add_comm 1, Nat.testBit_two_pow_sub_succ (Nat.mod_lt _ (Nat.two_pow_pos _))]
    simp only [Nat.testBit_mod_two_pow, Nat.testBit_mul_two_pow, h32, decide_true, Bool.true_and, Nat.le_add_left, Nat.add_sub_cancel,
      Nat.testBit_two_pow_sub_one, hi]
    simp
  · simp [hi]

/-- Writing a field leaves the bits outside it. -/
theorem fld_ins_getLsbD (f : Fld) (w : Word) (v i : Nat) (h : i < f.lo ∨ f.hi < i) (hl : f.lo ≤ f.hi) : (f.ins w v).getLsbD i = w.getLsbD i := by
  by_cases hi : i < 32
  · have hv : v % 2 ^ f.width < 2 ^ f.width := Nat.mod_lt _ (Nat.two_pow_pos _)
    simp only [Fld.ins, BitVec.getLsbD_or, BitVec.getLsbD_and, BitVec.getLsbD_not, BitVec.getLsbD_ofNat, hi, decide_true, Bool.true_and,
      Nat.testBit_mul_two_pow, Nat.testBit_two_pow_sub_one, Nat.testBit_mod_two_pow]
    rcases h with h | h
    · simp [show ¬ f.lo ≤ i by omega]
    · have : ¬ i - f.lo < f.width := by simp only [Fld.width]; omega
      simp [this]
  · simp [BitVec.getLsbD_of_ge _ _ (Nat.le_of_not_lt hi)]

/-- Writing a field leaves the fields beside it. -/
theorem fld_of_ins_other (f g : Fld) (w : Word) (v : Nat) (hf : f.lo ≤ f.hi) (hg : g.lo ≤ g.hi) (hd : g.hi < f.lo ∨ f.hi < g.lo) :
    g.of (f.ins w v) = g.of w := by
  apply Nat.eq_of_testBit_eq
  intro i
  simp only [Fld.of, Nat.testBit_mod_two_pow, Nat.testBit_div_two_pow]
  by_cases hi : i < g.width
  · have := fld_ins_getLsbD f w v (i + g.lo) (by simp only [Fld.width] at hi; omega) hf
    simp only [BitVec.getLsbD] at this
    rw [this]
  · simp [hi]

/-! ### The register file -/

/-- A write leaves every other register. -/
theorem rd_wr_other (c : Chip) (a b : Nat) (w : Word) (h : b ≠ a) : (c.wr a w).rd b = c.rd b := spGet_spSet_other _ _ _ _ _ _ h

/-- A register reads what was written. -/
theorem rd_wr_same (c : Chip) (a : Nat) (w : Word) (h : spWf regReset c.regs = true) : (c.wr a w).rd a = w :=
  spGet_spSet_same _ _ _ _ (spWf_sorted _ _ h)

/-- A write of a register keeps the canonical form. -/
theorem wr_wf (c : Chip) (a : Nat) (w : Word) (h : spWf regReset c.regs = true) : spWf regReset (c.wr a w).regs = true := spWf_spSet _ _ _ _ h

/-- A write of a field keeps the canonical form. -/
theorem put_wf (c : Chip) (f : Fld) (v : Nat) (h : spWf regReset c.regs = true) : spWf regReset (c.put f v).regs = true := spWf_spSet _ _ _ _ h

/-- A write of a field leaves every other register. -/
theorem rd_put_other (c : Chip) (f : Fld) (v a : Nat) (h : a ≠ f.addr) : (c.put f v).rd a = c.rd a := rd_wr_other _ _ _ _ h

/-- A field reads what was written into it, modulo its width. -/
theorem get_put_same (c : Chip) (f : Fld) (v : Nat) (h : spWf regReset c.regs = true) (hl : f.lo ≤ f.hi) (hh : f.hi < 32) :
    (c.put f v).get f = v % 2 ^ f.width := by
  simp only [Chip.get, Chip.put, rd_wr_same _ _ _ h, fld_of_ins _ _ _ hl hh]

/-- A write of a field leaves the fields of other registers. -/
theorem get_put_other (c : Chip) (f g : Fld) (v : Nat) (h : g.addr ≠ f.addr) : (c.put f v).get g = c.get g := by
  simp only [Chip.get, rd_put_other _ _ _ _ h]

/-- A write of a field leaves the fields beside it in its register. -/
theorem get_put_beside (c : Chip) (f g : Fld) (v : Nat) (h : spWf regReset c.regs = true) (ha : g.addr = f.addr) (hf : f.lo ≤ f.hi) (hg : g.lo ≤ g.hi)
    (hd : g.hi < f.lo ∨ f.hi < g.lo) : (c.put f v).get g = c.get g := by
  simp only [Chip.get, Chip.put, ha, rd_wr_same _ _ _ h, fld_of_ins_other _ _ _ _ hf hg hd]

/-- The operations on fields are writes of the field. -/
theorem set1_eq (c : Chip) (f : Fld) : c.set1 f = c.put f 1 := rfl
theorem clr_eq (c : Chip) (f : Fld) : c.clr f = c.put f 0 := rfl
theorem setBit_eq (c : Chip) (f : Fld) (i : Nat) : c.setBit f i = c.put f (c.get f ||| 2 ^ i) := rfl
theorem incWrap_eq (c : Chip) (f : Fld) (n : Nat) : c.incWrap f n = c.put f (c.get f + n) := rfl
theorem incSat_eq (c : Chip) (f : Fld) (n : Nat) : c.incSat f n = c.put f (min (c.get f + n) (2 ^ f.width - 1)) := rfl

/-! ### Time -/

/-- TB after an instant: the later of the two, while REFCLK runs (R19). -/
theorem arrive_tb (c : Chip) (now : Time) : (c.arrive now).tb.toNat = if c.pins.refclk then max c.tb.toNat now.toNat else c.tb.toNat := by
  unfold Chip.arrive
  cases c.pins.refclk <;> simp
  split <;> simp <;> omega

/-- An instant changes TB alone. -/
theorem arrive_eq (c : Chip) (now : Time) : c.arrive now = { c with tb := (c.arrive now).tb } := by
  unfold Chip.arrive
  split <;> rfl

@[simp] theorem arrive_regs (c : Chip) (now : Time) : (c.arrive now).regs = c.regs := by rw [arrive_eq]
@[simp] theorem arrive_mem (c : Chip) (now : Time) : (c.arrive now).mem = c.mem := by rw [arrive_eq]
@[simp] theorem arrive_img (c : Chip) (now : Time) : (c.arrive now).img = c.img := by rw [arrive_eq]
@[simp] theorem arrive_sys (c : Chip) (now : Time) : (c.arrive now).sys = c.sys := by rw [arrive_eq]
@[simp] theorem arrive_tasks (c : Chip) (now : Time) : (c.arrive now).tasks = c.tasks := by rw [arrive_eq]

@[simp] theorem arrive_pins (c : Chip) (now : Time) : (c.arrive now).pins = c.pins := by rw [arrive_eq]

/-- A second instant that is not later changes nothing. -/
theorem arrive_arrive (c : Chip) (now : Time) : (c.arrive now).arrive now = c.arrive now := by
  have := arrive_tb c now
  rw [Chip.arrive, if_neg]
  simp only [arrive_pins, Bool.and_eq_true, decide_eq_true_eq, not_and]
  intro h
  simp only [h, ite_true] at this
  omega

/-! ### Outcomes and refusals -/

/-- On a powered chip a command's outcome is its effect on the chip. -/
theorem on_powered (s : State) (f : Chip → Chip) (h : Powered s) : s.on f = .next (at_ s (f s.chip)) := by
  have h' : s.chip.sys.held = .no := h
  simp [State.on, State.onHeld, at_, h']

/-- A held chip is left as it is. -/
theorem on_held (s : State) (f : Chip → Chip) (h : ¬ Powered s) : s.on f = .next s := by
  have h' : ¬ s.chip.sys.held = .no := h
  simp [State.on, State.onHeld, h']

/-- A refusal is a change of the guard's record, and of HREF for the host. -/
theorem recordRefusal_frame (c : Chip) (ag : AgentId) (write : Bool) (a : Nat) (fixed : Bool) (part : Option (Fin 16)) :
    let d := c.recordRefusal ag write a fixed part
    d = { c with regs := d.regs, grd := { c.grd with refused := c.grd.refused.insert (c.t / 1000000000) } } := by
  cases h : isHost ag <;> simp only [Chip.recordRefusal, h] <;> rfl

/-- A refusal leaves every register but those of the guard's record and MBX_STAT. -/
theorem recordRefusal_rd (c : Chip) (ag : AgentId) (write : Bool) (a : Nat) (fixed : Bool) (part : Option (Fin 16)) (b : Nat)
    (h : b ∉ [GRD_VCNT.reg, GRD_VINFO.reg, GRD_VADDR.reg, GRD_STAT.reg]) (h' : isHost ag = true → b ≠ MBX_STAT.reg) :
    (c.recordRefusal ag write a fixed part).rd b = c.rd b := by
  simp only [List.mem_cons, List.not_mem_nil, or_false, not_or] at h
  obtain ⟨h1, h2, h3, h4⟩ := h
  unfold Chip.recordRefusal
  simp only [modGrd_rd]
  split
  · rw [set1_eq, rd_put_other _ _ _ _ (h' ‹_›), setBit_eq, rd_put_other _ _ _ _ h4, rd_wr_other _ _ _ _ h3, rd_wr_other _ _ _ _ h2, incSat_eq,
      rd_put_other _ _ _ _ h1]
  · rw [setBit_eq, rd_put_other _ _ _ _ h4, rd_wr_other _ _ _ _ h3, rd_wr_other _ _ _ _ h2, incSat_eq, rd_put_other _ _ _ _ h1]

end Sys2Proof.Laws
end

