-- ==== Sys2Proof/WellFormed.lean ====
section
/-! DEFINITION. Well-formed commands: what the sender of a command, or the world that an event stands for, can say at all. The model
gives every command a meaning; a command that is not well formed stands for nothing that can happen on the hardware. -/

namespace Sys2Proof.WellFormed

open Sys2Proof.Machine

/-- TB advances in increments of 8 ns (R19). -/
def time (t : Time) : Bool := t.toNat % 8 == 0

/-- An agent of Table 0.3: hardware stamps no other ID (R11). -/
def agent (a : AgentId) : Bool := (guardGroup a).isSome

/-- A command write. -/
def Cmd.wf (w : Cmd) : Bool := agent w.agent && time w.now

/-- A BAR or the configuration space is the host's path (R330 to R333). -/
def pathOf (a : AgentId) (via : Via) : Bool := via == .bus || isHost a

/-- A control-register access is of 1, 2, 4 or 8 bytes (R4); a misaligned one is refused by the block, not malformed. -/
def RegAccess.wf (a : RegAccess) : Bool := agent a.agent && pathOf a.agent a.via && [1, 2, 4, 8].contains a.size && time a.now

/-- A memory access moves at least one byte; a read carries no data, and a write as many bytes as it says. -/
def MemAccess.wf (a : MemAccess) : Bool :=
  agent a.agent && pathOf a.agent a.via && a.len != 0 && a.data.length == (if a.write then a.len else 0) && time a.now

/-- An instruction has an extension word only where R93 says so, and the shadow copy is disturbed on an engine alone. -/
def Op.wf (opc : Nat) (o : Op) : Bool :=
  time o.now && (hasExt opc o.am || o.ext == 0) &&
    match o.x with
    | .le _ => true
    | .mc _ => o.upset == ⟨0, 0, false, 0⟩

/-- Bytes that a DLC stands for, of a classical and of an FD frame. -/
def dlcBytes (fdf : Bool) (dlc : Nat) : Nat :=
  if dlc ≤ 8 then dlc
  else if !fdf then 8
  else [12, 16, 20, 24, 32, 48, 64].getD (dlc - 9) 64

/-- A CAN frame: a base identifier has 11 bits, in 28:18, an FD frame is no remote frame, a remote frame has no data. -/
def CanFrame.wf (f : CanFrame) : Bool :=
  (f.ide || f.id.toNat % 2 ^ 18 == 0) && !(f.fdf && f.rtr) && (f.fdf || (!f.brs && !f.esi)) &&
    f.data.length == (if f.rtr then 0 else dlcBytes f.fdf f.dlc.val) && time f.stamp

/-- A bus error has a code, and ISO 11898-1 adds at most 8. -/
def CanErr.wf (e : CanErr) : Bool := e.lec != 0 && e.tec ≤ 8 && e.rec_ ≤ 8

/-- The end of a transmit attempt; a delay above 127 mtq is a bit error (R311). -/
def CanEnd.wf (e : CanEnd) : Bool :=
  match e with
  | .sent stamp _ => time stamp
  | .lost => true
  | .error e _ ovf => CanErr.wf e && (!ovf || e.lec == 4 || e.lec == 5)

/-- A ring has 32 stations (R213), each with at most 512 bits and 64 words. -/
def RingFrame.wf (f : RingFrame) : Bool := f.slots.all fun (s : RingSlot) => s.station < 32 && s.bits.length ≤ 16 && s.words.length ≤ 64

/-- An acyclic answer names a station of the ring. -/
def AcrFrame.wf (f : AcrFrame) : Bool := f.station < 32

/-- A break lies at a station. -/
def EnumReport.wf (e : EnumReport) : Bool :=
  match e.brkpos with
  | some p => e.broken && p < 32
  | none => true

/-- Variables have the sizes that OLC_FINFO codes. -/
def PkgSections.wf (p : PkgSections) : Bool := p.syms.all fun (y : Symbol) => y.space < 8 && y.size < 4

/-- Cells of the parameter store, by number: it holds 65,536 of 8 bytes (R375). -/
def cellNums (l : List Nat) : Bool := l.all (· < 65536)

/-- Cells named with a command are cells of the store. -/
def Cells.wf (k : Cells) : Bool := cellNums k.bad && cellNums k.stuck

/-- What the conversion makes of an image is the rest of an image after its first 32 bytes (Table 2.5). -/
def BootInput.wf (b : BootInput) : Bool := Cells.wf b.cells && [b.convA, b.convB].all fun l => l.isEmpty || ((l.length + 32) % 4096 == 0 && l.length + 32 ≤ 0x800000)

/-- Bits of a legacy block start at a byte. -/
def LegacyBlock.wf (b : LegacyBlock) : Bool := !b.bits || b.base % 8 == 0

/-- Whether a command is well formed. -/
def instr (i : Instr) : Bool :=
  match i with
  | .registerWrite a => RegAccess.wf a
  | .agentMemoryAccess a => MemAccess.wf a
  | .powerOnReset _ now => time now
  | .pinReset now => time now
  | .powerGoodLost now => time now
  | .pfailStartupWaitEnd now => time now
  | .bootSequence b now => BootInput.wf b && time now
  | .refclkStopped now => time now
  | .sysStop w => Cmd.wf w
  | .stopTransitionComplete now => time now
  | .sysRunCold w => Cmd.wf w
  | .sysRunWarm w => Cmd.wf w
  | .startModeRestart now => time now
  | .ringReadyTimeout _ now => time now
  | .sysIntermission w => Cmd.wf w
  | .sysLeaveSafehold w => Cmd.wf w
  | .sysSoftwareReset w => Cmd.wf w
  | .fenceNAsserted now => time now
  | .nop o => Op.wf 0x00 o
  | .ldsb o => Op.wf 0x01 o
  | .ldub o => Op.wf 0x02 o
  | .ldsh o => Op.wf 0x03 o
  | .lduh o => Op.wf 0x04 o
  | .ldw o => Op.wf 0x05 o
  | .ldl o => Op.wf 0x06 o
  | .ldah o => Op.wf 0x07 o
  | .stby o => Op.wf 0x08 o
  | .sthw o => Op.wf 0x09 o
  | .stw o => Op.wf 0x0A o
  | .stl o => Op.wf 0x0B o
  | .stah o => Op.wf 0x0C o
  | .lea o => Op.wf 0x0D o
  | .psh o => Op.wf 0x0E o
  | .pop o => Op.wf 0x0F o
  | .movr o => Op.wf 0x10 o
  | .add o => Op.wf 0x11 o
  | .adc o => Op.wf 0x12 o
  | .sub o => Op.wf 0x13 o
  | .sbc o => Op.wf 0x14 o
  | .rsb o => Op.wf 0x15 o
  | .muls o => Op.wf 0x16 o
  | .mulu o => Op.wf 0x17 o
  | .divs o => Op.wf 0x18 o
  | .divu o => Op.wf 0x19 o
  | .neg o => Op.wf 0x1A o
  | .abs o => Op.wf 0x1B o
  | .cmp o => Op.wf 0x1C o
  | .chk o => Op.wf 0x1D o
  | .adx o => Op.wf 0x1E o
  | .ady o => Op.wf 0x1F o
  | .andW o => Op.wf 0x20 o
  | .orW o => Op.wf 0x21 o
  | .xorW o => Op.wf 0x22 o
  | .notW o => Op.wf 0x23 o
  | .shl o => Op.wf 0x24 o
  | .shr o => Op.wf 0x25 o
  | .sar o => Op.wf 0x26 o
  | .rol o => Op.wf 0x27 o
  | .ror o => Op.wf 0x28 o
  | .ldx o => Op.wf 0x29 o
  | .ldy o => Op.wf 0x2A o
  | .stx o => Op.wf 0x2B o
  | .sty o => Op.wf 0x2C o
  | .sext o => Op.wf 0x2D o
  | .zext o => Op.wf 0x2E o
  | .addl o => Op.wf 0x30 o
  | .subl o => Op.wf 0x31 o
  | .cmpl o => Op.wf 0x32 o
  | .negl o => Op.wf 0x33 o
  | .mull o => Op.wf 0x34 o
  | .divsl o => Op.wf 0x35 o
  | .remsl o => Op.wf 0x36 o
  | .divul o => Op.wf 0x37 o
  | .shfl o => Op.wf 0x38 o
  | .andl o => Op.wf 0x39 o
  | .orl o => Op.wf 0x3A o
  | .xorl o => Op.wf 0x3B o
  | .notl o => Op.wf 0x3C o
  | .cvt o => Op.wf 0x3D o
  | .sel o => Op.wf 0x3E o
  | .ldb o => Op.wf 0x40 o
  | .ldbn o => Op.wf 0x41 o
  | .andb o => Op.wf 0x42 o
  | .andbn o => Op.wf 0x43 o
  | .orb o => Op.wf 0x44 o
  | .orbn o => Op.wf 0x45 o
  | .xorb o => Op.wf 0x46 o
  | .stbt o => Op.wf 0x47 o
  | .stbn o => Op.wf 0x48 o
  | .setb o => Op.wf 0x49 o
  | .rstb o => Op.wf 0x4A o
  | .bao o => Op.wf 0x4B o
  | .pshb o => Op.wf 0x4C o
  | .popb o => Op.wf 0x4D o
  | .ldbb o => Op.wf 0x4E o
  | .stbb o => Op.wf 0x4F o
  | .br o => Op.wf 0x50 o
  | .call o => Op.wf 0x51 o
  | .cale o => Op.wf 0x52 o
  | .cali o => Op.wf 0x53 o
  | .ret o => Op.wf 0x54 o
  | .ipa o => Op.wf 0x55 o
  | .aloc o => Op.wf 0x56 o
  | .endt o => Op.wf 0x57 o
  | .ton o => Op.wf 0x58 o
  | .tof o => Op.wf 0x59 o
  | .tp o => Op.wf 0x5A o
  | .trs o => Op.wf 0x5B o
  | .red o => Op.wf 0x5C o
  | .fed o => Op.wf 0x5D o
  | .ldg o => Op.wf 0x5E o
  | .tsc o => Op.wf 0x5F o
  | .fadd o => Op.wf 0x60 o
  | .fsub o => Op.wf 0x61 o
  | .fmul o => Op.wf 0x62 o
  | .fdiv o => Op.wf 0x63 o
  | .fcmp o => Op.wf 0x64 o
  | .fsqrt o => Op.wf 0x65 o
  | .fun o => Op.wf 0x66 o
  | .dadd o => Op.wf 0x67 o
  | .dsub o => Op.wf 0x68 o
  | .dmul o => Op.wf 0x69 o
  | .ddiv o => Op.wf 0x6A o
  | .dcmp o => Op.wf 0x6B o
  | .dsqrt o => Op.wf 0x6C o
  | .bmov o => Op.wf 0x70 o
  | .bfil o => Op.wf 0x71 o
  | .bcmp o => Op.wf 0x72 o
  | .bbmv o => Op.wf 0x73 o
  | .bbpk o => Op.wf 0x74 o
  | .bbup o => Op.wf 0x75 o
  | .btw o => Op.wf 0x76 o
  | .bpw o => Op.wf 0x77 o
  | .movs o => Op.wf 0x78 o
  | .reti o => Op.wf 0x79 o
  | .wfi o => Op.wf 0x7A o
  | .reservedOpcode opc o => time o.now && isReserved (o.x matches .mc _) opc.toNat o.am o.opd o.ext
  | .interruptEntry _ now => time now
  | .wfiResume _ now => time now
  | .taskSwitch _ now => time now
  | .debugHalt _ now => time now
  | .debugResume _ now => time now
  | .cyclicRelease _ now => time now
  | .inputPhase _ now => time now
  | .comparePhase _ _ now => time now
  | .outputPhase _ now => time now
  | .housekeepPhase _ now => time now
  | .eventSourceFire _ now => time now
  | .eventRelease _ now => time now
  | .errorTaskRelease _ now => time now
  | .paceWindowEnd _ _ now => time now
  | .slackWindowEnd _ _ now => time now
  | .mismatchVerdict _ _ now => time now
  | .spareMappingComplete _ now => time now
  | .shdTmodeWrite _ w => Cmd.wf w
  | .warmupCopyComplete _ now => time now
  | .olcLoad w => Cmd.wf w
  | .olcLoadComplete p now => PkgSections.wf p && time now
  | .olcDisarm w => Cmd.wf w
  | .olcActivate w => Cmd.wf w
  | .olcDiscard w => Cmd.wf w
  | .activationExchange now => time now
  | .alltaskExchange now => time now
  | .forceSet w => Cmd.wf w
  | .forceClear w => Cmd.wf w
  | .forceClearAll w => Cmd.wf w
  | .ringCycleStart _ now => time now
  | .cycFrameReturn _ _ f now => RingFrame.wf f && time now
  | .monFrameCheck _ now => time now
  | .ringCycleInputsComplete _ now => time now
  | .ringLinksAligned _ now => time now
  | .enumerationComplete _ e now => EnumReport.wf e && time now
  | .ringLostRetrain _ now => time now
  | .stnAqsubSubmit _ w => Cmd.wf w
  | .acrReceived _ _ a now => AcrFrame.wf a && time now
  | .acyclicTimeout _ _ now => time now
  | .hbFrameReceived _ _ now => time now
  | .hbPath2Record _ now => time now
  | .heartbeatSend now => time now
  | .statusFrameSend now => time now
  | .tokenReceived _ _ _ now => time now
  | .inpartReceived _ _ _ _ now => time now
  | .ledgerReceived _ _ now => time now
  | .retractReceived _ _ _ now => time now
  | .endmkReceived _ _ _ how _ now => how < 16 && time now
  | .hashReceived _ _ _ _ now => time now
  | .stageReceived _ _ _ _ _ now => time now
  | .statusReceived _ _ _ _ _ ofs now => -48 ≤ ofs.toInt && ofs.toInt ≤ 48 && time now
  | .rspageReceived _ _ data now => data.length == 4096 && time now
  | .rsctlReceived _ _ now => time now
  | .replayTimeout now => time now
  | .laneAlignmentLost _ now => time now
  | .heartbeatPathLost _ now => time now
  | .path1LossConfirm now => time now
  | .ilkLineFault _ now => time now
  | .ilkFaultClear _ now => time now
  | .claimBegin now => time now
  | .claimSample now => time now
  | .claimUnit0Confirm now => time now
  | .claimWithdrawTimeout now => time now
  | .arbGntNGrant now => time now
  | .arbCanAnswer _ _ _ now => time now
  | .arbTimeout now => time now
  | .hsbResync w => Cmd.wf w
  | .hsbRsabort w => Cmd.wf w
  | .hsbHandover w => Cmd.wf w
  | .hsbLgcstart w => Cmd.wf w
  | .hsbLgcabort w => Cmd.wf w
  | .hsbArbclr w => Cmd.wf w
  | .handoverAckTimeout now => time now
  | .handoverSilenceEnd now => time now
  | .resyncPassEnd now => time now
  | .resyncJoinComplete now => time now
  | .resyncTimeout now => time now
  | .legacyStateBlock b now => LegacyBlock.wf b && time now
  | .legacyHandoverRecord r now => time r.next && time now
  | .faultReport f now => agent f.agent && time now
  | .rotationWindowStart now => time now
  | .rotationSegmentComplete _ _ now => time now
  | .rotationForceDeadline now => time now
  | .spareTestStart now => time now
  | .spareTestComplete _ _ now => time now
  | .coreTestStart _ now => time now
  | .coreTestComplete _ _ now => time now
  | .blockCheckStart b now => agent b && time now
  | .blockCheckComplete b _ now => agent b && time now
  | .scrubSweepStart now => time now
  | .scrubWordCheck _ _ now => time now
  | .defectMapEntryWrite k now => Cells.wf k && time now
  | .fltDmClear w => Cmd.wf w
  | .canOpmodeApply _ now => time now
  | .canRecover _ w => Cmd.wf w
  | .canAbortall _ w => Cmd.wf w
  | .canEnable _ w => Cmd.wf w
  | .canDisable _ w => Cmd.wf w
  | .canTxreq _ w => Cmd.wf w
  | .canTxabort _ w => Cmd.wf w
  | .canClrnew _ w => Cmd.wf w
  | .canFifocfgWrite _ _ w => Cmd.wf w
  | .canTxAttemptStart _ now => time now
  | .canTxAttemptEnd _ r now => CanEnd.wf r && time now
  | .canFrameReceived _ f now => CanFrame.wf f && time now
  | .canBusError _ e now => CanErr.wf e && time now
  | .canRecoveryCountDone _ now => time now
  | .hostLinkReset now => time now
  | .mbxH2cset w => Cmd.wf w
  | .mbxH2cdbClear w => Cmd.wf w
  | .mbxC2hset w => Cmd.wf w
  | .mbxC2hdbClear w => Cmd.wf w
  | .msixPendingDeliver _ _ now => time now
  | .mbxChpost _ w => Cmd.wf w
  | .mbxChpop _ w => Cmd.wf w
  | .mbxChcfgWrite _ w => Cmd.wf w
  | .mbxWdataWrite _ w => Cmd.wf w
  | .mbxWtakeRead _ a now => agent a && time now
  | .recorderPost _ w => Cmd.wf w
  | .recorderAccumulate now => time now
  | .recordIntervalClose _ now => time now
  | .recordEarlyClose _ now => time now
  | .recordDeferredClose _ now => time now
  | .recorderDrainStart now => time now
  | .recorderSectorWritten _ now => time now
  | .keepAreaWritten k now => Cells.wf k && time now
  | .recorderNextseqFound now => time now
  | .tailRestoreComplete now => time now
  | .recDrain w => Cmd.wf w
  | .recCloseall w => Cmd.wf w
  | .recCommission w => Cmd.wf w
  | .recRdseqWrite w => Cmd.wf w
  | .recordFetchComplete _ now => time now
  | .recRdwin15AutoRead a now => agent a && time now
  | .nvsWrite w => Cmd.wf w
  | .nvsRead w => Cmd.wf w
  | .nvsInval w => Cmd.wf w
  | .nvsRelock w => Cmd.wf w
  | .nvsRecordCmdComplete bad stuck now => cellNums bad && cellNums stuck && time now
  | .nvsCntinc k w => Cells.wf k && Cmd.wf w
  | .nvsCntlRead r now => agent r.agent && cellNums r.bad && time now
  | .nvsPwEnter w => Cmd.wf w
  | .nvsPwChange k w => Cells.wf k && Cmd.wf w
  | .retentiveAreaArmed now => time now
  | .tailAreaArmed now => time now
  | .rtcSecondBoundary now => time now
  | .rtcTake w => Cmd.wf w
  | .rtcArm w => Cmd.wf w
  | .rtcCancel w => Cmd.wf w
  | .trimSlotEnd now => time now
  | .vbatMeasure _ now => time now
  | .ppsEdge now => time now
  | .ppsLossTimeout now => time now
  | .wdiService now => time now
  | .wdgFirstPeriodEnd now => time now
  | .wdgSecondPeriodEnd now => time now
  | .watchdogReset now => time now
  | .wdgKeyWrite w => Cmd.wf w
  | .wdgCtlWrite w => Cmd.wf w
  | .mimEnSet w => Cmd.wf w
  | .mimFrameBoundary _ _ now => time now
  | .mimFill w => Cmd.wf w
  | .mimCopy w => Cmd.wf w
  | .mimFlush w => Cmd.wf w
  | .mimStagingComplete now => time now
  | .mimBatchCommit now => time now
  | .mimSensorReading _ now => time now
  | .crackStep _ _ now => time now
  | .feedLost _ now => time now
  | .feedGood _ now => time now
  | .autoReturn _ now => time now
  | .feedCompare _ now => time now
  | .tempSensorUpdate _ now => time now
  | .turnstileGrant _ now => time now
  | .pwrBudgetWrite w => Cmd.wf w
  | .intermissionEntryComplete now => time now
  | .wakeSource _ now => time now
  | .intermissionExitComplete now => time now
  | .powerFailTrigger _ now => time now
  | .flushComplete now => time now
  | .flushRecoveryReset now => time now
  | .updWrite _ _ w => Cmd.wf w
  | .updWriteComplete _ now => time now
  | .updArm w => Cmd.wf w
  | .updPreloadComplete _ now => time now
  | .updDisarm w => Cmd.wf w
  | .updCoreOk w => Cmd.wf w
  | .updConfirm w => Cmd.wf w
  | .updActivationInstant now => time now
  | .updCoreokTimeout now => time now
  | .updConfirmWindowEnd now => time now
  | .updAgreeAnswer _ _ _ now => time now
  | .grdPropose w => Cmd.wf w
  | .grdAgree w => Cmd.wf w
  | .keySlotWrite now => time now
  | .grdWithdraw w => Cmd.wf w
  | .grdLockdbg w => Cmd.wf w
  | .proposalExpiry now => time now
  | .grantExpiry now => time now
  | .debugUnlockExpiry now => time now
  | .refusalSecondEnd now => time now
  | .fenceNReleased now => time now
  | .ilkInChange _ _ now => time now
  | .monFrameReturned _ now => time now
  | .syncLaneAligned _ now => time now
  | .hostLinkDown now => time now
  | .hostLinkUp _ _ now => time now
  | .legacyTimeout now => time now
  | .commissionComplete now => time now
  | .backupDomainBrownout now => time now
  | .canBusIntegrated _ now => time now

end Sys2Proof.WellFormed
end

