-- ==== Sys2Proof/Tests/Slice0.lean ====
section
/-! SUPPORT. Tests on small states, and one named witness of the hypotheses of every statement. Expected results are worked out from the
spec's tables and examples. -/

namespace Sys2Proof.Tests

open Sys2Proof.Machine Sys2Proof.Safety

set_option Elab.async false

/-! ### Small states -/

/-- A chip with some fields of its control registers set. -/
def fields (l : List (Fld × Nat)) (c : Chip) : Chip := l.foldl (fun c p => c.put p.1 p.2) c

/-- In RUN, with a guard partition that admits everyone everywhere, and task 0 a cyclic SINGLE task on engine 0, EXECUTE. -/
def runChip : Chip :=
  fields [(SYS_MODE.MODE, 3), (SCN_TCFG.KIND 0, 1), (SCN_TSTAT.PHASE 0, 2), (SCN_TBUD.TBUD 0, 1000), (SCN_TSTKLO.FLOOR 0, 0x20100000),
    (SCN_TSTKHI.TOP 0, 0x20100400), (SCN_TPART0.STN 0, 1), (GRD_PBASE.EN 0, 1), (GRD_PLIM.LIMIT 0, 0xFFFFF), (GRD_PPERM.WR 0, 0xFFF),
    (GRD_PPERM.RD 0, 0xFFF)] Chip.reset

/-- Task 0 runs on engine 0 with the registers `x`. -/
def running (x : Ctx) (c : Chip := runChip) : State :=
  ⟨(c.modEng 0 fun g => { g with run := some 0 }).modTask 0 fun t => { t with live := true, begun := true, ctx := x }, []⟩

/-- Registers at the start of the code store, with IB.D, DSP and the index registers in the data store. -/
def regs0 : Ctx := { Ctx.zero with pc := 0x10000000, ibD := 0x20000000, ibB := 0x400000, dsp := 0x20100200, ix := 0x20000040, iy := 0x20000080 }

/-- The operand of an instruction on engine 0. -/
def op (am : BitVec 3 := 0) (opd : BitVec 18 := 0) (ext : Word := 0) (cond : BitVec 4 := 0) : Op :=
  ⟨.le 0, cond, am, opd, ext, .ok, ⟨0, 0, false, 0⟩, 0, 8⟩

/-- The same on core 0. -/
def opMc (am : BitVec 3 := 0) (opd : BitVec 18 := 0) (ext : Word := 0) (cond : BitVec 4 := 0) : Op :=
  { op am opd ext cond with x := .mc 0 }

/-- A write by MC0. -/
def byMc (v : Word) : Cmd := ⟨0x01, v, false, 0, 8⟩
/-- A write by the host. -/
def byHost (v : Word) : Cmd := ⟨0x40, v, false, 0, 8⟩

/-- The chip that a command leads to. -/
def chipAfter (i : Instr) (s : State) : Chip :=
  match exec i s with
  | .next t => t.chip
  | _ => s.chip

/-- The registers of task 0 that an instruction leads to. -/
def ctxAfter (i : Instr) (s : State) : Ctx := ((chipAfter i s).task 0).ctx

/-- Sections of an image that configures nothing, for an eMMC of 4096 sectors. -/
def noSections : Sections :=
  { regs := [], code := [], data := [], retain := [], timers := [], syms := [], legacy := [], legacyInit := [], tables := [], idents := [], pulse := [],
    pchk := [], recTab := [], buildId := 0, layout := [], hist := [], agree := [], edges := [], emmcMode := 0, emmcSectors := 4096, vendor := 0,
    subsystem := 0 }
/-- A running image without a pair. -/
def image0 : Image := ⟨noSections, 1, false, false, 0⟩

/-! ### Well-formedness refuses ill-formed commands -/

open WellFormed in
theorem smoke_time : instr (.pinReset 8) = true ∧ instr (.pinReset 7) = false ∧ instr (.sysStop ⟨1, 0, false, 0, 1⟩) = false ∧
    instr (.sysStop ⟨0x7E, 0, false, 0, 8⟩) = false ∧ instr (.blockCheckStart 0x7E 8) = false ∧ instr (.mbxWtakeRead 0 0x7E 8) = false := by decide

open WellFormed in
theorem smoke_register_access : instr (.registerWrite ⟨1, .bus, 0x40000000, 4, true, 0, 0, 0⟩) = true ∧
  instr (.registerWrite ⟨1, .bus, 0x40000000, 3, true, 0, 0, 0⟩) = false ∧
    instr (.registerWrite ⟨0x7E, .bus, 0x40000000, 4, true, 0, 0, 0⟩) = false ∧ instr (.registerWrite ⟨1, .bar0, 0, 4, true, 0, 0, 0⟩) = false := by decide

open WellFormed in
theorem smoke_memory_access :
    instr (.agentMemoryAccess ⟨1, .bus, 0, 1, true, [0], .ok, 0, 0⟩) = true ∧ instr (.agentMemoryAccess ⟨1, .bus, 0, 0, false, [], .ok, 0, 0⟩) = false ∧
    instr (.agentMemoryAccess ⟨1, .bus, 0, 1, true, [], .ok, 0, 0⟩) = false ∧ instr (.agentMemoryAccess ⟨1, .bus, 0, 1, false, [0], .ok, 0, 0⟩) = false ∧
    instr (.agentMemoryAccess ⟨0x7E, .bus, 0, 1, false, [], .ok, 0, 0⟩) = false := by decide

open WellFormed in
/-- An extension word where R93 gives none, an upset of a shadow that a core does not have, and an encoding that is not reserved. -/
theorem smoke_instruction :
    instr (.add (op 1 0 7)) = true ∧ instr (.add (op 0 0 7)) = false ∧ instr (.add { opMc with upset := ⟨1, 0, false, 0⟩ }) = false ∧
    instr (.reservedOpcode 0x7F op) = true ∧ instr (.reservedOpcode 0x11 op) = false := by decide

open WellFormed in
theorem smoke_can_frame :
    let f : CanFrame := ⟨false, 0x40000, true, true, false, false, 9, List.replicate 12 0, 0⟩
    CanFrame.wf f = true ∧ CanFrame.wf { f with id := 1 } = false ∧ CanFrame.wf { f with rtr := true } = false ∧
    CanFrame.wf { f with fdf := false } = false ∧ CanFrame.wf { f with data := [] } = false ∧ CanFrame.wf { f with stamp := 1 } = false ∧
    CanErr.wf ⟨1, 8, 0⟩ = true ∧ CanErr.wf ⟨0, 8, 0⟩ = false ∧ CanErr.wf ⟨1, 9, 0⟩ = false ∧ CanErr.wf ⟨1, 0, 9⟩ = false ∧
    CanEnd.wf (.sent 1 none) = false ∧ CanEnd.wf (.error ⟨1, 8, 0⟩ none true) = false := by decide

open WellFormed in
theorem smoke_ring_frames :
    let x : RingSlot := ⟨31, true, true, true, false, false, false, 0, [], []⟩
    let f (x : RingSlot) : RingFrame := ⟨1, false, true, true, [x], 0⟩
    RingFrame.wf (f x) = true ∧ RingFrame.wf (f { x with station := 32 }) = false ∧ RingFrame.wf (f { x with bits := List.replicate 17 0 }) = false ∧
    RingFrame.wf (f { x with words := List.replicate 65 0 }) = false ∧ AcrFrame.wf ⟨true, 32, none, []⟩ = false ∧
    EnumReport.wf ⟨0, 0, 0, true, some 3, []⟩ = true ∧ EnumReport.wf ⟨0, 0, 0, false, some 3, []⟩ = false ∧
      EnumReport.wf ⟨0, 0, 0, true, some 32, []⟩ = false := by decide

open WellFormed in
theorem smoke_other_operands :
    PkgSections.wf ⟨[], [], [], [], [⟨1, 8, 0, 0, 0⟩], [], 0, 0⟩ = false ∧ PkgSections.wf ⟨[], [], [], [], [⟨1, 0, 4, 0, 0⟩], [], 0, 0⟩ = false ∧
    LegacyBlock.wf ⟨true, 4, [], 0⟩ = false ∧ LegacyBlock.wf ⟨false, 4, [], 0⟩ = true ∧
    instr (.rspageReceived ⟨true, 0, 0⟩ 0 [] 0) = false ∧ instr (.endmkReceived ⟨true, 0, 0⟩ 0 0 16 0 0) = false ∧
    instr (.legacyHandoverRecord ⟨0, 1⟩ 0) = false ∧ instr (.statusReceived ⟨true, 0, 0⟩ [] 0 0 0 49 0) = false ∧
    BootInput.wf ⟨true, [], [], noSections, noSections, [0], [], [], [], ⟨[], []⟩⟩ = false := by decide

open WellFormed in
/-- The parameter store has 65,536 cells. -/
theorem smoke_cells :
    Cells.wf ⟨[65535], [0]⟩ = true ∧ Cells.wf ⟨[65536], []⟩ = false ∧ Cells.wf ⟨[], [65536]⟩ = false ∧
    BootInput.wf ⟨true, [], [], noSections, noSections, [], [], [], [], ⟨[], []⟩⟩ = true ∧
    BootInput.wf ⟨true, [], [], noSections, noSections, [], [], [], [], ⟨[65536], []⟩⟩ = false ∧
    instr (.defectMapEntryWrite ⟨[65536], []⟩ 0) = false ∧ instr (.keepAreaWritten ⟨[65536], []⟩ 0) = false ∧
    instr (.nvsRecordCmdComplete [65536] [] 0) = false ∧ instr (.nvsRecordCmdComplete [] [65536] 0) = false ∧
    instr (.nvsCntinc ⟨[65536], []⟩ (byMc 0)) = false ∧ instr (.nvsCntlRead ⟨1, [65536]⟩ 0) = false ∧
    instr (.nvsCntlRead ⟨0x7E, []⟩ 0) = false ∧ instr (.nvsPwChange ⟨[], [65536]⟩ (byMc 0)) = false := by decide

/-! ### Results worked out from the spec -/

/-- ACC, ACH and FLG after an instruction of task 0. -/
def result (i : Instr) (x : Ctx) : Word × Word × BitVec 5 := let y := ctxAfter i (running x); (y.acc, y.ach, y.flg)
/-- Registers with ACH:ACC. -/
def regsA (acc : Word) (ach : Word := 0) (flg : BitVec 5 := 0) : Ctx := { regs0 with acc, ach, flg }

/-- Table 3.2: Z is bit 0, N 1, C 2, V 3, O 4. -/
theorem test_add_wraps : result (.add (op 0 1)) (regsA 0xFFFFFFFF) = (0, 0, 0b00101) := by decide +kernel
theorem test_add_overflows : result (.add (op 0 1)) (regsA 0x7FFFFFFF) = (0x80000000, 0, 0b11010) := by decide +kernel
theorem test_adc_carry : result (.adc (op 0 0)) (regsA 0xFFFFFFFF 0 0b00100) = (0, 0, 0b00101) := by decide +kernel
theorem test_sub_borrows : result (.sub (op 0 1)) (regsA 0) = (0xFFFFFFFF, 0, 0b00010) := by decide +kernel
theorem test_sbc_without_carry : result (.sbc (op 0 3)) (regsA 5) = (1, 0, 0b00100) := by decide +kernel
theorem test_rsb : result (.rsb (op 0 5)) (regsA 3) = (2, 0, 0b00100) := by decide +kernel
theorem test_muls : result (.muls (op 0 3)) (regsA 0xFFFFFFFE) = (0xFFFFFFFA, 0xFFFFFFFF, 0b00010) := by decide +kernel
theorem test_mulu_does_not_fit : result (.mulu (op 0 2)) (regsA 0xFFFFFFFF) = (0xFFFFFFFE, 1, 0b11000) := by decide +kernel
theorem test_divs_truncates : result (.divs (op 0 2)) (regsA 0xFFFFFFF9) = (0xFFFFFFFD, 0xFFFFFFFF, 0b00010) := by decide +kernel
theorem test_divs_of_minimum : result (.divs (op 0 0x3FFFF)) (regsA 0x80000000) = (0x80000000, 0, 0b11010) := by decide +kernel
theorem test_divu : result (.divu (op 0 2)) (regsA 7) = (3, 1, 0) := by decide +kernel
theorem test_neg_zero : result (.neg op) (regsA 0) = (0, 0, 0b00101) := by decide +kernel
theorem test_abs_of_minimum : result (.abs op) (regsA 0x80000000) = (0x80000000, 0, 0b11010) := by decide +kernel
theorem test_cmp_keeps_acc : result (.cmp (op 0 5)) (regsA 5) = (5, 0, 0b00101) := by decide +kernel
theorem test_shl_32 : result (.shl (op 0 32)) (regsA 1) = (0, 0, 0b00101) := by decide +kernel
theorem test_shl_33 : result (.shl (op 0 33)) (regsA 1 0 0b00100) = (0, 0, 0b00001) := by decide +kernel
theorem test_sar_63 : result (.sar (op 0 63)) (regsA 0x80000000) = (0xFFFFFFFF, 0, 0b00110) := by decide +kernel
theorem test_ror : result (.ror (op 0 1)) (regsA 1) = (0x80000000, 0, 0b00110) := by decide +kernel
theorem test_rol_multiple_keeps_carry : result (.rol (op 0 32)) (regsA 1 0 0b00100) = (1, 0, 0b00100) := by decide +kernel
theorem test_sext : result (.sext op) (regsA 0x180) = (0xFFFFFF80, 0, 0b00010) := by decide +kernel
theorem test_addl_carries : result (.addl (op 0 1)) (regsA 0xFFFFFFFF 0xFFFFFFFF) = (0, 0, 0b00101) := by decide +kernel
theorem test_mull_overflows : result (.mull (op 0 2)) (regsA 0 0x40000000) = (0, 0x80000000, 0b11010) := by decide +kernel
theorem test_remsl_sign_of_dividend : result (.remsl (op 0 2)) (regsA 0xFFFFFFF9 0xFFFFFFFF) = (0xFFFFFFFF, 0xFFFFFFFF, 0b00010) := by decide +kernel
theorem test_shfl_by_ix : result (.shfl (op 0 0x180)) { regsA 1 0x80000000 with ix := 1 } = (0, 0xC0000000, 0b00110) := by decide +kernel
theorem test_cvt_toward_zero : result (.cvt (op 0 1)) (regsA 0xC039999A) = (0xFFFFFFFE, 0, 0b00010) := by decide +kernel
theorem test_cvt_ties_to_even : result (.cvt (op 0 2)) (regsA 0x40200000) = (2, 0, 0) := by decide +kernel
theorem test_fadd : result (.fadd (op 1 0 0x3F800000)) (regsA 0x3F800000) = (0x40000000, 0, 0) := by decide +kernel
theorem test_fdiv_by_zero : result (.fdiv (op 1 0 0)) (regsA 0x3F800000) = (0x7F800000, 0, 0b10000) := by decide +kernel
theorem test_fsqrt_of_negative : result (.fsqrt op) (regsA 0xBF800000) = (0x7FC00000, 0, 0b10000) := by decide +kernel
theorem test_fcmp_less : result (.fcmp (op 1 0 0x40000000)) (regsA 0x3F800000) = (0x3F800000, 0, 0b00010) := by decide +kernel
theorem test_fcmp_unordered : result (.fcmp (op 1 0 0x7FC00000)) (regsA 0x3F800000) = (0x3F800000, 0, 0b11100) := by decide +kernel
theorem test_fun_binary64 : result (.fun (op 0 2)) (regsA 0 0x3FF00000) = (0, 0xBFF00000, 0b00010) := by decide +kernel
theorem test_movr_flg : (ctxAfter (.movr (op 0 0x80)) (running (regsA 0xFFFFFFE4))).flg = 0b00100 := by decide +kernel
theorem test_ipa : result (.ipa (op 0 8 0x00800000)) regs0 = (0x20000040, 0x400010, 0) := by decide +kernel
theorem test_adx_below : (ctxAfter (.adx (op 0 0x3FFFF)) (running { regs0 with ix := 0 })).ix = 0xFFFFFFFF := by decide +kernel
theorem test_condition_false : (ctxAfter (.add (op 1 0 7 1)) (running (regsA 5))).pc = 0x10000008 ∧ result (.add (op 1 0 7 1)) (regsA 5) = (5, 0, 0) := by
  decide +kernel

/-- Worked example of chapter 4: CALE 0x40, 16 at 0x1000_8C3C pushes 0x1000_8C44 and goes to 0x1001_4A00. -/
theorem test_cale_example :
    let c := chipAfter (.cale (op 0 8 0x00802F71)) (running { regs0 with pc := 0x10008C3C })
    let x := (c.task 0).ctx
    x.pc = 0x10014A00 ∧ x.ibD = 0x20000040 ∧ x.ibB = 0x400010 ∧ ((c.ph 0).stack.head?).map (·.pc) = some 0x10008C44 := by decide +kernel

/-- A TON record at IB.D + 0x18 with PRESET 30 s, as the worked example of chapter 4 runs it. -/
def tonAt (ts start : Nat) (status : Nat) (i : Bool) : Ctx × Nat × Nat :=
  let s := running { regs0 with ba := i }
  let c := (((s.chip.st 0x20000018 8 start).st 0x20000020 8 30000000000).st 0x20000028 4 status).modTask 0 fun t => { t with ts := BitVec.ofNat 64 ts }
  let d := chipAfter (.ton (op 2 0x18)) ⟨c, []⟩
  ((d.task 0).ctx, d.ld 0x20000018 8, d.ld 0x20000028 4)

/-- Its four scans: rising, running, elapsed, and IN false; status bits by R75: RUN 0, Q 1, IN_PREV 2. -/
theorem test_ton_example :
    (let r := tonAt 100000000000 0 0 true; r.1.ba = false ∧ r.1.acc = 0 ∧ r.2 = (100000000000, 0b101)) ∧
    (let r := tonAt 115000500000 100000000000 0b101 true; r.1.ba = false ∧ r.1.ach ++ r.1.acc = (15000500000 : Long) ∧ r.2 = (100000000000, 0b101)) ∧
    (let r := tonAt 130000000000 100000000000 0b101 true; r.1.ba = true ∧ r.1.ach ++ r.1.acc = (30000000000 : Long) ∧ r.2.2 = 0b110) ∧
    (let r := tonAt 130000500000 100000000000 0b110 false; r.1.ba = false ∧ r.1.acc = 0 ∧ r.2.2 = 0) := by
  refine ⟨?_, ?_, ?_, ?_⟩ <;> decide +kernel

/-- A 32-bit push writes zeros above its value. -/
theorem test_psh_clears_upper :
    let s := running (regsA 5)
    let c := chipAfter (.psh op) ⟨s.chip.st 0x201001F8 8 0x1122334455667788, []⟩
    c.ld 0x201001F8 8 = 5 ∧ (c.task 0).ctx.dsp = 0x201001F8 := by decide +kernel

/-- A division by zero raises 0x09: the activation is gone, and ACC is what it was. -/
theorem test_divs_by_zero_raises : (((chipAfter (.divs op) (running (regsA 5))).task 0).live) = false := by decide +kernel

/-- CRC-32C of the digits 1 to 9 is 0xE306_9283. -/
theorem test_crc32c : crc32c ((List.range 9).map fun i => BitVec.ofNat 8 (0x31 + i)) = 0xE3069283 := by decide +kernel

/-- SYS_CMD without its key is answered with CMDERR 1. -/
theorem test_sys_cmd_key : (chipAfter (.sysStop (byHost 1)) ⟨runChip, []⟩).get SYS_CMDSTAT.CMDERR = 1 := by decide +kernel

/-! ### Witnesses: integer, logic and move instructions -/

theorem witness_integer : (∀ q ∈ [0x11, 0x12, 0x13, 0x14, 0x15, 0x1C], RunsWord (running regs0) (op 0 5) q 0 0 0 5 1) ∧
    RunsIn (running regs0) op 0x1A 0 0 0 1 ∧ RunsIn (running regs0) op 0x1B 0 0 0 1 := by decide +kernel

theorem witness_logic : (∀ q ∈ [0x20, 0x21, 0x22, 0x24, 0x25, 0x26, 0x27, 0x28], RunsWord (running regs0) (op 1 0 63) q 0 0 0 63 1) ∧
    (∀ q ∈ [0x23, 0x2D, 0x2E], RunsIn (running regs0) (op 0 0) q 0 0 0 1) ∧
    (∀ q ∈ [0x76, 0x77], RunsIn (running regs0) (op 0 31) q 0 0 0 1) := by
  refine ⟨?_, ?_, ?_⟩ <;> decide +kernel

theorem witness_multiply : (∀ q ∈ [0x16, 0x17], RunsWord (running regs0) (op 0 5) q 0 0 0 5 3) ∧
    (∀ q ∈ [0x18, 0x19], RunsWord (running regs0) (op 0 5) q 0 0 0 5 18) ∧
    (∀ q ∈ [0x1E, 0x1F], RunsIn (running regs0) (op 0 0x3FFFF) q 0 0 0 1) := by
  refine ⟨?_, ?_, ?_⟩ <;> decide +kernel

/-- Immediate limits −8 and 7 with ACC at the upper limit and one above it, and limits in memory, all zero. -/
theorem witness_check :
    let s (a : Word) := running { regs0 with acc := a }
    (Runs (s 7) (op 1 0 0x0007FFF8) 0x1D 0 0 0 ∧ InBudget (s 7) (op 1 0 0x0007FFF8) 0 2 ∧
      ((0xFFF8 : BitVec 16).signExtend 32).toInt ≤ (7 : Word).toInt ∧ ¬ ((7 : Word).toInt < (7 : Word).toInt)) ∧
    (Runs (s 8) (op 1 0 0x0007FFF8) 0x1D 0 0 0 ∧ (7 : Word).toInt < (8 : Word).toInt) ∧
    (Runs (s 0xFFFFFFF7) (op 1 0 0x0007FFF8) 0x1D 0 0 0 ∧ (0xFFFFFFF7 : Word).toInt < ((0xFFF8 : BitVec 16).signExtend 32).toInt) ∧
    (Runs (s 0) (op 2 0) 0x1D 0 0 0 ∧ (view (s 0) (op 2 0) 0x1D 0 0).rd (view (s 0) (op 2 0) 0x1D 0 0).ea 8 = .ok 0 ∧
      InBudget (s 0) (op 2 0) 0 (2 + (view (s 0) (op 2 0) 0x1D 0 0).sL)) := by decide +kernel

theorem witness_long : (∀ q ∈ [0x30, 0x31, 0x32, 0x39, 0x3A, 0x3B], RunsLong (running regs0) (op 0 5) q 0 0 0 5 2) ∧
    RunsLong (running regs0) (op 0 5) 0x34 0 0 0 5 6 ∧ (∀ q ∈ [0x35, 0x36, 0x37], RunsLong (running regs0) (op 0 5) q 0 0 0 5 34) ∧
    (∀ q ∈ [0x33, 0x38, 0x3C], RunsIn (running regs0) op q 0 0 0 2) := by
  refine ⟨?_, ?_, ?_, ?_⟩ <;> decide +kernel

/-- Address modes of a load: data memory by IB.D, an immediate, and the I image. -/
theorem witness_load :
    let s := running regs0
    (∀ q ∈ [(0x01, 1), (0x02, 1), (0x03, 2), (0x04, 2), (0x4E, 1)], Runs s (op 2 8) q.1 0 0 0 ∧
      (view s (op 2 8) q.1 0 0).rd (view s (op 2 8) q.1 0 0).ea q.2 = .ok 0 ∧ InBudget s (op 2 8) 0 2) ∧
    (∀ q ∈ [0x05, 0x29, 0x2A, 0x3E], RunsWord s (op 7 0) q 0 0 0 0 1) ∧ RunsWord s (op 6 0 0x20000000) 0x07 0 0 0 0 1 ∧
    RunsLong s (op 2 8) 0x06 0 0 0 0 1 := by
  refine ⟨?_, ?_, ?_, ?_⟩ <;> decide +kernel

theorem witness_move :
    let s := running regs0
    RunsIn s op 0x00 0 0 0 1 ∧ RunsIn s (op 2 8) 0x0D 0 0 0 1 ∧ RunsIn s (op 6 0 8) 0x0D 0 0 0 2 ∧
    (∀ n ∈ [0x00, 0x1C, 0x32, 0x50, 0x60, 0x70, 0x80, 0x9C], RunsIn s (op 0 (BitVec.ofNat 18 n)) 0x10 0 0 0 1 ∧
      (BitVec.ofNat 18 n).toNat / 16 ≠ 4) ∧
    RunsIn s (op 0 1 0xFFC00000) 0x55 0 0 0 2 ∧ RunsIn s op 0x5F 0 0 0 1 ∧ RunsIn s (op 0 2) 0x4B 0 0 0 1 := by
  refine ⟨?_, ?_, ?_, ?_, ?_, ?_, ?_⟩ <;> decide +kernel

theorem witness_store :
    let s := running regs0
    (∀ q ∈ [(0x08, 1), (0x09, 2), (0x0A, 4), (0x0C, 4), (0x2B, 4), (0x2C, 4), (0x4F, 1)], RunsStore s (op 2 8) q.1 0 0 0 2 ∧
      (view s (op 2 8) q.1 0 0).ck (view s (op 2 8) q.1 0 0).ea q.2 = none) ∧
    (RunsStore s (op 2 8) 0x0B 0 0 0 3 ∧ (view s (op 2 8) 0x0B 0 0).ck (view s (op 2 8) 0x0B 0 0).ea 8 = none) ∧
    (RunsStore s (op 7 0x20000) 0x0A 0 0 0 2 ∧ (view s (op 7 0x20000) 0x0A 0 0).ckImg true (view s (op 7 0x20000) 0x0A 0 0).imgIdx = none) := by
  refine ⟨?_, ?_, ?_⟩ <;> decide +kernel

/-- DSP in the middle of the stack, at its floor and at its top. -/
theorem witness_stack :
    let s (d : Word) := running { regs0 with dsp := d }
    (RunsStore (s 0x20100008) op 0x0E 0 0 0 2 ∧ RunsStore (s 0x20100008) (op 0 1) 0x0E 0 0 0 3 ∧ RunsStore (s 0x20100008) op 0x4C 0 0 0 2 ∧
      (∀ q ∈ [0x0E, 0x4C], (view (s 0x20100008) op q 0 0).ck (0x20100008 - 8) 8 = none)) ∧
    (RunsIn (s 0x201003F8) op 0x0F 0 0 0 2 ∧ RunsIn (s 0x201003F8) (op 0 1) 0x0F 0 0 0 3 ∧
      (∀ q ∈ [0, 1, 2], RunsIn (s 0x201003F8) (op 0 (BitVec.ofNat 18 q)) 0x4D 0 0 0 2) ∧
      (∀ q ∈ [0x0F, 0x4D], (view (s 0x201003F8) op q 0 0).rd 0x201003F8 8 = .ok 0)) ∧
    (RunsIn (s 0x20100400) (op 0 0x3FF80) 0x56 0 0 0 1 ∧ 0x20100400 + 8 * (0x3FF80 : BitVec 18).toInt = 0x20100000) ∧
    (RunsIn (s 0x20100400) (op 0 0x3FF7F) 0x56 0 0 0 1 ∧ RunsIn (s 0x20100400) (op 0 1) 0x56 0 0 0 1) ∧
    (∀ a ∈ [0x20100000, 0x20100400, 0x200FFFF8, 0x20100408, 0x20100004], let y := running { regs0 with acc := BitVec.ofNat 32 a }
      RunsIn y (op 0 0x40) 0x10 0 0 0 1 ∧ ((view y (op 0 0x40) 0x10 0 0).reg 0).toNat = a) ∧
    (RunsIn (s 0x20100000) op 0x0E 0 0 0 2 ∧ (view (s 0x20100000) op 0x0E 0 0).ck (0x20100000 - 8) 8 = none) ∧
    (RunsIn (s 0x20100400) op 0x0F 0 0 0 2 ∧ (view (s 0x20100400) op 0x0F 0 0).rd 0x20100400 8 = .ok 0) := by
  refine ⟨?_, ?_, ?_, ?_, ?_, ?_, ?_⟩ <;> decide +kernel

theorem witness_bit :
    let s := running regs0
    (∀ q ∈ [0x40, 0x41, 0x42, 0x43, 0x44, 0x45, 0x46], RunsIn s op q 0 0 0 2 ∧ (view s op q 0 0).bitEa = .ok 0x400000 ∧
      (view s op q 0 0).bit 0x400000 = .ok false) ∧
    (∀ q ∈ [0x47, 0x48, 0x49, 0x4A, 0x5C, 0x5D], RunsStore s op q 0 0 0 3 ∧ (view s op q 0 0).bitEa = .ok 0x400000 ∧
      (view s op q 0 0).bit 0x400000 = .ok false ∧ (view s op q 0 0).ckBit 0x400000 = none) := by
  refine ⟨?_, ?_⟩ <;> decide +kernel

/-- A return stack of one entry, an empty one at the task's start depth, and calls whose instance stays at the foot of the instance space. -/
theorem witness_flow :
    let s := running regs0
    let r : RetEntry := ⟨0x10000004, 0x20000000, 0x400000, 0, false⟩
    let deep : State := at_ s (s.chip.modPh 0 fun q => { q with stack := [r] })
    let x : Ctx := { regs0 with acc := 0x20000000, ach := 0x400000 }
    (RunsIn s (op 0 4) 0x50 0 0 0 2 ∧ (view s (op 0 4) 0x50 0 0).target = .ok 0x10000010) ∧
    (RunsIn s (op 1 0 0x10000100) 0x51 0 0 0 4 ∧ (view s (op 1 0 0x10000100) 0x51 0 0).target = .ok 0x10000100) ∧
    (RunsIn s (op 0 0 4) 0x52 0 0 0 4 ∧ ibBad 0x20000000 0x400000 = false) ∧
    (RunsIn (running x) (op 0 0 4) 0x53 0 0 0 4) ∧
    (RunsIn (running x) (op 2 0 4) 0x53 0 0 0 6 ∧
      let c := ((running x).chip.st 0x20000000 8 0x0040000020000000)
      (view (at_ s c) (op 2 0 4) 0x53 0 0).rd 0x20000000 8 = .ok 0x0040000020000000) ∧
    (RunsIn deep op 0x54 0 0 0 3 ∧ ((issued deep op).ph 0).stack.head? = some r ∧ ((issued deep op).task 0).depth = 0) ∧
    (RunsIn s op 0x54 0 0 0 3 ∧ ((issued s op).task 0).depth = ((issued s op).ph 0).stack.length) := by
  refine ⟨?_, ?_, ?_, ?_, ?_, ?_, ?_⟩ <;> decide +kernel

/-- A timer record in each of its states, its preset 100 and its start 0. -/
theorem witness_timer :
    let s (st : Nat) (ba : Bool) : State := at_ (running { regs0 with ba }) (((running { regs0 with ba }).chip.st 0x20000008 8 100).st 0x20000010 4 st)
    ∀ st ∈ [0, 1, 3, 4, 5, 7], ∀ ba ∈ [false, true], ∀ q ∈ [0x58, 0x59, 0x5A],
      let k := view (s st ba) (op 2) q 0 0
      RunsStore (s st ba) (op 2) q 0 0 0 8 ∧ k.ea = 0x20000000 ∧ k.rd 0x20000000 8 = .ok 0 ∧ k.rd 0x20000008 8 = .ok 100 ∧
        k.rd 0x20000010 4 = .ok (BitVec.ofNat 64 st) ∧ k.ck 0x20000000 8 = none ∧ k.ck 0x20000010 4 = none := by decide +kernel

theorem witness_timer_reset : RunsStore (running regs0) (op 2) 0x5B 0 0 0 3 ∧ (view (running regs0) (op 2) 0x5B 0 0).ea.toNat % 8 = 0 ∧
    (view (running regs0) (op 2) 0x5B 0 0).ck 0x20000010 4 = none := by decide +kernel

theorem witness_floating :
    let s := running regs0
    ((∀ q ∈ [0x60, 0x61, 0x62], RunsWord s (op 1 0 0x3F800000) q 0 0 0 0x3F800000 4) ∧
      RunsWord s (op 1 0 0x3F800000) 0x63 0 0 0 0x3F800000 14 ∧ RunsWord s (op 1 0 0x3F800000) 0x64 0 0 0 0x3F800000 3) ∧
    ((∀ q ∈ [(0x67, 5), (0x68, 5), (0x69, 6), (0x6A, 28), (0x6B, 3)], RunsLong s (op 2 8) q.1 0 0 0 0 q.2)) ∧
    (RunsIn s op 0x65 0 0 0 16 ∧ RunsIn s op 0x6C 0 0 0 30 ∧ RunsIn s (op 0 1) 0x66 0 0 0 1) ∧
    (RunsIn s (op 0 3) 0x66 0 0 0 1 ∧ RunsIn s (op 0 15) 0x3D 0 0 0 3) := by
  refine ⟨?_, ?_, ?_, ?_⟩ <;> decide +kernel

/-- Block repeat with BRC 0, 1 and 2. -/
theorem witness_block :
    let s (n : Word) := running { regs0 with brc := n, brs := 0x20001000, brd := 0x20002000 }
    let b (n : Word) := running { regs0 with brc := n, brs := 0x400000, brd := 0x400100 }
    let y := running { regs0 with brc := 1, brs := 0x400000, brd := 0x20002000 }
    let z := running { regs0 with brc := 1, brs := 0x20001000, brd := 0x400100 }
    (∀ q ∈ [0x70, 0x71, 0x72, 0x73, 0x74, 0x75], RunsBlock (s 0) op q 0 0 0 0) ∧
    (RunsBlock (s 2) op 0x70 0 0 0 2 ∧ (view (s 2) op 0x70 0 0).rd 0x20001000 1 = .ok 0 ∧ (view (s 2) op 0x70 0 0).ck 0x20002000 1 = none) ∧
    (RunsBlock (s 1) op 0x71 0 0 0 2 ∧ (view (s 1) op 0x71 0 0).ck 0x20002000 1 = none) ∧
    (RunsBlock (s 1) (op 0 3) 0x70 0 0 0 9 ∧ RunsBlock (s 1) (op 0 3) 0x72 0 0 0 9) ∧
    (RunsBlock (s 1) op 0x72 0 0 0 3 ∧ (view (s 1) op 0x72 0 0).rd 0x20001000 1 = .ok 0 ∧ (view (s 1) op 0x72 0 0).rd 0x20002000 1 = .ok 0) ∧
    (RunsBlock (b 1) op 0x73 0 0 0 2 ∧ (view (b 1) op 0x73 0 0).bit 0x400000 = .ok false ∧ (view (b 1) op 0x73 0 0).ckBit 0x400100 = none) ∧
    (RunsBlock y op 0x74 0 0 0 4 ∧ (∀ i : Fin 8, (view y op 0x74 0 0).bit (0x400000 + i.val) = .ok false) ∧ (view y op 0x74 0 0).ck 0x20002000 1 = none) ∧
    (RunsBlock z op 0x75 0 0 0 4 ∧ (view z op 0x75 0 0).rd 0x20001000 1 = .ok 0 ∧ ∀ i : Fin 8, (view z op 0x75 0 0).ckBit (0x400100 + i.val) = none) := by
  refine ⟨?_, ?_, ?_, ?_, ?_, ?_, ?_, ?_⟩ <;> decide +kernel

/-- Two different elements. -/
theorem witness_block_unequal :
    let s := running { regs0 with brc := 1, brs := 0x20001000, brd := 0x20002000 }
    let y := at_ s (s.chip.stB 0x20002000 1)
    RunsBlock y op 0x72 0 0 0 3 ∧ (view y op 0x72 0 0).rd 0x20001000 1 = .ok 0 ∧ (view y op 0x72 0 0).rd 0x20002000 1 = .ok 1 := by decide +kernel

/-- A long move of 4,097 bytes without an admission, with a request that waits, and with its admission. -/
theorem witness_block_admission :
    let s (l : List Admission) : State :=
      let y := running { regs0 with brc := 4097, brs := 0x20001000, brd := 0x20002000 }
      at_ y { y.chip with turn := l }
    (∀ l ∈ [[], [⟨4, .le 0, false, 0⟩]], ∀ q ∈ [0x70, 0x71, 0x74, 0x75],
      let c := issued (s l) op
      Powered (s l) ∧ c.canIssue 0 = some (0, 0) ∧ c.fetchExc 0 q op 0x10000000 = none ∧ (c.task 0).paired = false ∧ (c.task 0).inBlock = false ∧
        (c.task 0).admitted = false ∧ c.turnHas 4 (.le 0) = false ∧ (c.turn.any fun a => a.cls == 4 && a.who == .le 0) = decide (l ≠ [])) ∧
    (RunsBlock (s [⟨4, .le 0, true, 0⟩]) op 0x71 0 0 0 2 ∧ needsAdmission 0x71 0 (regsOf (s []) op 0) = true ∧
      (view (s [⟨4, .le 0, true, 0⟩]) op 0x71 0 0).ck 0x20002000 1 = none) := by
  refine ⟨?_, ?_⟩ <;> decide +kernel

/-! ### Witnesses: the ledger, exceptions, PAIRED tasks and cores -/

/-- Word channel 0 with a word for tasks. -/
def wordChip : Chip := fields [(MBX_WCFG.WEN 0, 1), (MBX_WINFO.FULL 0, 1)] runChip

theorem witness_ledger :
    let s := running regs0 (fields [(SCN_TCFG.LEDGMAX 0, 1)] wordChip)
    let l := ((issued s op).task 0)
    (Canonical s ∧ l.ledgUsed = l.ledgPos ∧ l.ledgPos < (issued s op).get (SCN_TCFG.LEDGMAX 0) ∧ (issued s op).mode = mRUN ∧
      (issued s op).leading = false ∧ (issued s op).partnerEntry 0 l.ledgPos = none) ∧
    (∀ q ∈ [0, 0x4000, 0xC01C, 0x10000, 0x10100], RunsIn s (op 0 (BitVec.ofNat 18 q)) 0x5E 0 0 0 4) ∧
    ((0xC01C : BitVec 18).toNat / 2 ^ 14 = 3 ∧ (0xC01C : BitVec 18).toNat % 2 ^ 14 = 28 ∧ (issued s op).flag (MBX_WCFG.WEN 0) = true ∧
      (issued s op).get (MBX_WCFG.RDCLS 0) = 0) ∧
    (RunsIn (running regs0) op 0x5E 0 0 0 4 ∧ (issued (running regs0) op).get (SCN_TCFG.LEDGMAX 0) = 0) ∧
    (let y := running regs0 (fields [(SCN_TCFG.LEDGMAX 0, 1), (STN_STATE.NSTN 0, 1)] runChip);
      Canonical y ∧ (∀ q ∈ [0x8000, 0xA040], RunsIn y (op 0 (BitVec.ofNat 18 q)) 0x5E 0 0 0 4) ∧ (issued y op).get (STN_STATE.NSTN 0) = 1 ∧
      (issued y op).flt.poison = [] ∧ (issued y op).leading = false) ∧
    (RunsIn s op 0x57 0 0 0 2 ∧ (issued s op).kind 0 = kCYC ∧ (issued s op).leOf 0 = 0 ∧ ((issued s op).task 0).begun = true ∧
      (issued s op).above 0 = none) := by
  refine ⟨?_, ?_, ?_, ?_, ?_, ?_⟩ <;> decide +kernel

theorem witness_conditions :
    let s := running regs0
    let front (o : Op) : Prop := Powered s ∧ o.x = .le 0 ∧ (issued s o).canIssue 0 = some (0, 0)
    let fetched (o : Op) : Prop := (issued s o).admits (engineAgent 0) false 0x10000000 4 = true
    (front (op 0 0 0 1) ∧ (issued s op).fetchExc 0 0x00 (op 0 0 0 1) 0x10000000 = none ∧ condHolds 1 0 false = false ∧ InBudget s op 0 1) ∧
    (Runs s (op 0 0) 0x18 0 0 0 ∧ needsAdmission 0x18 0 regs0 = false ∧
      semDivs (view s (op 0 0) 0x18 0 0) = .error ⟨0x09, 0, none⟩) ∧
    (let y := running regs0 (fields [(SCN_TCFG.KIND 31, 3), (SCN_TCFG.SUB 31, 1)] runChip)
      let c := issued y (op 0 0)
      Canonical y ∧ Runs y (op 0 0) 0x18 0 0 0 ∧ semDivs (view y (op 0 0) 0x18 0 0) = .error ⟨0x09, 0, none⟩ ∧ c.mode = mRUN ∧ c.flushing = false ∧
        c.flag SYS_MODE.TRANS = false ∧ c.leading = false ∧ c.kind 0 = kCYC ∧ (c.errTask 1).isSome = true ∧ c.flt.execQ.length < 8 ∧
        (c.handling.find? fun q => q.skind == 1 && q.inst == 0 && q.cause == 9) = none) ∧
    (front op ∧ fetched op ∧ isReserved false 0x7F 0 0 0 = true ∧ isReserved false 0x0E 0 2 0 = true ∧ isReserved false 0x78 0 19 0 = false) := by
  refine ⟨?_, ?_, ?_, ?_⟩ <;> decide +kernel

/-- Both copies of an addition agree; with an upset operand of the shadow they differ. -/
theorem witness_paired :
    let s := running regs0
    let c : Chip := s.chip.modTask 0 fun t => { t with paired := true, sctx := regs0.compl }
    let y := at_ s c
    let o := op 0 5
    let sx := shadowCtx o regs0.compl
    let w : Op := { op 2 8 with upset := ⟨1, 0, false, 0⟩ }
    let out (v : Long) : KOut := { x := { regs0 with acc := v.setWidth 32 }, steps := 2, stores := [⟨.data, 0x20000008, 4, v⟩] }
    (Canonical y ∧ Issues y o 0x11 0 0 0 ∧ condHolds o.cond sx.flg sx.ba = true ∧ InBudget y o 0 1 ∧
      isReserved false 0x11 0 5 0 = false ∧ isReserved false 0x0A 2 9 0 = false) ∧
    (semAlu 1 (fun x b => aluAdd x.flg x.acc b false) (view y o 0x11 0 0) =
        .ok { x := { regs0 with acc := 5 }, steps := 1 } ∧
      semAlu 1 (fun x b => aluAdd x.flg x.acc b false) ((issued y o).kin 0 0 true false 0x11 0 5 0 sx) =
        .ok { x := { regs0 with acc := 5 }, steps := 1 }) ∧
    outDiff { x := { regs0 with acc := 5 }, steps := 1 } { x := { regs0 with acc := 5 }, steps := 1 } = none ∧
    (∀ m ∈ [0, 1],
      let z := at_ y (y.chip.put (SHD_TCFG.JMAX 0) m)
      let v : Op := op 2 8
      let j := jStore 0 ((issued z v).ph 0).journal (out 0).stores
      Canonical z ∧ Issues z v 0x0A 0 0 0 ∧ InBudget z v 0 2 ∧ semStw (view z v 0x0A 0 0) = .ok (out 0) ∧
        semStw ((issued z v).kin 0 0 true false 0x0A 2 8 0 (shadowCtx v regs0.compl)) = .ok (out 0) ∧ outDiff (out 0) (out 0) = none ∧
        (j.filter fun x => x.task == 0).length = 1 ∧ (issued z v).get (SHD_TCFG.JMAX 0) = m) ∧
    (Issues y w 0x0A 0 0 0 ∧ semStw (view y w 0x0A 0 0) = .ok (out 0) ∧
      semStw ((issued y w).kin 0 0 true false 0x0A 2 8 0 (shadowCtx w regs0.compl)) = .ok (out 1) ∧ (outDiff (out 0) (out 1)).isSome = true) := by
  refine ⟨?_, ?_, ?_, ?_, ?_⟩ <;> decide +kernel

/-- Core 0 runs from management memory. -/
def coreS (x : Ctx := { regs0 with pc := 0x3C000000 }) (f : Core → Core := id) (c : Chip := runChip) : State :=
  ⟨((c.modSys fun y => { y with booted := true }).modCore 0 fun k => f { k with ctx := x }), []⟩

theorem witness_core :
    let s := coreS
    let c := (issued s opMc).coreStarts 0
    (Powered s ∧ c.coreRuns 0 = true ∧ (c.core 0).waiting = false ∧ c.coreFetch 0 0x11 opMc = none) ∧
    condHolds 1 0 false = false ∧
    semAlu 1 (fun x b => aluAdd x.flg x.acc b false) (c.kinMc 0 [] (opMc 0 5)) = .ok { x := { regs0 with pc := 0x3C000000, acc := 5 }, steps := 1 } ∧
    (semDivs (c.kinMc 0 [] opMc) = .error ⟨0x09, 0, none⟩ ∧ (c.core 0).mst.getLsbD 1 = false ∧ (c.core 0).stack.length < 256) ∧
    ((issued s opMc).get (coreFld 0) = 0 ∧ ((issued s opMc).core 0).step = false) ∧
    (∀ q ∈ [0, 5, 16, 17, 18, 19], c.coreFetch 0 0x78 (opMc 0 (BitVec.ofNat 18 q)) = none) ∧
    (c.coreFetch 0 0x79 opMc = none ∧ c.coreFetch 0 0x7A opMc = none) := by
  refine ⟨?_, ?_, ?_, ?_, ?_, ?_, ?_⟩ <;> decide +kernel

/-- IX points to the last 8 bytes of management memory. -/
theorem witness_core_memory :
    let s := coreS { regs0 with pc := 0x3C000000, ix := 0x3C09FFF8 }
    let o := opMc 4 0
    let c := (issued s o).coreStarts 0
    ∀ q ∈ [(0x01, 1, false), (0x02, 1, false), (0x03, 2, false), (0x04, 2, false), (0x05, 4, false), (0x06, 8, false), (0x08, 1, true), (0x09, 2, true),
        (0x0A, 4, true), (0x0B, 8, true)],
      c.coreFetch 0 q.1 o = none ∧ (c.kinMc 0 [] o).ea.toNat = 0x3C09FFF8 ∧ c.barred (coreAgent 0) q.2.2 0x3C09FFF8 q.2.1 = none ∧
        c.flt.poison = [] ∧ Memory.wf s.chip.mem = true := by decide +kernel

/-- A core in an exception handler, and one whose return stack is full. -/
theorem witness_core_halts :
    let s (f : Core → Core) := coreS { regs0 with pc := 0x3C000000 } f
    (((issued (s fun k => { k with mst := 2 }) opMc).coreStarts 0).core 0).mst.getLsbD 1 = true ∧
    (((issued (s fun k => { k with stack := List.replicate 256 ⟨0, 0, 0, 0, false⟩ }) opMc).coreStarts 0).core 0).stack.length = 256 := by decide +kernel

/-- Line 20 is asserted and enabled, and IE is set. -/
theorem witness_interrupt :
    let s := coreS { regs0 with pc := 0x3C000000 } (fun k => { k with ien := 0x100000, mst := 1, vb := 0x3C000000 })
      ((runChip.wr MBX_H2CDB.reg 1).wr MBX_H2CMASK.reg 0)
    let d := s.chip
    Powered s ∧ d.coreRuns 0 = true ∧ (d.core 0).inBlock = false ∧ (d.core 0).mst.getLsbD 0 = true ∧ d.irqOf 0 = some 20 ∧
      (d.core 0).stack.length < 256 ∧ d.barred (coreAgent 0) false ((d.core 0).vb.toNat + 4 * 20) 4 = none ∧ d.flt.poison = [] := by decide +kernel

/-! ### Witnesses: modes, resets, watchdog, power and clock -/

/-- A powered chip with some fields set. -/
def st (l : List (Fld × Nat)) (f : Chip → Chip := id) : State := ⟨f (fields l Chip.reset), []⟩

/-- A flush record over one retentive byte, and the image whose layout it matches. -/
def flushed (c : Chip) : Chip :=
  { (c.cellsPut 0 (copyCells 0 1 64 1 (List.replicate 8 0 ++ [1, 0, 0, 0] ++ bytesOfWords [crc32c [0]] ++ List.replicate 16 0))).2 with
      image := some image0 }

theorem witness_mode_commands :
    let keyed := byMc 0xC3A50000
    ByMcHost State.reset keyed ∧ ByMcHost (st [(SYS_MODE.MODE, 3)]) (byHost 0xC3A50000) ∧ SYS_CMD.KEY.of keyed.value = 0xC3A5 ∧
      keyed.preempted = false ∧ SYS_CMD.KEY.of (byMc 0).value ≠ 0xC3A5 ∧
    ((written (st [(SYS_MODE.MODE, 3)]) keyed).mode = mRUN ∧ (written (st [(SYS_MODE.MODE, 3)]) keyed).flag SYS_MODE.TRANS = false) ∧
    (let c := (written (st [(SYS_MODE.MODE, 2)] flushed) keyed).put SYS_CMDSTAT.LASTCMD 3;
      c.mode = mSTOP ∧ c.ringsReady = true ∧ c.flushing = false ∧ c.checkRun = 0 ∧ c.pairMember = false ∧ c.warmOk = true) ∧
    (let c := (written (st [(SYS_MODE.MODE, 2), (PWR_WAKEEN.EN, 1)]) keyed).put SYS_CMDSTAT.LASTCMD 4;
      c.mode = mSTOP ∧ c.turn = [] ∧ c.get PWR_WAKEEN.EN ≠ 0 ∧ c.keptRing = none) ∧
    (let c := written (st [(SYS_MODE.MODE, 2), (PWR_WAKEEN.EN, 1), (STN_CTL.IMKEEP 1, 1), (STN_STATE.NSTN 1, 2)]) keyed;
      c.keptRing = some 1 ∧ c.get (STN_STATE.NSTN 1) ≠ 0) ∧
    ((st [(SYS_MODE.MODE, 2), (PWR_WAKEEN.EN, 0)]).chip.get PWR_WAKEEN.EN = 0) ∧
    (let c := written (st [(SYS_MODE.MODE, 5)]) keyed;
      c.mode = mSAFE ∧ c.sys.unitHold = false ∧ c.pins.fence = false) ∧
    ((st [(SYS_MODE.TRANS, 1)]).chip.flag SYS_MODE.TRANS = true) := by
  refine ⟨?_, ?_, ?_, ?_, ?_, ?_, ?_, ?_, ?_, ?_, ?_, ?_⟩ <;> decide +kernel

/-- A RUN is refused: a ring is not ready, a flush is under way, a task without engine map fits no rule, and no flush record is chosen. -/
theorem witness_runs_refused :
    let keyed := byMc 0xC3A50000
    let y (l : List (Fld × Nat)) (f : Chip → Chip := id) := st ((SYS_MODE.MODE, 2) :: l) f
    let d (l : List (Fld × Nat)) (f : Chip → Chip := id) := (written (y l f) keyed).put SYS_CMDSTAT.LASTCMD 3
    (Canonical (y []) ∧ Powered (y []) ∧ (d []).sys.runReq = none ∧ (d []).get SYS_MODE.TARGET ≠ mRUN ∧ (d []).mode = mSTOP ∧
      (d []).flag SYS_MODE.TRANS = false) ∧
    ((d [(STN_STATE.NSTN 0, 1)]).ringsReady = false) ∧
    ((d [] fun c => c.modPwr fun p => { p with flush := some 0 }).flushing = true) ∧
    (let c := d [(SCN_TCFG.KIND 0, 1)];
      c.ringsReady = true ∧ c.flushing = false ∧ c.checkRun ≠ 0) ∧
    ((d []).checkRun = 0 ∧ (d []).warmOk = false) ∧
    (let c := (written (st [(SYS_MODE.MODE, 5)] fun c => c.modSys fun y => { y with unitHold := true }) keyed);
      c.mode = mSAFE ∧ c.sys.unitHold = true) := by
  refine ⟨?_, ?_, ?_, ?_, ?_, ?_⟩ <;> decide +kernel

theorem witness_mode_events :
    let stop := (st [(SYS_MODE.MODE, 3), (SYS_MODE.TRANS, 1), (SYS_MODE.TARGET, 2)]).chip
    let start (n : Nat) (f : Chip → Chip) := (st [(SYS_MODE.MODE, 2)] fun c => (f c).modSys fun y => { y with start := some n }).chip
    (stop.flag SYS_MODE.TRANS = true ∧ stop.get SYS_MODE.TARGET = mSTOP ∧ stop.mode = mRUN ∧ stop.flushing = false ∧ stop.scansDone = true ∧
      stop.sys.handing = false) ∧
    ((running regs0).chip.scansDone = false) ∧
    (∀ n ∈ [1, 2, 3], let c := start n flushed;
      let begun : Chip := c.modSys fun y => { y with start := none };
      c.sys.start = some n ∧ c.mode = mSTOP ∧ c.sys.runReq = none ∧ c.flag SYS_MODE.TRANS = false ∧ c.ringsReady = true ∧ c.warmOk = true ∧
        begun.flushing = false ∧ begun.checkRun = 0 ∧
        begun.warmOk = true ∧ c.pairMember = false) ∧
    ((start 2 id).warmOk = false ∧ (start 2 id).flag SYS_MODE.TRANS = false) ∧
    (let c := (st [(SYS_MODE.MODE, 2), (STN_STATE.NSTN 0, 1)] fun c => c.arrive 42000000).chip;
      c.mode = mSTOP ∧ c.get (STN_STATE.NSTN 0) ≠ 0 ∧ c.sys.stopAt.toNat + 2000000 + 40000000 * c.get (STN_STATE.NSTN 0) ≤ c.tb.toNat) ∧
    (Chip.reset.hsb.arb = none ∧ Chip.reset.mode = mLOAD ∧ (st [(SYS_MODE.MODE, 5)]).chip.mode = mSAFE ∧ Canonical (st [(SYS_MODE.MODE, 5)])) := by
  refine ⟨?_, ?_, ?_, ?_, ?_, ?_⟩ <;> decide +kernel

theorem witness_resets :
    (let p : PowerOn := ⟨true, false, false, false, true, true, false⟩
      let e := (st [] fun c => { c.modNvs fun n => { n with erasing := [(0x70000, 4096)] } with turn := [⟨0, .store, true, 0⟩] }).chip
      Canonical State.reset ∧ State.reset.chip.sys.held = .no ∧ State.reset.chip.turnHas 0 .store = false ∧ State.reset.chip.nvs.inc = none ∧
        p.testen = false ∧ p.a = true ∧ Canonical ⟨e, []⟩ ∧ e.turnHas 0 .store = true ∧ e.cellWriter = false ∧
        e.nvs.erasing = (0x70000, 4096) :: []) ∧
    ((st [] fun c => c.modSys fun y => { y with held := .pin }).chip.sys.held = .pin ∧
      (st [] fun c => c.modSys fun y => { y with held := .power }).chip.sys.held = .power) ∧
    (let f := (st [(PWR_FEED.AGOOD, 1), (PWR_FEED.BGOOD, 1)] fun c => c.modSys fun y => { y with held := .flushed });
      Canonical f ∧ f.chip.sys.held = .flushed ∧ f.chip.flag PWR_FEED.AGOOD = true ∧ f.chip.flag PWR_FEED.BGOOD = true) ∧
    ((st [] fun c => c.modWdg fun g => { g with due := true }).chip.wdg.due = true) := by
  refine ⟨?_, ?_, ?_, ?_⟩ <;> decide +kernel

theorem witness_watchdog :
    let c (n : Nat) (t : Time) : Chip := (st [(WDG_STAT.PHASE, n)] fun c => (c.arrive t).modWdg fun g => { g with period := some (0, 100) }).chip
    let k := (st [] fun c => c.modWdg fun g => { g with key := some (1, 0, 1) }).chip
    ((c 0 100).wdg.period = some (0, 100) ∧ (c 0 100).wdg.frozen = none ∧ (0 : Time).toNat + 100 ≤ (c 0 100).tb.toNat ∧
      (c 0 100).flag WDG_STAT.PHASE = false ∧ (c 1 100).flag WDG_STAT.PHASE = true ∧ (c 0 99).tb.toNat < 0 + 100 ∧ (c 0 1).debugHalts = false) ∧
    (ByMcHost State.reset (byMc 0xE8C2) ∧ k.flag WDG_CTL.LOCK = false ∧ k.wdg.key = some (1, 0, (byMc 0xE8C2).agent) ∧
      (k.arrive 1000000).tb.toNat ≤ 0 + 1000000 ∧ (byHost 0xE8C2).agent ≠ 1 ∧ (byMc 0x5A17).value.toNat % 2 ^ 16 = 0x5A17) ∧
    ((st [(WDG_CTL.LOCK, 1)]).chip.flag WDG_CTL.LOCK = true ∧ isMc 0x41 = false ∧ isHost 0x41 = false ∧
      Chip.reset.wdg.period = none ∧ (c 0 1).wdg.period.isSome = true) := by
  refine ⟨?_, ?_, ?_⟩ <;> decide +kernel

theorem witness_power :
    let f : Chip := (st [(PWR_CTL.AUTORET, 1), (PWR_CTL.PREF, 0), (PWR_FEED.AGOOD, 1), (PWR_FEED.BGOOD, 1), (PWR_FEED.CORESRC, 1)] fun c =>
      (c.arrive 100000000).modPwr fun p => { p with left := p.left.set 0 true }).chip
    let a : Admission := ⟨0, .store, false, 0⟩
    let q : Chip := { Chip.reset with turn := [a] }
    let u := (written State.reset (byMc 0x00640320))
    let v (n : Nat) : Conv := ⟨1, List.replicate 128 7, n⟩
    let x (n : Nat) : Chip := { Chip.reset.modSys fun y => { y with conv := some (v n) } with turn := [⟨0, .xspi, false, 0⟩] }
    (f.feedGood 0 = true ∧ f.feedGood 1 = true ∧ f.flag PWR_CTL.AUTORET = true ∧ f.pwr.left[(0 : Fin 3)] = true ∧ f.feedOf 0 ≠ 0 ∧
      f.pwr.goodAt[(0 : Fin 2)].toNat + 100000000 ≤ f.tb.toNat ∧ (st [(PWR_FEED.AGOOD, 0)]).chip.feedGood 0 = false) ∧
    (q.flushing = false ∧ q.turnNext 0 = some a ∧ Chip.reset.turnNext 0 = none ∧ a.who ≠ .shadow ∧ a.who ≠ .olc ∧ q.sys.conv = none ∧
      q.turnHeld.turnNext 0 = some a ∧ q.turnHeld.sleeps a.who = false ∧ Chip.reset.turnHeld.turnNext 0 = none ∧
      ((fields [(SYS_MODE.MODE, 6)] q).turnHeld.sleeps .recorder = true) ∧
      ((fields [(SYS_MODE.MODE, 6)] { q with turn := [⟨1, .recorder, false, 0⟩] }).turnHeld.turnNext 1).isSome = true ∧
      ∀ w ∈ ([.shadow, .olc] : List Asker), ({ q with turn := [⟨4, w, false, 0⟩] } : Chip).turnNext 4 = some ⟨4, w, false, 0⟩) ∧
    (∀ n ∈ [0, 1, 2], (x n).turnHeld.turnNext 0 = some ⟨0, .xspi, false, 0⟩ ∧ (x n).mode ≠ mINTER ∧ (x n).sys.conv = some (v n) ∧ (v n).bank < 2 ∧
      (v n).image.length = 128 ∧
      Canonical ⟨x n, []⟩ ∧ (x n).flushing = false) ∧
    (((st [] fun c => c.modPwr fun p => { p with flush := some 0 }).chip.flushing = true)) ∧
    (ByMcHost State.reset (byMc 0x00640320) ∧ PWR_BUDGET.BASE.of 0x00640320 = 100 ∧ PWR_BUDGET.BUDGET.of 0x00640320 = 800 ∧
      u.flag PWR_BUDGET.LK = false ∧ (st [(PWR_BUDGET.LK, 1)]).chip.flag PWR_BUDGET.LK = true ∧
      PWR_BUDGET.BUDGET.of 0x00640064 < PWR_BUDGET.BASE.of 0x00640064 + 304) := by
  refine ⟨?_, ?_, ?_, ?_, ?_⟩ <;> decide +kernel

theorem witness_intermission :
    let c := (st [(SYS_MODE.MODE, 2), (SYS_MODE.TRANS, 1), (SYS_MODE.TARGET, 6)]).chip
    let z := (st [(SYS_MODE.MODE, 6)] fun c => c.modPwr fun p => { p with wakeEn := 4 }).chip
    let w := (st [(SYS_MODE.MODE, 6)] fun c => c.modPwr fun p => { p with wake := some 2 }).chip
    let f := (st [] fun c => c.modPwr fun p => { p with flush := some 0 }).chip
    let e := (c.modPwr fun p => { p with wakeEn := 4 }).setBit PWR_WAKE.SRC 2
    (e.mode ≠ mINTER ∧ e.asleep = true ∧ e.pwr.wake = none ∧ e.pwr.wakeEn.testBit 2 = true) ∧
    (f.turnHas 0 .store = false ∧ ({ f with turn := [⟨0, .store, true, 0⟩] } : Chip).turnHas 0 .store = true ∧ f.flag NVS_STAT.TARM = false) ∧
    (c.mode = mSTOP ∧ c.asleep = true ∧ c.pwr.kept = none ∧ c.pwr.wake = none ∧ Chip.reset.mode ≠ mSTOP ∧ Chip.reset.asleep = false) ∧
    (z.mode = mINTER ∧ z.pwr.wake = none ∧ z.pwr.wakeEn.testBit 2 = true) ∧ (w.mode = mINTER ∧ w.pwr.wake.isSome = true) ∧
    (Chip.reset.pwr.flush = none ∧ Chip.reset.pins.pfailLow = false ∧ f.flushing = true ∧ f.pwr.flush = some 0) ∧
    (Chip.reset.feedsLost = false) := by
  refine ⟨?_, ?_, ?_, ?_, ?_, ?_, ?_⟩ <;> decide +kernel

theorem witness_clock :
    let c (p : Bool) := (st [(RTC_STATE.WPEND, if p then 1 else 0)]).chip
    let arm := (st [(RTC_WDATE.MONTH, 1), (RTC_WDATE.DAY, 31)]).chip
    let pps (q : Option Time) (n : Nat) := (st [(RTC_PPSCTL.EN, 1)] fun c => c.modRtc fun r => { r with ppsAt := q, ppsRun := n }).chip
    ((c true).flag RTC_STATE.WPEND = true ∧ (c false).flag RTC_STATE.WPEND = false ∧ (c true).rtc.secs + 1 ≠ rtcSpan) ∧
    (arm.rtcWriter (byMc 0x7C310001).agent = true ∧ RTC_WCMD.KEY.of (byMc 0x7C310001).value = 0x7C31 ∧ arm.rtcStagedOk true = true ∧
      (arm.put RTC_WDATE.DAY 32).rtcStagedOk true = false ∧ (arm.put RTC_WTIME.WDAY 7).rtcStagedOk false = true ∧
      (arm.put RTC_WTIME.WDAY 7).rtcStagedOk true = false) ∧
    (c true).rtcWriter 0x40 = true ∧ isHost 0x40 = true ∧ HostReaches (st [(SYS_MODE.MODE, 3)]) ∧ (c true).mode ≠ mFOLLOW ∧
      (st [(SYS_MODE.MODE, 4)]).chip.mode = mFOLLOW ∧
      (st [] fun c => c.modRtc fun r => { r with ppsOn := some 0 }).chip.rtc.ppsOn = some 0 ∧ Chip.reset.rtc.ppsOn = none ∧ Chip.reset.rtc.ppsAt = none ∧
      ((pps (some 0) 9).arrive 3000000000).t = 0 + 3000000000 ∧ (pps (some 0) 9).tb.toNat < 0 + 3000000000 ∧
    ((pps none 9).flag RTC_PPSCTL.EN = true ∧ (pps (some 0) 9).rtc.ppsAt = some 0 ∧ (0 : Time).toNat + 999000000 ≤ (1000000000 : Time).toNat ∧
      (1000000000 : Time).toNat ≤ (0 : Time).toNat + 1001000000) ∧
    ((ppsErr 1000000100).natAbs ≤ 100 ∧ 100 < (ppsErr 1000000101).natAbs ∧ (ppsErr 1000001000).natAbs ≤ 1000 ∧ 1000 < (ppsErr 1000001001).natAbs) ∧
    ((st [] fun c => c.modRtc fun r => { r with slot := 511 }).chip.rtc.slot < 512 ∧
      512 ≤ (st [] fun c => c.modRtc fun r => { r with slot := 512 }).chip.rtc.slot ∧ Chip.reset.rtc.vbatSaid = false ∧
      (st [] fun c => c.modRtc fun r => { r with vbatSaid := true }).chip.rtc.vbatSaid = true) := by
  refine ⟨?_, ?_, ?_, ?_, ?_⟩ <;> decide +kernel

/-- A record of kind 1 for partition 0 in management memory. -/
def grdS (l : List (Fld × Nat)) (f : Chip → Chip := id) : State :=
  st l fun c => f (((c.stB 0x3C000000 1).modGrd fun g => { g with raddr := [(1, 0x3C000000)], since := 8 }).put GRD_PSEQ.SEQ 0)

theorem witness_agreement :
    let w := byMc 0xA7D20001
    let u (l : List (Fld × Nat)) (f : Chip → Chip := id) := written (grdS l f) w
    (grdAgent w.agent = true ∧ GRD_CMD.KEY.of w.value = 0xA7D2 ∧ GRD_CMD.KEY.of (byMc 0).value ≠ 0xA7D2 ∧ (u []).grdClass w.agent = 1) ∧
    ((u []).get GRD_PROP.STATE = 0 ∧ (spGet 0 (u []).grd.raddr 1).toNat = 0x3C000000 ∧ (u []).grdValid ((u []).ldBytes 0x3C000000 64) false = true ∧
      recField ((u []).ldBytes 0x3C000000 64) 0 1 = 1) ∧
    ((u [] fun c => c.stB 0x3C000000 9).grdValid ((u [] fun c => c.stB 0x3C000000 9).ldBytes 0x3C000000 64) false = false) ∧
    (let c := u [(GRD_PROP.STATE, 1), (GRD_PROP.PCLASS, 2), (GRD_PROP.KIND, 1)];
      c.get GRD_PROP.STATE = 1 ∧ c.get GRD_PROP.PCLASS ≠ 1 ∧ c.tb.toNat ≤ c.grd.since.toNat + 2000000000 ∧ c.agentDig 1 = c.pendDig ∧
      (c.wr (GRD_DIG.reg 0) 1).pendDig ≠ c.agentDig 1) ∧
    ((u [(GRD_PROP.STATE, 2)]).get GRD_PROP.STATE = 2 ∧ (u [(GRD_PROP.STATE, 1), (GRD_PROP.PCLASS, 1)]).get GRD_PROP.PCLASS = 1) ∧
    ((u [(GRD_PROP.KIND, 1), (GRD_PROP.ARG, 15)]).get GRD_PROP.ARG = (15 : Fin 16).val ∧ (u [(GRD_PROP.KIND, 3)]).get GRD_PROP.KIND = 3) := by
  refine ⟨?_, ?_, ?_, ?_, ?_, ?_⟩ <;> decide +kernel

/-- A change of kind 6 that is agreed. -/
theorem witness_agreed_key : Canonical (grdS [(GRD_PROP.KIND, 6)]) ∧ (written (grdS [(GRD_PROP.KIND, 6)]) (byMc 0xA7D20001)).get GRD_PROP.KIND = 6 := by
  decide +kernel

/-- The digest of the record stands in the agreement list. -/
theorem witness_agreement_listed :
    let c := (grdS []).chip
    (c.modGrd fun g => { g with agree := [sha256 (c.ldBytes 0x3C000000 64)] }).grd.agree.contains (sha256 (c.ldBytes 0x3C000000 64)) = true := by
  decide +kernel

theorem witness_guard_time :
    let p (n : Nat) (t : Time) := (st [(GRD_PROP.STATE, n)] fun c => c.arrive t).chip
    let d := (st [(GRD_DBG.DBGST, 2)] fun c => (c.arrive 5).modGrd fun g => { g with dbgUntil := some 5 }).chip
    let r : List Byte := [6, 0, 0, 0, 0, 0, 0, 0, 0, 0, 0, 0x3C] ++ sha256 (List.replicate 64 0)
    let k : Chip := { (st [] fun c => c.modGrd fun g => { g with keyJobs := [r] }).chip with turn := [⟨0, .store, true, 0⟩] }
    ((p 1 2000000000).get GRD_PROP.STATE = 1 ∧ (p 1 2000000000).grd.since.toNat + 2000000000 ≤ (p 1 2000000000).tb.toNat ∧
      (p 2 0).get GRD_PROP.STATE = 2 ∧ ¬ (p 1 1999999999).grd.since.toNat + 2000000000 ≤ (p 1 1999999999).tb.toNat) ∧
    (d.grd.dbgUntil = some 5 ∧ (5 : Time).toNat ≤ d.tb.toNat ∧ d.get GRD_DBG.DBGST ≠ 0 ∧ Chip.reset.grd.dbgUntil = none ∧ d.get GRD_DBG.DBGST = 2) ∧
    (let x := (st [] fun c => (c.arrive 1000000000).modGrd fun g => { g with refused := [0] }).chip;
      x.grd.refused = [0] ∧ 0 < x.tb.toNat / 1000000000 ∧ Chip.reset.grd.refused = []) ∧
    (let y := (st [(GRD_DBG.DBGST, 2)] fun c => (c.modEng 0 fun g => { g with run := some 0 }).modCore 0 fun k => { k with halted := true }).chip;
      2 ≤ y.get GRD_DBG.DBGST ∧ (y.core 0).halted = true ∧ (y.eng 0).run = some 0 ∧ y.physOf 0 = some 0 ∧ Chip.reset.get GRD_DBG.DBGST = 0 ∧
        ((y.modPh 0 fun q => { q with journal := [⟨0, .data, 0, 0, 0, false⟩] }).ph 0).journal.isEmpty = false) ∧
    (Canonical ⟨k, []⟩ ∧ k.nvs.stuck = [] ∧ k.grd.keyJobs = r :: [] ∧ k.turnHas 0 .store = true ∧ Chip.reset.grd.keyJobs = [] ∧
      k.ldBytes (recField r 8 4) 64 = List.replicate 64 0 ∧
      (r.drop 12).take 32 = sha256 (List.replicate 64 0) ∧ (({ k with mem := [⟨0x3C000000, 1⟩] } : Chip).ldBytes (recField r 8 4) 64).head? = some 1) := by
  refine ⟨?_, ?_, ?_, ?_, ?_⟩ <;> decide +kernel

theorem witness_channels :
    let c (f : Chip → Chip) := (st [(MBX_CHCFG.EN 0, 1), (MBX_CHCFG.DIR 0, 1), (MBX_CHCFG.DBEN 0, 1)] f).chip
    let full := c fun c => c.modMbx fun m => { m with queues := m.queues.set 0 (List.replicate 16 ⟨0, 1, 7⟩) }
    let word (n : Nat) := (st [(MBX_WCFG.WEN 0, 1), (MBX_WCFG.RDCLS 0, 1), (MBX_WCFG.WRCLS 0, 0), (MBX_WINFO.FULL 0, n)]).chip
    ((c id).chPoster 0 1 = true ∧ (c id).flag (MBX_CHCFG.EN 0) = true ∧ (c id).mbx.queues[(0 : Fin 28)].length < 16 ∧
      16 ≤ full.mbx.queues[(0 : Fin 28)].length ∧ (c id).flag (MBX_CHCFG.DBEN 0) = true ∧ (c id).flag (MBX_CHCFG.DIR 0) = true) ∧
    ((c id).chReceiver 0 0x40 = true ∧ full.mbx.queues[(0 : Fin 28)] = ⟨0, 1, 7⟩ :: List.replicate 15 ⟨0, 1, 7⟩) ∧
    (Chip.reset.flag (MBX_CHCFG.EN 0) = false ∧ (0x80000000 : Word).getLsbD 31 = true) ∧
    ((word 1).flag (MBX_WINFO.FULL 0) = true ∧ (word 0).wWriter 0 0x40 = true ∧ (word 0).flag (MBX_WCFG.FDBEN 0) = false ∧
      (word 0).flag (MBX_WCFG.WEN 0) = true ∧ (word 0).get (MBX_WCFG.RDCLS 0) = 1) ∧
    (isHost 0x40 = true ∧ HostReaches (st [(SYS_MODE.MODE, 3)]) ∧ isMc 0x01 = true ∧ Chip.reset.pins.refclk = true ∧ Chip.reset.mode ≠ mINTER ∧
      ({ Chip.reset with pins := { Chip.reset.pins with refclk := false } } : Chip).pins.refclk = false) ∧
    (let d := (st [] fun c => c.modMbx fun m => { m with vecMask := 0, msixOn := true, pba := 1, pci := { m.pci with command := 4 } }).chip;
      d.vecOpen 0 = true ∧ Chip.reset.vecOpen 0 = false ∧ d.mbx.pba.getLsbD 0 = true ∧ ((d.wr MBX_C2HDB.reg 1).rd MBX_C2HDB.reg).getLsbD 0 = true ∧
      (0 : Word).getLsbD 0 = false ∧ (1 : Word).getLsbD 0 = true) ∧
    ((c id).chPoster 0 0x40 = false ∧ (word 1).wWriter 0 0x01 = false ∧ (c fun c => c.clr (MBX_CHCFG.DBEN 0)).flag (MBX_CHCFG.DBEN 0) = false ∧
      (word 0).get (MBX_WCFG.RDCLS 0) ≠ 2 ∧ ¬ (7 : Word).toNat % 256 ≠ 7) := by
  refine ⟨?_, ?_, ?_, ?_, ?_, ?_, ?_⟩ <;> decide +kernel

/-! ### Witnesses: faults, tests, scans -/

theorem witness_faults :
    let f : FaultIn := ⟨1, 0x0A, 0, 0x50, 0, none, false⟩
    (Powered State.reset ∧ Canonical State.reset ∧ f.task = none ∧ f.cls.val < 3 ∧
      (Chip.reset.handling.find? fun q => q.skind == f.skind && q.inst == f.inst && q.cause == f.cause) = none) ∧
    ((st [(SYS_MODE.MODE, 2)]).chip.mode ≠ mLOAD) ∧ (((running regs0).chip.task 0).live = true ∧ (running regs0).chip.scanning = true) ∧
    (let c := (fields [(SYS_MODE.MODE, 3), (SCN_TCFG.KIND 2, 3), (SCN_TCFG.SUB 2, 1)] Chip.reset);
      c.queues = true ∧ (c.errTask 1).isSome = true ∧ c.flt.execQ.length < 8 ∧
      (c.handling.find? fun q => q.skind == f.skind && q.inst == f.inst && q.cause == f.cause) = none) := by
  refine ⟨?_, ?_, ?_, ?_⟩ <;> decide +kernel

/-- The spare of engine 17 on a chip whose engines are mapped. -/
def spareChip : Chip := (fields [(SYS_LEMAP.VALID 0, 1), (FLT_CTL.ROTEN, 1)] Chip.reset)

theorem witness_tests :
    let c (n : Option Nat) : Chip := { spareChip.modEng 0 fun g => { g with segs := n } with turn := [⟨2, .le 0, true, 0⟩] }
    let p : Chip := { Chip.reset with turn := [⟨2, .spare 17, true, 0⟩] }
    let m (r : Bool) : Chip := { (Chip.reset.put (coreFld 0) 1).modCore 0 fun k => { k with retest := r } with turn := [⟨2, .core 0, true, 0⟩] }
    ((c (some 59)).turnHas 2 (.le 0) = true ∧ ((c (some 59)).eng 0).segs = some 59 ∧ ((c (some 58)).eng 0).segs = some 58 ∧
      ((c none).eng 0).mismatch = none ∧ ((c none).eng 0).remap = none ∧ ((c none).eng 0).run = none ∧ (c none).bitOf FLT_ROTLE.FORCED 0 = false ∧
      (c none).flag FLT_CTL.ROTEN = true ∧ (c none).physOf 0 = some 0) ∧
    (p.turnHas 2 (.spare 17) = true ∧ (p.turnEnd 2 (.spare 17)).spares.contains 17 = true ∧ (Chip.reset.put FLT_CTL.ROTEN 0).flag FLT_CTL.ROTEN = false) ∧
    ((m false).get (coreFld 0) = 1 ∧ (m true).turnHas 2 (.core 0) = true ∧ (((m true).turnEnd 2 (.core 0)).core 0).retest = true ∧
      (((m false).turnEnd 2 (.core 0)).core 0).retest = false ∧ Chip.reset.get (coreFld 0) = 0) ∧
    (let s := (Chip.reset.arrive 100000000);
      (s.physOf 0).isSome = true ∧ (100000000 : Time).toNat % 100000000 = 0 ∧ (s.eng 0).slackEnd ≠ 100000000 ∧
      ((s.modEng 0 fun g => { g with slackEnd := 100000000 }).eng 0).slackEnd = 100000000 ∧ (8 : Time).toNat % 100000000 ≠ 0 ∧
        (17 : Fin 18) ∈ spareChip.spares ∧
      spareChip.flag FLT_CTL.ROTEN = true ∧ p.turnHas 2 (.spare 16) = false) ∧
    (let f : Chip := fields [(FLT_ROTLE.FORCED, 1)] { (c (some 59)).modEng 0 fun g => { g with run := some 0 } with turn := [⟨2, .le 0, true, 0⟩] };
      (f.eng 0).run = some 0 ∧ f.bitOf FLT_ROTLE.FORCED 0 = true ∧ f.turnHas 2 (.le 0) = true ∧ (f.eng 0).segs = some 59 ∧
        (f.eng 0).mismatch = none ∧ (f.eng 0).remap = none ∧
        ((f.modEng 0 fun g => { g with segs := some 58 }).eng 0).segs = some 58 ∧ (f.put FLT_ROTLE.FORCED 0).bitOf FLT_ROTLE.FORCED 0 = false) ∧
    ((Chip.reset.put (coreFld 0) 2).get (coreFld 0) = 2 ∧ (Chip.reset.put (coreFld 0) 3).get (coreFld 0) = 3 ∧ Canonical State.reset) ∧
    (0x58 ∈ (Chip.reset.modFlt fun f => { f with checks := [0x58] }).flt.checks ∧ 0x58 ∉ Chip.reset.flt.checks) := by
  refine ⟨?_, ?_, ?_, ?_, ?_, ?_, ?_⟩ <;> decide +kernel

theorem witness_scrub :
    let c (n : Nat) (seen : List (Nat × Nat)) : Chip := Chip.reset.modFlt fun f => { f with sweeping := true, scrubPos := n, seen := seen }
    let poisoned : Chip := (c 0 []).modFlt fun f => { f with poison := [wordIn sramRegions 0 / 8] }
    let w : Chip := { Chip.reset.modFlt fun f => { f with pendMap := [1] } with turn := [⟨0, .store, true, 0⟩] }
    let g : Chip := fields [(GRD_PROP.STATE, 2), (GRD_PROP.KIND, 3), (GRD_PROP.ARG, 0)] (Chip.reset.modGrd fun g => { g with agreer := 1 })
    ((c 0 []).flt.sweeping = true ∧ (c 0 []).flt.scrubPos + 1 < scrubWords ∧ (0, 5) ∉ (c 0 []).flt.seen ∧ (0, 5) ∈ (c 0 [(0, 5)]).flt.seen ∧
      (c 0 []).rowPoisoned (wordIn sramRegions 0) = false ∧ wordIn sramRegions 0 < 0x10300000) ∧
    ((c (scrubWords - 1) []).flt.scrubPos + 1 = scrubWords) ∧ (poisoned.rowPoisoned (wordIn sramRegions 0) = true) ∧
    (w.flt.pendMap = [1] ∧ w.turnHas 0 .store = true ∧ ((w.modFlt fun f => { f with pendMap := [] }).storeEnd).mapFree = some 0) ∧
    (ByMcHost State.reset (byMc 0x7E510001) ∧ isMc 0x10 = false ∧ isHost 0x10 = false ∧ Chip.reset.flt.sweeping = false ∧
      Chip.reset.flt.pendMap = [] ∧ FLT_DMCMD.KEY.of (byMc 0x7E510001).value = 0x7E51 ∧ Chip.reset.grantFor 1 3 0 0 = false) ∧
    (let stuck (c : Chip) : Chip := c.modNvs fun n => { n with stuck := [cellOf 0x60068000] };
      g.grantFor 1 3 0 0 = true ∧ cellOf 0x60068000 ∉ g.nvs.stuck ∧ (stuck g).grantFor 1 3 0 0 = true ∧ cellOf 0x60068000 ∈ (stuck g).nvs.stuck ∧
        w.nvs.stuck = [] ∧ (stuck w).mapFree = some 0 ∧ cellOf (0x60068000 + 8 * 0) ∈ (stuck w).nvs.stuck) := by
  refine ⟨?_, ?_, ?_, ?_, ?_, ?_⟩ <;> decide +kernel

/-- The defect map `l` has no free entry. -/
theorem full_map (l : List (Nat × Long)) (h : ∀ k, k < 1024 → (k, 1) ∈ l) : (Chip.reset.modFlt fun f => { f with field := l }).mapFree = none := by
  have e : (Chip.reset.modFlt fun f => { f with field := l }).flt.field = l := rfl
  simp only [Chip.mapFree, e, List.find?_eq_none, List.mem_range]
  intro k hk
  simp only [Bool.not_eq_true', Bool.not_eq_false]
  exact List.any_eq_true.mpr ⟨(k, 1), h k hk, by simp⟩

theorem witness_full_map : (Chip.reset.modFlt fun f => { f with field := (List.range 1024).map fun k => (k, 1) }).mapFree = none :=
  full_map _ fun _ hk => List.mem_map_of_mem (List.mem_range.mpr hk)

/-- Task 0 is cyclic with a period of 1 ms, and the chip is in RUN without a scan. -/
def cyclicChip (ph : Nat) (l : List (Fld × Nat) := []) : Chip :=
  fields ([(SYS_MODE.MODE, 3), (SCN_TCFG.KIND 0, 1), (SCN_TPERIOD.PERIOD 0, 1000), (SCN_TSTAT.PHASE 0, ph)] ++ l)
    (Chip.reset.modSys fun y => { y with anchored := true })

theorem witness_scan :
    (Canonical ⟨cyclicChip 0, []⟩ ∧ (cyclicChip 0).mode = mRUN ∧ (cyclicChip 0).flushing = false ∧ (cyclicChip 0).kind 0 = kCYC ∧
      ((cyclicChip 0).task 0).holdOff.toNat ≤ 0 ∧ (cyclicChip 0).releaseAt 0 0 = some 0 ∧ (cyclicChip 0).releasing = true ∧
      (cyclicChip 0).leading = false) ∧
    (∀ n ∈ [1, 3, 4, 5], let c := { cyclicChip n with img := { (cyclicChip n).img with queue := [(0, n)] } };
      c.phase 0 = n ∧ c.imgTurn 0 n = true ∧ Canonical ⟨c, []⟩ ∧ (cyclicChip n).imgTurn 0 n = false) ∧
    (((cyclicChip 3).put (SCN_TSCAN.SCAN 0) 1).phase 0 = 3 ∧ ((cyclicChip 1).put (SCN_TSCAN.SCAN 0) 1).phase 0 = 1 ∧
      ((cyclicChip 2).put (SCN_TSCAN.SCAN 0) 1).phase 0 = 2 ∧ (cyclicChip 0).releaseAt 0 1 = none) ∧
    (let c := (cyclicChip 3).modTask 0 fun k => { k with paired := true };
      let j (bad : Bool) : Chip := c.modPh 0 fun q => { q with journal := [⟨0, .data, 0, 0, 0, bad⟩] };
      (c.task 0).paired = true ∧ (j true).phase 0 = 3 ∧ (j true).physOf ((j true).leOf 0) = some 0 ∧ ((j true).ph 0).journal = [⟨0, .data, 0, 0, 0, true⟩] ∧
        ((j false).ph 0).journal = [⟨0, .data, 0, 0, 0, false⟩]) ∧
    (let c := cyclicChip 5;
      (c.task 0).old = none ∧ c.phase 0 = 5 ∧ c.migrating 0 = false ∧ c.hsb.resync = none ∧ ((c.stageDue 0).housekeepWork 0).scanning = true ∧
      ((c.stageDue 0).housekeepWork 0).migrating 0 = false ∧ ((c.stageDue 0).housekeepWork 0).joinPoint 0 = false ∧
      (((c.stageDue 0).housekeepWork 0).housekeepEnd 0).mode ≠ mFOLLOW) ∧
    (((cyclicChip 5).modTask 0 fun k => { k with old := some .none }).task 0).old.isSome = true := by
  refine ⟨?_, ?_, ?_, ?_, ?_, ?_⟩ <;> decide +kernel

theorem witness_events :
    let ev : Chip := (fields [(SYS_MODE.MODE, 3), (SCN_TCFG.KIND 1, 2), (SCN_TPERIOD.PERIOD 1, 1)] Chip.reset).modTask 1 fun k => { k with hits := 1 }
    let late : Chip := ev.modTask 1 fun k => { k with lastRel := some 0 }
    let q : ErrReq := ⟨3, 0, 0, 0, 0, 0, 0, 0, 0⟩
    let er : Chip := (fields [(SYS_MODE.MODE, 3), (SCN_TCFG.KIND 2, 3), (SCN_TCFG.SUB 2, 3)] Chip.reset).modFlt fun f => { f with sysQ := [q] }
    let two : Chip := ((fields [(SCN_TCFG.KIND 0, 1), (SCN_TCFG.KIND 1, 1), (SCN_TCFG.PRIO 0, 5), (SCN_TCFG.PRIO 1, 4)] (running regs0).chip)).modTask 1
      fun k => { k with live := true }
    (ev.mode = mRUN ∧ ev.flushing = false ∧ ev.kind 1 = kEVT ∧ ev.flag SYS_MODE.TRANS = false ∧ (ev.task 1).hits ≠ 0 ∧ (ev.task 1).live = false ∧
      (ev.task 1).delayed = false ∧ (ev.task 1).fired = false ∧ ev.phase 1 = 0 ∧ ev.sys.startup = none ∧ ev.olc.hold = false ∧ ev.migrating 1 = false ∧
      ev.hsb.resync = none ∧ (ev.modTask 1 fun k => { k with hits := k.hits - 1 }).apart 1 = true ∧ (Chip.reset.task 1).hits = 0) ∧
    (((ev.modTask 1 fun k => { k with live := true }).task 1).live = true ∧ (ev.modSys fun y => { y with startup := some 1 }).sys.startup.isSome = true ∧
      ({ ev with olc := { ev.olc with hold := true } } : Chip).olc.hold = true) ∧
    (((ev.srcFires 0 0).task 1).hits = 2 ∧ ((ev.srcFires 1 0).task 1).hits = 1 ∧ ((ev.srcFires 0 0).task 3).hits = 0) ∧
    (late.apart 1 = false ∧ ((ev.modTask 1 fun k => { k with fired := true }).task 1).fired = true ∧ ev.releasing = true ∧
      (ev.put (SCN_TSTAT.PHASE 1) 6).phase 1 = 6) ∧
    (er.releasing = true ∧ er.kind 2 = kERR ∧ (er.task 2).live = false ∧ er.migrating 2 = false ∧ (er.errHead (er.get (SCN_TCFG.SUB 2))).isSome = true ∧
      ev.errHead 3 = none) ∧
    ((two.eng 0).run = some 0 ∧ firstBy two.before ((two.ready 0).filter fun u => two.outranks u 0) = some 1 ∧ (two.eng 0).halted = false ∧
      (two.eng 0).remap = none ∧ (Chip.reset.eng 0).run = none) ∧
    (firstBy (running regs0).chip.before (((running regs0).chip.ready 0).filter fun u => (running regs0).chip.outranks u 0) = none ∧ ev.leading = false) := by
  refine ⟨?_, ?_, ?_, ?_, ?_, ?_, ?_⟩ <;> decide +kernel

theorem witness_verdicts :
    let s := running regs0
    let c (n : Nat) : Chip := (s.chip.modEng 0 fun g => { g with mismatch := some 0 }).modTask 0 fun k => { k with mm := n }
    let passed (c : Chip) : Chip := ((c.setBit FLT_ROTLE.DONE 0).modEng 0 fun g => { g with mismatch := none, mmGone := none, segs := none }).turnEnd 2 (.le 0)
    let noted : Chip := (((passed (c 1)).setVerdict 0 0 1).incSat SHD_CNT.TRANSCNT).fault 0 0x01 0 0 (engineAgent 0).toNat .none (some 0)
    let r : Chip := { (Chip.reset.modEng 0 fun g => { g with remap := some 17 }) with turn := [⟨6, .spare 17, true, 0⟩] }
    let rr : Chip := { ((running regs0).chip.modEng 0 fun g => { g with remap := some 17 }).modTask 0 fun k => { k with reexec := true } with
      turn := [⟨6, .spare 17, true, 0⟩] }
    let mapped (c : Chip) : Chip := ((c.turnEnd 6 (.spare 17)).modEng 0 fun g => { g with remap := none }).remapTo 0 (some 17)
    let lk := fields [(SHD_LOCK.MODELK, 1)] Chip.reset
    let w : Chip := { ((fields [(SHD_TPDBASE.BASE 0, 0x20000000), (SHD_TPDLEN.LEN 0, 8)] Chip.reset).modTask 0 fun k =>
      { k with warmLeft := some 8 }).modSys fun y => { y with copying := some 0 } with turn := [⟨4, .shadow, true, 0⟩] }
    (((c 1).eng 0).mismatch = some 0 ∧ ((c 1).eng 0).mmGone = none ∧ (c 1).physOf 0 = some 0 ∧ ((c 1).task 0).mm ≤ 1 ∧ (passed (c 1)).admitted 0 = true ∧
      1 < ((c 2).task 0).mm ∧ (noted.task 0).live = true ∧ noted.scanning = true) ∧
    ((passed ((fields [(SCN_TPERIOD.PERIOD 0, 1)] (c 1)).modSys fun y => { y with anchored := true })).admitted 0 = false) ∧
    ((((c 1).setBit FLT_ROTLE.DONE 0).incSat SHD_CNT.RETCNT).freeSpare.isSome = true ∧
      (((fields [(SYS_SPARE.VALID0, 0), (SYS_SPARE.VALID1, 0)] (c 1)).setBit FLT_ROTLE.DONE 0).incSat SHD_CNT.RETCNT).freeSpare = none) ∧
    ((r.eng 0).remap = some 17 ∧ r.turnHas 6 (.spare 17) = true ∧
      ((r.turnEnd 6 (.spare 17)).modEng 0 fun g => { g with remap := none }).spares.contains 17 = true ∧ (Chip.reset.eng 0).remap = none ∧
      (let l := (List.finRange 32).filter fun v => (mapped rr).leOf v == 0 && ((mapped rr).task v).live && ((mapped rr).task v).reexec && (mapped rr).scanning;
        l = [0] ∧ ∀ v ∈ l, (mapped rr).admitted v = true)) ∧
    (ByMcHost State.reset (byMc 1) ∧ Chip.reset.flag SHD_LOCK.MODELK = false ∧ Chip.reset.mode ≠ mFOLLOW ∧
      (Chip.reset.put (SHD_TCFG.PAIROK 0) 1).flag (SHD_TCFG.PAIROK 0) = true ∧
      lk.flag SHD_LOCK.MODELK = true ∧ (byMc 1).value.getLsbD 0 = true ∧ Chip.reset.flag (SHD_TCFG.PAIROK 0) = false) ∧
    (Canonical ⟨w, []⟩ ∧ w.pairs 0 ≠ [] ∧ w.warming = some 0 ∧ (w.task 0).warmLeft.getD 0 ≤ 4096 ∧ w.turnHas 4 .shadow = true ∧ Chip.reset.warming = none) ∧
    ((Chip.reset.physOf 0).isSome = true ∧ (fields [(SYS_LEMAP.VALID 3, 0)] Chip.reset).physOf 3 = none ∧ (64000 : Time).toNat % 64000 = 0 ∧
      (Chip.reset.eng 0).paceEnd ≠ 64000 ∧ ((Chip.reset.modEng 0 fun g => { g with paceEnd := 64000 }).eng 0).paceEnd = 64000) ∧
    (let f : FaultIn := ⟨2, 0, 0, 0x20, 0x10, some 0, false⟩;
      Canonical s ∧ Powered s ∧ f.task = some 0 ∧ f.cls = 2 ∧ s.chip.mode = mRUN ∧ s.chip.flushing = false ∧ s.chip.kind 0 = kCYC ∧
        s.chip.leading = false ∧ (s.chip.task 0).live = true) := by
  refine ⟨?_, ?_, ?_, ?_, ?_, ?_, ?_, ?_⟩ <;> decide +kernel

/-! ### Witnesses: CAN and the parameter store -/

/-- Controller 0 in NORMAL and on the bus. -/
def canChip (l : List (Fld × Nat) := []) (f : Can → Can := id) : Chip :=
  (fields ([(SYS_MODE.MODE, 2), (CAN_CTL.OPMODE 0, 1)] ++ l) Chip.reset).modCan 0 fun q => f { q with joined := true }

theorem witness_can_objects :
    let w := byMc 0x6CA90000
    let c (t : Nat) : Chip := canChip.objTxst 0 0 t
    let ff : Chip := canChip [(CAN_FIFOCFG.FEN 0 0, 1), (CAN_FIFOCFG.FLENM1 0 0, 1), (CAN_FIFOSTAT.COUNT 0 0, 1)]
    (ByMcHost State.reset w ∧ (CAN_CMD.KEY 0).of w.value = 0x6CA9 ∧ (CAN_OBJCMD.KEY 0).of w.value = 0x6CA9 ∧ (CAN_CMD.KEY 0).of 0 ≠ 0x6CA9) ∧
    ((canChip [(CAN_ERR.ESTATE 0, 2)]).get (CAN_ERR.ESTATE 0) = 2 ∧ canChip.get (CAN_ERR.ESTATE 0) ≠ 2) ∧
    (canChip.fifoOf 0 0 = none ∧ canChip.objFlag 0 0 4 = false ∧ canChip.objFlag 0 0 3 = false ∧ canChip.objCfg 0 0 31 20 = 0 ∧ (c 1).txst 0 0 = 1 ∧
      canChip.txst 0 0 ≠ 1) ∧
    (((canChip [] fun q => { q with attempt := some 0 }).can 0).attempt = some 0 ∧ (canChip.can 0).attempt ≠ some 0) ∧
    (ff.fifoOf 0 0 = some 0 ∧ 0 = ff.get (CAN_FIFOCFG.FBASE 0 0) + ff.get (CAN_FIFOSTAT.GET 0 0) ∧ ff.get (CAN_FIFOSTAT.COUNT 0 0) ≠ 0) ∧
    (let t : Chip := (canChip.setBit (CAN_ENA.ENA 0 0) 0).st (canObj 0 0 0) 4 1;
      t.objEna 0 0 = true ∧ t.objFlag 0 0 0 = true) ∧
    (canChip.flag (CAN_FIFOCFG.FEN 0 0) = false ∧ ff.flag (CAN_FIFOCFG.FEN 0 0) = true ∧
      let v := (CAN_FIFOCFG.FEN 0 0).ins ((CAN_FIFOCFG.FLENM1 0 0).ins 0 1) 1;
      v.getLsbD 16 = true ∧ (CAN_FIFOCFG.FLENM1 0 0).of v ≠ 0 ∧ ∀ j ∈ fifoRange v, j ≤ 255 ∧ canChip.objEna 0 j = false ∧ canChip.fifoOf 0 j = none) := by
  refine ⟨?_, ?_, ?_, ?_, ?_, ?_, ?_⟩ <;> decide +kernel

theorem witness_can_bus :
    let op (m w : Nat) : Chip := { canChip [(CAN_CTL.OPMODE 0, m)] with staged := [(CAN_CTL.reg 0, BitVec.ofNat 32 w)] }
    let f : CanFrame := ⟨false, 0, false, false, false, false, 0, [], 0⟩
    let pd : Chip := (canChip.objTxst 0 0 1).setBit (CAN_TXPEND.PEND 0 0) 0
    let td : Chip := (canChip [(CAN_CTL.TDCEN 0, 1)]).st (canObj 0 0 0) 4 0xC
    let rx : Chip := ((canChip.st (canObj 0 0 0) 4 0)).setBit (CAN_ENA.ENA 0 0) 0
    (canChip.mode ≠ mLOAD ∧ (canChip.can 0).attempt = none ∧ (op 0 1).staged.find? (·.1 == CAN_CTL.reg 0) = some (CAN_CTL.reg 0, 1) ∧
      (op 0 1).get (CAN_CTL.OPMODE 0) = 0 ∧ (op 1 2).get (CAN_CTL.OPMODE 0) ≠ 0) ∧
    (((op 0 1).can 0).boot = false ∧ ((op 0 1).staged.find? (·.1 == CAN_CTL.reg 0)).map (·.2.toNat % 8) = some 1 ∧
      ((op 1 0).staged.find? (·.1 == CAN_CTL.reg 0)).map (·.2.toNat % 8) = some 0 ∧ (((canChip [] fun q => { q with boot := true }).can 0).boot = true)) ∧
    ((canChip [] fun q => { q with attempt := some 0 }).can 0).attempt = some 0 ∧
    (canChip.canPending 0 = [] ∧ pd.canNext 0 = some 0 ∧ td.flag (CAN_CTL.TDCEN 0) = true ∧ td.objFlag 0 0 2 = true ∧ td.objFlag 0 0 3 = true) ∧
    (let fd : CanFrame := { f with fdf := true };
      canChip.flag (CAN_CTL.FDEN 0) = true ∧ fd.fdf = true ∧ (canChip [(CAN_CTL.FDEN 0, 0), (CAN_CTL.PXE 0, 1)]).flag (CAN_CTL.FDEN 0) = false ∧
        (canChip [(CAN_CTL.FDEN 0, 0), (CAN_CTL.PXE 0, 1)]).flag (CAN_CTL.PXE 0) = true) ∧
    (rx.canCandidates 0 f |>.find? (rx.canTakes 0)) = some (0, none) ∧ rx.objNew 0 0 = false ∧
    ((op 0 1).canCfgErr 0 = 0 ∧ ((op 0 1).wr (CAN_NBT.reg 0) 0).canCfgErr 0 ≠ 0) ∧
    (canChip.canOnBus 0 = true ∧ (op 0 1).canOnBus 0 = false ∧ canChip.get (CAN_ERR.TEC 0) + 8 ≤ 127 ∧
      127 < (canChip [(CAN_ERR.TEC 0, 120)]).get (CAN_ERR.TEC 0) + 8 ∧ 255 < (canChip [(CAN_ERR.TEC 0, 248), (CAN_ERR.ESTATE 0, 1)]).get (CAN_ERR.TEC 0) + 8 ∧
      (canChip [(CAN_ERR.ESTATE 0, 1)]).get (CAN_ERR.ESTATE 0) = 1) ∧
    (let d : Chip := canChip [(SYS_MODE.MODE, 3), (CAN_ERR.ESTATE 0, 2)] fun q => { q with counted := true };
      d.get (CAN_ERR.ESTATE 0) = 2 ∧ d.canAuto 0 = false ∧ (d.can 0).permit = false) ∧
    (canChip.get (CAN_CTL.OPMODE 0) ≠ 4 ∧ f.fdf = false ∧ canChip.canCandidates 0 f = [] ∧ canChip.get (CAN_CTL.OPMODE 0) = 1) := by
  refine ⟨?_, ?_, ?_, ?_, ?_, ?_, ?_, ?_, ?_, ?_, ?_⟩ <;> decide +kernel

/-- A record of 8 bytes in slot 8. -/
def nvsChip (f : Nvs → Nvs := id) : Chip := Chip.reset.modNvs fun n => f { n with recTab := [(8, 0x200, 8)] }

theorem witness_records :
    let w := byMc (NVS_CMD.KEY.ins (NVS_CMD.REC.ins 0 8) 0x4E5F)
    let c := fields [(NVS_RADDR.ADDR, 0x3C000000)] nvsChip
    let j (n : Nat) : Chip := { nvsChip fun m => { m with job := some ⟨n, 8, 0x3C000000, 1⟩ } with turn := [⟨0, .store, true, 0⟩] }
    let two (a b : Nat) : Chip :=
      ((c.cellsPut 0 (copyCells 0 8 0x200 a (List.replicate 8 0))).2.cellsPut 0 (copyCells 1 8 0x200 b (List.replicate 8 0))).2
    let slot : Nat × Option Nat := (0x200, some 8)
    (c.nvsWriter w.agent = true ∧ NVS_CMD.KEY.of w.value = 0x4E5F ∧ c.flag NVS_CMDSTAT.BUSY = false ∧ NVS_CMD.REC.of w.value = 8 ∧
      c.recSlot 8 = some slot ∧ dataAddrOk (c.get NVS_RADDR.ADDR) 8 = true ∧ dataAddrOk 0 8 = false ∧ c.pwOpen 1 0 true = true) ∧
    ((Chip.reset.recSlot 8).isNone = true ∧ (c.put NVS_CMDSTAT.BUSY 1).flag NVS_CMDSTAT.BUSY = true ∧ (c.st (pwAddr 0 true) 8 1).pwOpen 1 0 true = false) ∧
    ((j 1).nvs.job = some ⟨1, 8, 0x3C000000, 1⟩ ∧ (j 1).recSlot 8 = some slot ∧ (j 1).turnHas 0 .store = true ∧
      ((j 2).chosen 8 slot).1 = none ∧ Chip.reset.nvs.job = none) ∧
    (let t (n : Nat) : Chip := (two 1 2).modNvs fun m => { m with job := some ⟨n, 8, 0x3C000000, 1⟩, stuck := [cellOf (copyAt 0 0x200)] };
      ((two 1 2).nextCopy 8 slot) = (0, 3) ∧ (∃ e ∈ copyCells 0 8 0x200 3 ((t 1).ldBytes 0x3C000000 8), cellOf e.1 ∈ (t 1).nvs.stuck) ∧
        ¬ (∃ e ∈ copyCells 0 8 0x200 3 ((two 1 2).ldBytes 0x3C000000 8), cellOf e.1 ∈ (two 1 2).nvs.stuck) ∧
        cellOf (copyAt 0 0x200 + 8) ∈ ((t 3).cells ⟨[], [cellOf (copyAt 0 0x200 + 8)]⟩).nvs.stuck ∧ (two 1 2).copyBad 0 slot = false ∧
        (two 1 2).copyBad 1 slot = false ∧ ((two 1 2).chosen 8 slot).2 = false ∧ ((two 1 1).chosen 8 slot).2 = true) ∧
    ((two 1 2).chosen 8 slot = (some 1, false) ∧ (two 2 1).chosen 8 slot = (some 0, false) ∧
      (two 1 1).copyOk 0 8 slot = true ∧ (two 1 1).copyOk 1 8 slot = true) := by
  refine ⟨?_, ?_, ?_, ?_, ?_⟩ <;> decide +kernel

theorem witness_counters :
    let w := byMc (NVS_CNTINC.KEY.ins 0 0x4E5F)
    let c := Chip.reset
    let full := c.st (0x60028000 + 8 * ((2 ^ 48 - 1) % 64)) 6 (2 ^ 48 - 1)
    let top := full.st (0x60028000 + 8 * ((2 ^ 48 - 1) % 64) + 6) 2 (crc32c (full.ldBytes (0x60028000 + 8 * ((2 ^ 48 - 1) % 64)) 6)).toNat
    let stuck : Chip := c.modNvs fun n => { n with stuck := [cellOf 0x60028008, cellOf (pwAddr 0 false)] }
    let pw := c.st (pwAddr 0 false) 8 5
    let g : Chip := fields [(GRD_PROP.STATE, 2), (GRD_PROP.KIND, 5)]
      ((Chip.reset.modGrd fun g => { g with agreer := 1 }).modNvs fun n => { n with unlocked := [(1, 0, false)] })
    let arm : Chip := { Chip.reset.modNvs fun n => { n with erasing := [(0x38000, 2), (0x57000, 1), (0x58000, 1)] } with turn := [⟨0, .store, true, 0⟩] }
    (c.nvsWriter w.agent = true ∧ NVS_CNTINC.KEY.of w.value = 0x4E5F ∧ 0 ∉ c.nvs.worn ∧ c.pwOpen 1 1 true = true ∧ c.cntVal 0 < 2 ^ 48 - 1) ∧
    (top.cntVal 0 = 2 ^ 48 - 1) ∧
    (0 ∈ (c.modNvs fun n => { n with worn := [0] }).nvs.worn ∧ (c.st (pwAddr 1 true) 8 1).pwOpen 1 1 true = false ∧ (guardGroup 1).isSome = true) ∧
    (pw.bitOf NVS_PWSTAT.LOCKD 0 = false ∧ pw.pwEntry ≠ pw.ld (pwAddr 0 false) 8 ∧ c.pwEntry = c.ld (pwAddr 0 false) 8 ∧
      3 ≤ (pw.modNvs fun n => { n with fails := n.fails.set 0 2 }).nvs.fails.toList.getD 0 0 + 1 ∧ pw.nvs.fails.toList.getD 0 0 + 1 < 3) ∧
    ((1, 0, false) ∈ g.nvs.unlocked ∧ g.grantFor 1 5 0 0 = true ∧ c.grantFor 1 5 0 0 = false) ∧
    (arm.cellWriter = false ∧ arm.turnHas 0 .store = true ∧ c.turnHas 0 .store = false ∧ c.nvs.erasing = [] ∧
      (∀ o ∈ [0x38000, 0x57000, 0x58000, 0x67000],
        let d : Chip := arm.modNvs fun n => { n with erasing := [(o, 1)] };
        Canonical ⟨d, []⟩ ∧ d.nvs.erasing = (o, 1) :: [] ∧ d.turnHas 0 .store = true)) ∧
    (c.cellsBad (cntCell 0 0) 0x200 = false ∧ c.cellsBad (pwAddr 0 false) 8 = false ∧ cellOf (0x60028000 + 8 * ((c.cntVal 0 + 1) % 64)) ∈ stuck.nvs.stuck ∧
      cellOf 0x60028008 ∉ c.nvs.stuck ∧ stuck.cntVal 0 < 2 ^ 48 - 1 ∧ cellOf (pwAddr 0 false) ∈ stuck.nvs.stuck) ∧
    ((fields [(SYS_MODE.MODE, 2)] c).mayRead 1 NVS_CNTL.reg = true ∧ c.mayRead 0x41 NVS_CNTL.reg = false ∧ isHost 0x41 = false) := by
  refine ⟨?_, ?_, ?_, ?_, ?_, ?_, ?_, ?_⟩ <;> decide +kernel

/-! ### Witnesses: online change and update -/

/-- Symbol 5: marker 0x30000, owned by task 0. -/
def sym5 : Symbol := ⟨5, 4, 0, 0x30000, 0⟩
/-- A force entry for it. -/
def force5 : Force := ⟨sym5, some 0, none, none⟩
/-- The controller has copied in an all-task package without changes, 64 bytes long: every portion of its LOAD is done. -/
def pkgChip : Chip :=
  let hdr := leBytes 8 0 ++ leBytes 8 7 ++ [1, 0, 0, 0, 0, 0, 0, 0] ++ List.replicate 24 0
  let b := leBytes 4 0x4B47504F ++ leBytes 4 1 ++ leBytes 4 64 ++ bytesOfWords [crc32c hdr] ++ hdr
  (fields [(SYS_MODE.MODE, 3), (OLC_LDSRC.SRC, 0x3C000000), (OLC_LDLEN.LEN, 64), (OLC_MIGMAX.MIGMAX, 10), (OLC_STATE.STATE, 1)]
    { Chip.reset with turn := [⟨4, .olc, true, 0⟩] }).modOlc fun o => { o with portions := 769, buf := b }

theorem witness_change_packages :
    let w := byHost 0x5A3C0000
    let p : PkgSections := ⟨[], [], [], [], [], [], 0, 0⟩
    let st (n : Nat) (l : List (Fld × Nat)) : Chip := (fields ((OLC_STATE.STATE, n) :: l) runChip).modOlc fun o => { o with pkg := some p }
    let rest : Chip := (fields [(SYS_MODE.MODE, 4)] (st 2 []))
    let own : Chip := (rest.refuse 0x40 true OLC_CMD.reg).denied 0x40 0
    let partner : HbRecord := ⟨true, false, true, false, false, false, 4, 0, 0, 0, true⟩
    let lead : Chip := (st 2 [(SCN_TSTAT.PHASE 0, 0), (HSB_STATE.LOCKED, 1)]).modHsb fun h => { h with partner := some partner }
    let pair (c : Chip) : Chip := { c with image := some { image0 with paired := true } }
    (ByMcHost ⟨runChip, []⟩ w ∧ OLC_CMD.KEY.of w.value = 0x5A3C ∧ OLC_CMD.KEY.of (byHost 0).value ≠ 0x5A3C) ∧
    (pkgChip.get OLC_STATE.STATE = 1 ∧ pkgChip.loadPortions p ≤ pkgChip.olc.portions ∧ (pkgChip.turnEnd 4 .olc).ldErr p = 0 ∧
      (pkgChip.put OLC_LDLEN.LEN 72).loadPortions p ≤ pkgChip.olc.portions ∧ ((pkgChip.put OLC_LDLEN.LEN 72).turnEnd 4 .olc).ldErr p = 1 ∧
      Chip.reset.olc.portions < 768 ∧ 768 ≤ pkgChip.olc.portions ∧ (pkgChip.modOlc fun o => { o with portions := 768 }).olc.portions < pkgChip.loadPortions p) ∧
    (own.mode = mFOLLOW ∧ lead.mode = mRUN ∧ lead.get OLC_STATE.STATE = 2 ∧ lead.pivotOf = some 0 ∧ lead.kind 0 = kCYC ∧ lead.get OLC_ACTSCAN.SCAN = 0 ∧
      lead.partnerStaged = true ∧ lead.leading = true ∧ ¬ (2 ≤ lead.phase 0 ∧ lead.boundaryNum 0 = lead.scanNum 0) ∧
      (lead.put OLC_STATE.STATE 3).pivotOf = some 0 ∧ (lead.put OLC_STATE.STATE 3).kind 0 = kCYC) ∧
    (let c := st 2 [(OLC_ACT.ARMSCOPE, 1), (SCN_TCFG.KIND 0, 2)];
      c.mode = mRUN ∧ c.pivotOf = none ∧ c.pairMember = false ∧ c.leading = false ∧ (c.put OLC_STATE.STATE 3).pivotOf = none) ∧
    (Powered ⟨pkgChip, []⟩ ∧ Canonical ⟨pkgChip, []⟩) ∧
    ((st 2 []).mode = mRUN ∧ (st 2 []).get OLC_STATE.STATE = 2 ∧ (st 3 []).get OLC_STATE.STATE = 3 ∧ (st 4 []).get OLC_STATE.STATE = 4) ∧
    ((fields [(SYS_MODE.MODE, 2)] (st 2 [])).mode = mSTOP ∧ (fields [(SYS_MODE.MODE, 4)] (st 2 [])).mode = mFOLLOW ∧
      (fields [(SYS_MODE.MODE, 5)] (st 2 [])).mode = mSAFE) ∧
    (let c := st 2 [(OLC_ACTSCAN.SCAN, 1)];
      c.pivotOf = some 0 ∧ c.kind 0 = kCYC ∧ c.get OLC_ACTSCAN.SCAN ≠ 0 ∧ c.pairMember = false ∧ c.leading = false ∧
      (c.put OLC_STATE.STATE 3).pivotOf = some 0 ∧ ((c.put OLC_STATE.STATE 3).modOlc fun o => { o with pivot := 0 }).kind 0 = kCYC) ∧
    ((st 2 []).get OLC_ACTSCAN.SCAN = 0 ∧
      (let c := fields [(OLC_ACTSCAN.SCAN, 1), (SCN_TSCAN.SCAN 0, 4), (SCN_TSTAT.PHASE 0, 0)] (st 2 []);
        c.get OLC_ACTSCAN.SCAN < (c.boundaryNum 0).toNat)) ∧
    ((pair (st 2 [])).pairMember = true ∧ (pair (st 2 [])).partnerStaged = false) ∧
    (let c := ((st 3 []).modOlc fun o => { o with hold := true }).put (SCN_TSTAT.PHASE 0) 0;
      c.olc.hold = true ∧ c.get OLC_STATE.STATE = 3 ∧ c.noActivation = true ∧ (running regs0).chip.noActivation = false) ∧
    (Canonical ⟨st 4 [], []⟩ ∧ (st 4 []).olc.pkg = some p ∧ p.regs = [] ∧ p.map = [] ∧ p.code = [] ∧ (st 4 []).olc.forces = [] ∧
      (st 4 []).hsb.resync = none ∧ (st 4 []).olc.chgMask = 0) := by
  refine ⟨?_, ?_, ?_, ?_, ?_, ?_, ?_, ?_, ?_, ?_, ?_, ?_⟩ <;> decide +kernel

theorem witness_force_table :
    let w := byHost 0x5A3C0000
    let c : Chip := (runChip.put OLC_FID.ID 5).modOlc fun o => { o with syms := [sym5] }
    let h : Chip := c.modOlc fun o => { o with forces := [force5] }
    let own : Chip := c.modOlc fun o => { o with syms := [{ sym5 with loc := 0x3000, space := 2 }] }
    (ByMcHost ⟨runChip, []⟩ w ∧ OLC_FCMD.KEY.of w.value = 0x5A3C ∧ c.mode ≠ mFOLLOW ∧ c.leading = false ∧ (fields [(SYS_MODE.MODE, 4)] c).mode = mFOLLOW) ∧
    (c.rd OLC_FID.reg = 5 ∧ c.olc.syms.find? (·.id == 5) = some sym5 ∧ symForbidden sym5 = false ∧ symForbidden { sym5 with loc := 0x20000 } = true ∧
      runChip.olc.syms.find? (·.id == runChip.rd OLC_FID.reg) = none) ∧
    (c.olc.forces.any (·.sym.id == 5) = false ∧ h.olc.forces.any (·.sym.id == 5) = true ∧
      256 ≤ (c.modOlc fun o => { o with forces := List.replicate 256 { force5 with sym := { sym5 with id := 6 } } }).olc.forces.length) ∧
    (c.scanning = true ∧ (c.forceOwner sym5).isSome = true ∧ (own.forceOwner { sym5 with loc := 0x3000, space := 2 }) = none ∧
      (fields [(SYS_MODE.MODE, 2)] h).scanning = false) ∧
    (h.olc.forces.all (·.owner.isSome) = true ∧ c.olc.forces = []) := by
  refine ⟨?_, ?_, ?_, ?_, ?_⟩ <;> decide +kernel

/-- A firmware image of one block. -/
def firmImg : List Byte := leBytes 4 0x4D46564F ++ List.replicate 4092 0
/-- The first bytes of an unsigned update package with it: magic, kind 1, no key, LENGTH and CRC. -/
def firmHdr : List Byte := [0x55, 0x56, 0x50, 0x4B, 1, 0xFF, 0, 0, 0, 0x10, 0, 0, 193, 155, 78, 60]
/-- The package, with the digest `d`. -/
def firmPkg (d : List Byte) : List Byte := firmHdr ++ (d ++ (List.replicate 80 0 ++ firmImg))

theorem sha256_length (l : List Byte) : (sha256 l).length = 32 := by simp [sha256]

set_option maxRecDepth 100000 in
theorem firmImg_length : firmImg.length = 4096 := by decide +kernel

set_option maxRecDepth 100000 in
theorem firmImg_crc : crc32c firmImg = 0x3C4E9BC1 := by decide +kernel

theorem firmPkg_num (d : List Byte) : pkgNum (firmPkg d) 0 4 = 0x4B505655 ∧ pkgNum (firmPkg d) 4 1 = 1 ∧ pkgNum (firmPkg d) 5 1 = 0xFF ∧
    pkgNum (firmPkg d) 8 4 = 4096 ∧ pkgNum (firmPkg d) 0x0C 4 = 0x3C4E9BC1 := by
  simp [pkgNum, firmPkg, firmHdr, List.range_succ]

theorem firmPkg_parts (d : List Byte) (h : d.length = 32) : ((firmPkg d).drop 16).take 32 = d ∧ ((firmPkg d).drop 0x30).take 16 = List.replicate 16 0 ∧
    ((firmPkg d).drop 128).take 4096 = firmImg ∧ ((firmPkg d).drop 6).take 2 = [0, 0] := by
  have e (n : Nat) : (firmPkg d).drop (16 + (32 + n)) = (List.replicate 80 0 ++ firmImg).drop n := by
    rw [← List.drop_drop, ← List.drop_drop]
    congr 1
    show (d ++ _).drop 32 = _
    rw [← h, List.drop_left]
  refine ⟨?_, ?_, ?_, ?_⟩
  · show (d ++ _).take 32 = _
    rw [← h, List.take_left]
  · rw [e 0]; rfl
  · rw [e 80, List.drop_left' (by simp), List.take_of_length_le (Nat.le_of_eq firmImg_length)]
  · rfl

/-- A chip that takes its update packages from the eMMC. -/
def emmcChip : Chip := { Chip.reset.put UPD_SRCCFG.EMMC 1 with image := some image0 }

set_option maxRecDepth 100000 in
theorem firmPkg_accepted : (emmcChip.noteCells 0x6006A080 256).pkgErr 1 false (firmPkg (sha256 firmImg)) = 0 := by
  obtain ⟨n0, n1, n2, n3, n4⟩ := firmPkg_num (sha256 firmImg)
  obtain ⟨p0, p1, p2, p3⟩ := firmPkg_parts _ (sha256_length firmImg)
  have k : ((emmcChip.noteCells 0x6006A080 256).sigOk (firmPkg (sha256 firmImg))).1 = true := by
    simp only [Chip.sigOk, n2]
    rw [if_neg (by decide +kernel)]
    rfl
  simp only [Chip.pkgErr, n0, n1, n3, n4, p0, p1, p2, p3, k, firmImg_crc, bne_self_eq_false]
  decide +kernel

/-- A chip in LOAD without configuration. -/
def waitChip : Chip := Chip.reset.put SYS_BOOTSTAT.CFGERR 1

set_option maxRecDepth 100000 in
theorem firmPkg_at_load : (waitChip.noteCells 0x6006A080 256).pkgErr 1 true (firmPkg (sha256 firmImg)) = 0 := by
  obtain ⟨n0, n1, n2, n3, n4⟩ := firmPkg_num (sha256 firmImg)
  obtain ⟨p0, p1, p2, p3⟩ := firmPkg_parts _ (sha256_length firmImg)
  have k : ((waitChip.noteCells 0x6006A080 256).sigOk (firmPkg (sha256 firmImg))).1 = true := by
    simp only [Chip.sigOk, n2]
    rw [if_neg (by decide +kernel)]
    rfl
  simp only [Chip.pkgErr, n0, n1, n3, n4, p0, p1, p2, p3, k, firmImg_crc, bne_self_eq_false]
  decide +kernel

/-- An image of the bank at `a` that gives its length as 64 bytes. -/
def shortBank (a : Nat) (c : Chip) : Chip := c.stBytes (a + 0x0C) [64, 0, 0, 0]

set_option maxRecDepth 100000 in
theorem witness_update_packages :
    let w := byHost (UPD_CMD.KIND.ins 0x1B8D0000 1)
    let c : Chip := emmcChip
    let small : Chip := { runChip with image := some { image0 with sec := { noSections with layout := [⟨2, 0x300000, 0x302000, 16⟩] } } }
    let place : Nat × Nat := (0x70300000, 16)
    let im : List Byte := List.replicate 4096 0
    let job (z : Nat) : Chip := { small.modUpd fun x => { x with job := some ⟨2, none, 0, im, z⟩ } with turn := [⟨0, .xspi, true, 0⟩] }
    let d := job 1
    (ByMcHost ⟨runChip, []⟩ w ∧ UPD_CMD.KEY.of w.value = 0x1B8D ∧ UPD_CMD.KIND.of w.value = 1 ∧ UPD_CMD.KEY.of (byHost 0).value ≠ 0x1B8D) ∧
    (Chip.reset.flag UPD_SRCCFG.EMMC = false ∧ Chip.reset.pkgRead.1 = none ∧ (runChip.put UPD_SRC.SRC 0x3C000000).pkgRead.1.isSome = true) ∧
    (c.flag UPD_SRCCFG.EMMC = true ∧ c.upd.job = none ∧ (c.modUpd fun x => { x with job := some ⟨1, none, 0, [], 0⟩ }).upd.job.isSome = true ∧
      c.emmcHas 0 1 = true ∧ c.emmcHas 4096 1 = false) ∧
    ((c.noteCells 0x6006A080 256).pkgErr 1 false [] ≠ 0 ∧ (c.noteCells 0x6006A080 256).loadWaits = false ∧
      (waitChip.noteCells 0x6006A080 256).loadWaits = true ∧ (waitChip.noteCells 0x6006A080 256).updTarget 1 = some 0) ∧
    (bankAt small.layout 2 0 = place ∧ eraseBursts place.2 = 1 ∧ small.admits 0x5E true place.1 16 = true ∧ Canonical ⟨small, []⟩ ∧
      4096 < (im ++ [7]).length ∧ small.admits 0x5E true (place.1 + 4096) (((im ++ [7]).drop 4096).take 4096).length = true) ∧
    (d.upd.job = some ⟨2, none, 0, im, 1⟩ ∧ d.flushing = false ∧ d.mode ≠ mINTER ∧ d.turnHas 0 .xspi = true ∧ im.length - 4096 = 4096 * (1 - 1) ∧
      d.admits 0x5E false place.1 im.length = true ∧ d.admits 0x5E true place.1 4096 = true ∧ runChip.upd.job = none) := by
  refine ⟨?_, ?_, ?_, ?_, ?_, ?_⟩ <;> decide +kernel

theorem witness_update_arming :
    let a (n : Nat) (l : List (Fld × Nat)) : Chip :=
      (fields ([(UPD_STATE.STATE, 2), (UPD_WHENL.WHEN, 20000000)] ++ l) runChip).modUpd fun x => { x with armed := some (n, 7) }
    let stg : Chip := (fields [(UPD_WHENL.WHEN, 20000000)] Chip.reset).putEntry 1 (entry 2 0 0 0)
    let g : Chip := a 1 [(UPD_CANCFG.EN, 1), (UPD_CANCFG.ACKN, 1), (UPD_AGREE.AGREE, 9), (CAN_ENA.ENA 0 0, 1)]
    let tables (n : Nat) (q : Option MimAsk) : Chip := (((a 4 []).modUpd fun x => { x with assets := n }).modMim fun x =>
      { x with asked := q, portion := 23 })
    let held : Chip := { tables 1 (some .tables) with turn := [⟨3, .mimic, true, 0⟩] }
    let partner : Chip := { Chip.reset.put HSB_STATE.ROLE 2 with image := some { image0 with paired := true } }
    let from' (k : Nat) : Nat := (bankAt runChip.layout k 1).1
    let at' (k : Nat) : Chip := shortBank (from' k) (a k [])
    (stg.mode ≠ mFOLLOW ∧ stg.pairMember = false ∧ stg.updWhen = some 20000000 ∧ stg.upd.armed = none ∧
      (entStg (stg.updEntry 1)).testBit (1 - stg.inUse 1) = true ∧ stg.otherPend 1 = false ∧ stg.t + 10000000 ≤ (20000000 : Time).toNat ∧
      stg.flag UPD_CANCFG.EN = false ∧ stg.leading = false ∧ (stg.put UPD_CANCFG.EN 1).flag UPD_CANCFG.EN = true ∧
      (stg.put UPD_CANCFG.EN 1).updWhen = some 20000000) ∧
    (partner.pairMember = true ∧ partner.get HSB_STATE.ROLE ≠ 1 ∧ partner.mode ≠ mFOLLOW ∧ (stg.put UPD_WHENCFG.SEL 1).updWhen = none ∧
      ¬ (stg.t + 10000000 ≤ (7 : Time).toNat) ∧ (stg.put UPD_WHENL.WHEN 7).updWhen = some 7) ∧
    ((a 1 []).upd.armed = some (1, 7) ∧ (tables 1 none).upd.armed = some (4, 7) ∧ (tables 1 none).upd.assets ≤ 2 ∧
      (tables 1 none).mim.asked ≠ some .tables ∧ (tables 1 (some .tables)).mim.asked = some .tables ∧ 2 < (tables 3 none).upd.assets ∧
      stg.upd.armed = none) ∧
    (((at' 1).upd.armed = some (1, 7) ∧ (at' 1).upd.ready = false ∧ (at' 1).flushing = false ∧ (at' 1).mode ≠ mINTER ∧
      (at' 1).imgLen (from' 1) = 64 ∧ (at' 1).admits 0x5E false (from' 1) 64 = true ∧
      (at' 1).admits 0x5E true 0x3C050000 64 = true) ∧
      (at' 2).admits 0x5E false (from' 2) ((at' 2).imgLen (from' 2)) = true ∧ (at' 3).admits 0x5E false (from' 3) ((at' 3).imgLen (from' 3)) = true) ∧
    (let h := shortBank (from' 4) held;
      h.upd.armed = some (4, 7) ∧ h.upd.ready = false ∧ h.upd.assets = 1 ∧ h.mim.asked = some .tables ∧ h.turnHas 3 .mimic = true ∧
      23 ≤ h.mim.portion ∧ h.admits 0x5E false (from' 4) (h.imgLen (from' 4)) = true) ∧
    (g.flag UPD_CANCFG.EN = true ∧ g.updHears 5 = true ∧ g.upd.armed = some ((1 : Byte).toNat, 7) ∧ (9 : BitVec 16).toNat = g.get UPD_AGREE.AGREE ∧
      (5 : BitVec 29) ∉ g.upd.agreers ∧ g.get UPD_AGREE.ACKS < 16 ∧ (g.incSat UPD_AGREE.ACKS).get UPD_AGREE.ACKS = g.get UPD_CANCFG.ACKN ∧
      ((g.put UPD_CANCFG.ACKN 2).incSat UPD_AGREE.ACKS).get UPD_AGREE.ACKS ≠ 2 ∧ 16 ≤ (g.put UPD_AGREE.ACKS 16).get UPD_AGREE.ACKS ∧
      (a 1 []).updHears 5 = false) := by
  refine ⟨?_, ?_, ?_, ?_, ?_, ?_⟩ <;> decide +kernel

/-- A chip in the confirm window of bank 1 of the kind `k`. -/
def windowChip (k : Nat) : Chip := (Chip.reset.modUpd fun x => { x with window := some 0 }).putEntry k (entry 0 2 0 0)

theorem witness_update_activation :
    let w : Cmd := ⟨0x02, 0x1B8D0000, false, 0, 8⟩
    let c (k : Nat) (live : Bool) (l : List (Fld × Nat)) : Chip :=
      (fields ([(UPD_STATE.STATE, 3), (SYS_MODE.MODE, 2)] ++ l) Chip.reset).modUpd fun x => { x with armed := some (k, 0), live, ready := true }
    let ring (c : Chip) : Chip := c.put (STN_LAT.STATE 0) 4
    let going : Chip := (c 2 true []).modUpd fun x => { x with armed := none, phase := 4 }
    let wait : Chip := (Chip.reset.put UPD_STATE.STATE 4).modUpd fun x => { x with waitOk := some 0, phase := 4 }
    let k : Cmd := byMc (UPD_CONFIRM.KEY.ins 0 0xC4F3)
    ((c 1 true []).upd.armed = some (1, 0) ∧ (c 1 true []).upd.ready = true ∧ (c 1 true []).upd.phase = 0 ∧ (0 : Time).toNat ≤ (c 1 true []).t ∧
      (c 1 true []).mode ≠ mINTER ∧ (c 1 true []).flag UPD_CANCFG.EN = false ∧ (c 1 true []).upd.live = true ∧ (c 0 false []).upd.live = false) ∧
    (let d := c 1 true [(UPD_CANCFG.EN, 1)];
      ¬ (d.flag UPD_CANCFG.EN = false ∨ d.upd.agreed = true) ∧ (d.modUpd fun x => { x with agreed := true }).upd.agreed = true) ∧
    ((c 2 true []).upd.armed = some (2, 0) ∧ (c 3 true []).upd.armed = some (3, 0) ∧ (c 4 true []).upd.armed = some (4, 0) ∧
      ((c 4 true []).modUpd fun x => { x with ready := false }).upd.ready = false ∧ going.upd.phase ≠ 0) ∧
    ((ring going).ringCycles 0 = true ∧ (∀ q, going.ringCycles q = false) ∧ going.upd.phase = 4 ∧ (going.modUpd fun x =>
      { x with rings := 1 }).upd.rings.getLsbD 0 = true) ∧
    (ByMcHost State.reset w ∧ UPD_CMD.KEY.of w.value = 0x1B8D ∧ w.agent = 0x02 ∧ wait.upd.waitOk = some 0 ∧ (byMc 1).agent ≠ 0x02 ∧
      Chip.reset.upd.waitOk = none) ∧
    (wait.upd.phase = 4 ∧ wait.upd.armed = none ∧ wait.upd.job = none ∧ Canonical ⟨wait, []⟩) ∧
    ((wait.arrive 10000000000).upd.waitOk = some 0 ∧ (0 : Time).toNat + 10000000000 ≤ (wait.arrive 10000000000).t ∧
      wait.t < (0 : Time).toNat + 10000000000) ∧
    (isMc k.agent = true ∧ UPD_CONFIRM.KEY.of k.value = 0xC4F3 ∧ (windowChip 2).upd.window.isSome = true ∧ (windowChip 2).updPending = [2] ∧
      UPD_CONFIRM.KEY.of (byMc 0).value ≠ 0xC4F3 ∧ isHost (byHost 0).agent = true ∧ HostReaches ⟨runChip, []⟩) ∧
    ((windowChip 2).upd.window = some 0 ∧ (0 : Time).toNat ≤ (windowChip 2).t ∧ 2 ∉ (windowChip 2).upd.loaded) ∧
    (wait.updPending = [] ∧ (windowChip 0).updPending = [0] ∧ (windowChip 1).updPending = [1] ∧ (windowChip 3).updPending = [3] ∧
      (windowChip 4).updPending = [4] ∧ Chip.reset.upd.window = none) := by
  refine ⟨?_, ?_, ?_, ?_, ?_, ?_, ?_, ?_, ?_, ?_⟩ <;> decide +kernel

/-! ### Witnesses: hot standby -/

/-- A pair member with some fields set. -/
def pair (l : List (Fld × Nat)) (f : Hsb → Hsb := id) (c : Chip := runChip) : Chip :=
  (fields l { c with image := some { image0 with paired := true } }).modHsb f
/-- The header of a frame that is the next in order. -/
def hdr0 : SyncHdr := ⟨true, 0, 0⟩

theorem witness_sync_frames :
    let f : Chip := (pair [(SYS_MODE.MODE, 4), (SCN_TSTAT.PHASE 0, 0)]).modHsb fun g => { g with rseq := 1 }
    let k : Token := ⟨1, 0, 0, 0, 0, 0⟩
    let tok : Chip := f.modTask 0 fun q => { q with token := some k }
    (hdr0.ok = true ∧ f.pairMember = true ∧ hdr0.fseq = 0 ∧ runChip.pairMember = false ∧ hdr0.fseq = ((pair []).acked 0).hsb.rseq ∧
      hdr0.fseq ≠ (f.acked 0).hsb.rseq ∧
      f.hsb.handover = none ∧ f.hsb.outq = []) ∧
    (f.mode = mFOLLOW ∧ f.kind 0 = kCYC ∧ f.kind 1 = 0 ∧ (pair []).mode ≠ mFOLLOW ∧ (f.acked 0).hsb.rseq = 1) ∧
    ((f.task 0).token = none ∧ (f.task 0).inpart = none ∧ f.hsb.staged = [] ∧ (tok.task 0).token = some k ∧ tok.migrating 0 = false ∧
      tok.olc.hold = false ∧ (tok.task 0).live = false ∧ tok.phase 0 = 0 ∧
      tok.flushing = false ∧ Canonical ⟨tok, []⟩ ∧ Powered ⟨tok, []⟩) ∧
    (let l := f.modTask 0 fun q => { q with live := true, ledgPos := 4 };
      (l.task 0).live = true ∧ 3 < (l.task 0).ledgPos ∧ (l.task 0).ledgPos ≤ 4 ∧ l.scanNum 0 = 0 ∧ (l.task 0).paired = false ∧
      ((l.modTask 0 fun q => { q with paired := true }).task 0).paired = true ∧ deterministic 1 2 = false ∧ (f.task 0).ends = [] ∧
      (f.put (SCN_TSTAT.PHASE 0) 3).phase 0 = 3 ∧ ¬ (f.kind 0 = kCYC ∧ f.phase 0 = 3) ∧ ¬ ((0 : Nat) ≠ 0)) ∧
    (let e := f.modTask 0 fun q => { q with ends := [(1, 0, 0)] };
      (e.task 0).ends = [(1, 0, 0)] ∧ (e.task 0).endmk = [] ∧ f.get OLC_STATE.STATE ≠ 2 ∧ (f.put OLC_STATE.STATE 2).get OLC_STATE.STATE = 2 ∧
      (f.put OLC_STATE.STATE 3).get OLC_STATE.STATE = 3 ∧ (0x5A3C0003 : Word) ≠ 0x5A3C0002 ∧
      (0 : Nat) ≠ OLC_CMD.reg ∧ (0 : Nat) ≠ OLC_FCMD.reg ∧ (0 : Nat) ≠ SHD_TMODE.reg 0 ∧ (0 : Nat) ≠ UPD_CMD.reg) := by
  refine ⟨?_, ?_, ?_, ?_, ?_⟩ <;> decide +kernel

theorem witness_resync :
    let w := byMc 0x9C6E0000
    let stop : Chip := pair [(SYS_MODE.MODE, 2)]
    let rs : Resync := ⟨[], 10, 0, 0, 1, 100, none⟩
    let src (f : Resync → Resync) : Chip := pair [] fun g => { g with resync := some (f rs) }
    let tgt (l : List (Fld × Nat)) : Chip := pair ((SYS_MODE.MODE, 2) :: l) fun g => { g with target := some (0, 100) }
    let q (m : BitVec 16) : Chip := pair [(HSB_STATE.ROLE, 1)] fun g => { g with pmap := some m }
    (ByMcHost ⟨stop, []⟩ w ∧ HSB_CMD.KEY.of w.value = 0x9C6E ∧ HSB_CMD.KEY.of (byMc 0).value ≠ 0x9C6E) ∧
    (stop.mode = mSTOP ∧ stop.pairMember = true ∧ stop.hsb.target = none ∧ (pair []).mode ≠ mSTOP ∧ (tgt []).hsb.target.isSome = true ∧
      stop.hsb.resync = none ∧ stop.leading = false) ∧
    (let l := pair [(HSB_STATE.LOCKED, 1)];
      l.leading = true ∧ l.hsb.handover = none ∧ l.flag SYS_MODE.TRANS = false) ∧
    (let h := (pair [] fun g => { g with handover := some 0, quiet := some 0 }).arrive 2000000;
      h.hsb.handoverAck = false ∧ h.hsb.handover = some 0 ∧ (0 : Time).toNat + 100000 ≤ h.t ∧ h.hsb.quiet = some 0 ∧
        (0 : Time).toNat + 1000000 ≤ h.t ∧ ((pair [] fun g => { g with quiet := some 0 }).arrive 0).t < (0 : Time).toNat + 1000000) ∧
    ((src id).hsb.resync = some rs ∧ rs.joining = none ∧ (src id).dirtyPages = [] ∧ (src id).hsb.outq = [] ∧ rs.stalls + 1 < 8 ∧
      ((src fun r => { r with prev := 0, stalls := 7 }).hsb.resync.map fun r => decide (8 ≤ r.stalls + 1)) = some true ∧
      ({ src id with hsb := { (src id).hsb with outq := [.rspage 0 0 []] } } : Chip).hsb.outq.any (fun m => match m with
        | .rspage .. => true
        | _ => false) = true ∧
      rs.began.toNat + 1000000 * rs.tmo ≤ ((src id).arrive 2000000).t) ∧
    (let j := src fun r => { r with joining := some 0 };
      j.hsb.resync = some { rs with joining := some 0 } ∧ j.phase 0 ≠ 5 ∧ (j.put (SCN_TSTAT.PHASE 0) 5).phase 0 = 5) ∧
    (hdr0.fseq = (stop.acked 0).hsb.rseq ∧ stop.flag SYS_MODE.TRANS = false ∧ (stop.put SYS_MODE.TRANS 1).flag SYS_MODE.TRANS = true ∧
      inDomain (4096 * 0x20000) = true ∧ inDomain (4096 * 0) = false ∧ (tgt [(HSB_RSSTAT.PHASE, 4)]).get HSB_RSSTAT.PHASE = 4 ∧
      (tgt [(HSB_RSSTAT.PHASE, 4)]).mode = mSTOP ∧ (tgt [(HSB_RSSTAT.PHASE, 4)]).flag SYS_MODE.TRANS = false ∧
      (tgt [(HSB_RSSTAT.PHASE, 4)]).hsb.target.isSome = true ∧
      (pair [(SYS_MODE.MODE, 4)]).mode = mFOLLOW) ∧
    ((q 1).mode = mRUN ∧ (q 1).hsb.resync = none ∧ (q 1).flag HSB_STAT.PAIRIDERR = false ∧ (q 1).flag HSB_STATE.LOCKED = false ∧
      (q 1).get HSB_STATE.ROLE = 1 ∧ (q 1).configured = [0] ∧ (1 : BitVec 16).getLsbD ((q 1).leOf 0) = true ∧ (0 : BitVec 16).getLsbD ((q 0).leOf 0) = false ∧
      Powered ⟨q 1, []⟩ ∧ Canonical ⟨q 1, []⟩) := by
  refine ⟨?_, ?_, ?_, ?_, ?_, ?_, ?_, ?_⟩ <;> decide +kernel

/-- A record from a partner in FOLLOW with the other PAIR_ID. -/
def record0 : HbRecord := ⟨true, false, false, false, false, false, 4, 2, 5, 0, true⟩

theorem witness_heartbeats :
    let stop (l : List (Fld × Nat)) (f : Hsb → Hsb := id) : Chip := pair ((SYS_MODE.MODE, 2) :: l) f
    let c := stop []
    let up := stop [(HSB_LINK.LANE0, 1), (HSB_LINK.LANE1, 1), (HSB_LINK.P2OK, 1)]
    let heard := stop [] fun g => { g with p2Seq := some 5 }
    let lost := (stop [(HSB_LINK.P2OK, 1)] fun g => { g with p1Lost := some 0 }).arrive 400000
    let status (n : Nat) : Chip := (stop [] fun g => { g with replay := [⟨0, n, 0, .rsctl .accept⟩] }).arrive 5000
    let both := (stop [(HSB_LINK.P1OK, 1), (HSB_LINK.P2OK, 1)])
    let led : Chip := pair [(HSB_STATE.LOCKED, 1), (HSB_LINK.P2OK, 1)]
    (c.pairMember = true ∧ c.flag HSB_STATE.SIL = false ∧ c.flushing = false ∧ c.hsb.quiet = none ∧ (100000 : Time).toNat % 100000 = 0 ∧
      ¬ ((7 : Time).toNat % 100000 = 0) ∧ c.mode ≠ mINTER ∧ runChip.pairMember = false ∧ up.hsb.outq = [] ∧
      (up.hsb.replay.map fun e => frameSize e.msg).sum + 96 ≤ 65536) ∧
    (record0.crcOk = true ∧ c.hsb.p2Seq = none ∧ heard.hsb.p2Seq = some record0.seq ∧ record0.pid ≠ c.pins.pairId ∧ c.mode ≠ mRUN ∧ c.mode ≠ mFOLLOW ∧
      record0.rsReq = false ∧ { record0 with pid := false }.pid = c.pins.pairId ∧ c.flag HSB_STAT.PAIRIDERR = false) ∧
    (up.flag HSB_LINK.P2OK = true ∧ c.flag HSB_LINK.P2OK = false ∧ c.hsb.p2Run + 1 < 4 ∧
      (let h := stop [] fun g => { g with p2Run := 3, p2Seq := some 4 };
        h.hsb.p2Seq = some (record0.seq - 1) ∧ 4 ≤ h.hsb.p2Run + 1 ∧ 1 ≤ (record0.seq - 4).toNat ∧ (record0.seq - 4).toNat < 2 ^ 15)) ∧
    ((both.flag HSB_LINK.P1OK && both.flag HSB_LINK.P2OK && decide (both.get HSB_STATE.CLM = 0)) = true ∧ led.leading = true ∧
      (let r := { record0 with mode := 2 };
        r.mode ≠ mFOLLOW ∧ r.pid ≠ led.pins.pairId ∧ led.hsb.lockAt.toNat + (led.tb.setWidth 32 - r.tbl).toInt ≤ led.t)) ∧
    ((status 0).hsb.replay = [⟨0, 0, 0, .rsctl .accept⟩] ∧ (status 3).hsb.replay = [⟨0, 3, 0, .rsctl .accept⟩] ∧ c.hsb.replay = [] ∧
      (0 : Time).toNat + 5000 ≤ (status 0).t ∧ c.t < (0 : Time).toNat + 5000) ∧
    (c.flag HSB_LINK.LANE0 = false ∧ up.flag HSB_LINK.LANE0 = true ∧ up.flag HSB_LINK.LANE1 = true ∧ up.flag HSB_STATE.LGC = false ∧
      (stop [(HSB_LINK.LANE0, 1)]).flag HSB_LINK.LANE1 = false ∧
      (({ up with turn := [⟨5, .link, false, 0⟩] } : Chip).turn.any fun a => a.cls == 5 && a.who == .link && !a.admitted) = true ∧
      (up.turn.any fun a => a.cls == 5 && a.who == .link && !a.admitted) = false) ∧
    (let z := pair [(SYS_MODE.MODE, mINTER)] fun g => { g with hbOut := some { record0 with mode := mINTER } };
      (z.mode == mINTER && z.hsb.hbOut.any (·.mode == mINTER)) = true ∧ (10000000 : Time).toNat % 10000000 = 0) ∧
    (lost.flag HSB_LINK.P2OK = true ∧ lost.hsb.p2At.toNat + 305000 ≤ lost.t ∧ c.t < c.hsb.p2At.toNat + 305000 ∧
      (lost.clr HSB_LINK.P2OK).pathsLost = true ∧ ((lost.set1 HSB_LINK.P1OK).clr HSB_LINK.P2OK).pathsLost = false) ∧
    (lost.hsb.p1Lost = some 0 ∧ (0 : Time).toNat + 50000 ≤ lost.t ∧ lost.flag HSB_LINK.P1OK = false ∧ c.hsb.p1Lost = none) := by
  refine ⟨?_, ?_, ?_, ?_, ?_, ?_, ?_, ?_, ?_⟩ <;> decide +kernel

theorem witness_claims :
    let stop (l : List (Fld × Nat)) (f : Hsb → Hsb := id) : Chip := pair ((SYS_MODE.MODE, 2) :: l) f
    let follow (l : List (Fld × Nat)) (f : Hsb → Hsb := id) : Chip := pair ((SYS_MODE.MODE, 4) :: l) f
    let c := stop []
    let asks : Chip := (stop []).modSys fun y => { y with runReq := some (false, 0) }
    let cl (k : ClaimKind) (t : Time) : Chip := (stop [(HSB_STATE.CLM, 1)] fun g => { g with claim := some (k, 0) }).arrive t
    (c.mode ≠ mFOLLOW ∧ (follow []).mode = mFOLLOW ∧ (follow []).pathsLost = true ∧ (follow [(HSB_ILK.INASS, 1)]).flag HSB_ILK.INASS = true ∧
      c.hsb.arb = none ∧ c.hsb.arbBarred = false ∧ c.hsb.granted = false ∧ (follow [(HSB_ARBCFG.MODE, 1)]).get HSB_ARBCFG.MODE = 1) ∧
    (c.pairMember = true ∧ c.flag HSB_STATE.LGC = false ∧ c.flag HSB_ILK.INFLT = false ∧ c.flag HSB_ILK.INT = c.flag HSB_ILK.INC ∧
      (stop [(HSB_ILK.INFLT, 1)]).flag HSB_ILK.INFLT = true ∧
      (stop [(HSB_STATE.LGC, 1)]).flag HSB_STATE.LGC = true) ∧
    ((c.arrive 1000000).flag HSB_ILK.INT = c.flag HSB_ILK.INC ∧ (c.arrive 1000000).hsb.lineAt.toNat + 2000 ≤ (c.arrive 1000000).t ∧
      (c.arrive 1000000).hsb.outAt.toNat + 1000000 ≤ (c.arrive 1000000).t ∧ ¬ (c.t ≥ c.hsb.lineAt.toNat + 2000) ∧
      (let d := (stop [(HSB_ILK.INT, 1)]).arrive 1000000; d.flag HSB_ILK.INT ≠ d.flag HSB_ILK.INC ∧ d.hsb.lineAt.toNat + 1000000 ≤ d.t) ∧
        (stop [(HSB_ILK.INRELD, 1)]).flag HSB_ILK.INRELD = true) ∧
    (c.get HSB_STATE.CLM = 0 ∧ c.pins.fence = false ∧ c.flushing = false ∧ (stop [] fun g => { g with granted := true }).hsb.granted = true ∧
      c.claimClean = true ∧ (follow [(HSB_ILK.INFLT, 1)]).claimClean = false) ∧
    (let f := (follow [(HSB_ILK.INRELD, 1)] fun g => { g with relSince := some 0 }).arrive 100000;
      f.mode = mFOLLOW ∧ f.pathsLost = true ∧ f.ilkReleased 50000 = true ∧ f.claimClean = true) ∧
    (asks.sys.runReq.isSome = true ∧ c.sys.runReq = none ∧
      (let q := (stop [(HSB_ILK.INFLT, 1)]).modSys fun y => { y with runReq := some (false, 0) };
        q.claimClean = false ∧ q.mode = mSTOP ∧ q.hsb.arb = none ∧ q.hsb.granted = false ∧ q.pins.fence = false) ∧
      (let q := (cl .start 20000).modSys fun y => { y with runReq := some (false, 0) };
        ({ q with pins := { q.pins with pairId := true } } : Chip).releaseClaim.pins.pairId = true ∧ q.releaseClaim.sys.runReq.isSome = true) ∧
      (cl .start 20000).sys.runReq = none ∧ (cl .start 20000).mode = mSTOP ∧ ((follow []).put HSB_STATE.CLM 2).mode = mFOLLOW ∧
      (cl .takeover 0).releaseClaim.mode ≠ mFOLLOW ∧
      (let q := (stop [(HSB_ILK.INRELD, 1)] fun g => { g with relSince := some 0 }).modSys fun y => { y with runReq := some (false, 0) };
        (q.arrive 1000000000).startClaimOk = true) ∧ (stop [] fun g => { g with lgcNext := some 0 }).hsb.lgcNext.isSome = true) ∧
    ((cl .start 20000).hsb.claim = some (.start, 0) ∧ (0 : Time).toNat + 20000 ≤ (cl .start 20000).t ∧ (cl .start 20000).flag HSB_ILK.INRELD = false ∧
      c.pins.pairId = false ∧ (0 : Time).toNat + 120000 ≤ (cl .takeover 120000).t ∧ (cl .takeover 120000).ilkReleased 20000 = false ∧
      ({ c with pins := { c.pins with pairId := true } } : Chip).pins.pairId = true) ∧
    (let a (l : List (Fld × Nat)) (m : Nat := 2) : Chip := stop l fun g => { g with arb := some (m, 0) };
      let f : Chip := (follow [] fun g => { g with arb := some (1, 0) }).arrive 4000000000;
      let ended : Chip := ((f.put HSB_ARBSTAT.RESULT 4).set1 HSB_STAT.ARBDONE).modHsb fun g => { g with arb := none, arbReq := false, arbBarred := true };
      (a [] 1).hsb.arb = some (1, 0) ∧ (a []).hsb.arb = some (2, 0) ∧ (a []).mode ≠ mRUN ∧ (a []).sys.runReq = none ∧ ended.mode = mFOLLOW ∧
      (ended.lockstepLost 9).sys.runReq = none ∧ (0 : BitVec 16).toNat = (a []).get HSB_ARBSTAT.NONCE ∧
      (0 : Time).toNat + 1000000 * (a []).get HSB_ARBCFG.ARBTO ≤ ((a []).arrive 4000000000).t ∧ (1 : BitVec 16).toNat ≠ (a []).get HSB_ARBSTAT.NONCE) := by
  refine ⟨?_, ?_, ?_, ?_, ?_, ?_, ?_, ?_⟩ <;> decide +kernel

theorem witness_legacy :
    let w := byMc 0x9C6E0000
    let m : MigEntry := ⟨1, 1, 0, 0, 8, 0x100, 0x20000000⟩
    let im (l : List MigEntry) : Image := { image0 with paired := true, sec := { noSections with legacy := l } }
    let c (l : List MigEntry) (x : List (Fld × Nat)) (f : Hsb → Hsb := id) : Chip :=
      (fields ([(SYS_MODE.MODE, 2), (SYS_BOOTSTAT.MIGRATED, 1), (HSB_LINK.LANE0, 1)] ++ x) { Chip.reset with image := some (im l) }).modHsb f
    let b : LegacyBlock := ⟨false, 0x100, List.replicate 8 7, 0⟩
    (ByMcHost State.reset w ∧ HSB_CMD.KEY.of w.value = 0x9C6E) ∧
    ((c [m] []).image = some (im [m]) ∧ (c [m] []).mode = mSTOP ∧ (im [m]).paired = true ∧ (c [m] []).flag SYS_BOOTSTAT.MIGRATED = true ∧
      (im [m]).sec.legacy ≠ [] ∧ (c [m] []).flag HSB_LINK.LANE0 = true ∧ (∀ e ∈ (im [m]).sec.legacy, 1 ≤ e.action ∧ e.action ≤ 8) ∧
      (c [m] []).flag HSB_STATE.LGC = false ∧ m.action = 1 ∧ { m with action := 4 }.action = 4) ∧
    (Chip.reset.image = none ∧ (c [m] [(SYS_BOOTSTAT.MIGRATED, 0)]).flag SYS_BOOTSTAT.MIGRATED = false ∧ (im []).sec.legacy = []) ∧
    (let l := (c [m] [(HSB_STATE.LGC, 1), (HSB_STATE.ROLE, 5)] fun g => { g with legacy := some (0, 1000) }).arrive 4000000000;
      l.flag HSB_STATE.LGC = true ∧ l.get HSB_STATE.ROLE = 5 ∧ l.hsb.lgcNext = none ∧ l.hsb.legacy = some (0, 1000) ∧
      (0 : Time).toNat + 1000000 * 1000 ≤ l.t ∧ (c [] []).t < (0 : Time).toNat + 1000000 * 1000) ∧
    (m.count = 8 ∧ b.bits = false ∧ b.base ≤ m.src.toNat ∧ m.src.toNat + 8 ≤ b.base + b.data.length ∧
      ((c [m] []).storeOne ⟨.data, 0x20000000, 8, 7⟩).protAny 0x20000000 = false) := by
  refine ⟨?_, ?_, ?_, ?_, ?_⟩ <;> decide +kernel

/-! ### Witnesses: station rings -/

/-- Ring 0 runs closed cycles of 1 ms with one station of one input word. -/
def ringChip (l : List (Fld × Nat) := []) (f : Ring → Ring := id) : Chip :=
  (fields ([(SYS_MODE.MODE, 2), (STN_LAT.STATE 0, 3), (STN_CYC.CYCLE 0, 1000), (STN_STATE.NSTN 0, 1), (STN_SCFG.AIW 0 0, 1)] ++ l) Chip.reset).modRing 0 f
/-- A closed cycle. -/
def cyc0 : Cyc := ⟨1, false, false, false, false, 0, 0, 0, 0, 0, 0, 0, false, [], []⟩
/-- The slot of station 0. -/
def slot0 : RingSlot := ⟨0, true, true, true, false, false, false, 0, [], [7]⟩

theorem witness_ring_cycles :
    let c := ringChip [] fun q => { q with cyc := some cyc0 }
    let f : RingFrame := ⟨1, false, true, true, [slot0], 9⟩
    let y := { cyc0 with split := true }
    (ringChip.cycleNs 0 ≠ 0 ∧ (1000000 : Time).toNat % ringChip.cycleNs 0 = 0 ∧ (7 : Time).toNat % ringChip.cycleNs 0 ≠ 0 ∧ ringChip.rstate 0 = 3 ∧
      (ringChip.ring 0).cyc = none ∧ ringChip.upd.rings.getLsbD 0 = false ∧ ringChip.staged = [] ∧ Powered ⟨ringChip, []⟩ ∧ Canonical ⟨ringChip, []⟩) ∧
    (c.dropped 0 = false ∧ ((c.putDrop 0 0 true).dropped 0 = true) ∧ (∀ q : Fin 32, c.get (STN_SUBBASE.BASE 0) = 0 ∨ c.subOk 0 q = true)) ∧
    ((c.ring 0).cyc = some cyc0 ∧ f.type = 1 ∧ f.abort = false ∧ cyc0.split = false ∧ y.split = true ∧ f.eof = true ∧ c.stations 0 = [0] ∧
      f.slots[0]? = some slot0 ∧ f.hcrcOk = true ∧ slot0.crcOk = true ∧ slot0.valid = true ∧ slot0.station = 0 ∧ slot0.wrap = false) ∧
    ({ f with eof := false }.eof = false ∧ ({ slot0 with wrap := true } : RingSlot).wrap = true ∧ { cyc0 with ret0 := true }.ret0 = true ∧ cyc0.ret0 = false ∧
      (c.arrive 1000001).t < cyc0.num * ringChip.cycleNs 0 + ringChip.frameNs 0 ∧ cyc0.num * ringChip.cycleNs 0 + ringChip.frameNs 0 ≤ (c.arrive 9000000).t) ∧
    (cyc0.num * ringChip.cycleNs 0 + 200 + 16 * ringChip.get (STN_LAT.RTD 0) ≤ (c.arrive 1000200).t ∧
      ¬ (cyc0.num * ringChip.cycleNs 0 + 200 + 16 * ringChip.get (STN_LAT.RTD 0) ≤ (c.arrive 1000199).t) ∧
      (c.put (STN_STAT.L1FAIL 0) 1).flag (STN_STAT.L1FAIL 0) = true) ∧
    ((1 : BitVec 32).getLsbD 0 = true ∧ (0 : BitVec 32).getLsbD 0 = false ∧
      (let m (l : List (Fld × Nat)) := (c.incSat (STN_SSTAT.MISS 0 0)).put (STN_SCFG.MISSLIM 0 0) 2 |> fields l;
        (m []).get (STN_SSTAT.MISS 0 0) < (m []).get (STN_SCFG.MISSLIM 0 0) ∧ (m []).bitOf (STN_DROP.DROP 0) 0 = false ∧
        (m [(STN_SSTAT.MISS 0 0, 2)]).get (STN_SCFG.MISSLIM 0 0) ≤ (m [(STN_SSTAT.MISS 0 0, 2)]).get (STN_SSTAT.MISS 0 0))) ∧
    (let d := (ringChip [] fun q => { q with enumerated := true, rejoin := q.rejoin.set 0 3 }).putDrop 0 0 true;
      d.bitOf (STN_DROP.DROP 0) 0 = true ∧ d.flag (STN_SSTAT.CFGMIS 0 0) = false ∧ (d.ring 0).enumerated = true ∧ (d.ring 0).rejoin[0] = 3 ∧
      c.bitOf (STN_DROP.DROP 0) 0 = false) ∧
    (cyc0.mon = false ∧ c.flag (STN_STAT.L1FAIL 0) = false) := by
  refine ⟨?_, ?_, ?_, ?_, ?_, ?_, ?_, ?_⟩ <;> decide +kernel

theorem witness_enumeration :
    let st (n : Nat) : Chip := ringChip [(STN_LAT.STATE 0, n)]
    let run : Chip := fields [(STN_LAT.STATE 0, 2), (SYS_MODE.MODE, 3), (STN_CYC.CYCLE 0, 100)] ringChip
    let x : StnIdent := ⟨0, 5, 6, 7⟩
    let im (i : List (Nat × Word × Word)) : Image := { image0 with sec := { noSections with idents := i, pchk := [(0, 7)] } }
    let w (n : Nat) : Cmd := byMc (BitVec.ofNat 32 n)
    let asks : Chip := (st 3).put ⟨acAddr 0 0 0, 7, 0⟩ 1
    let sent : Chip := ringChip [] fun q => { q with sent := [(0, 4)], lastCyc := 5 }
    ((st 1).rstate 0 = 1 ∧ (st 1).turn = [] ∧ (st 2).rstate 0 = 2 ∧ (st 5).rstate 0 = 5 ∧
      ((st 5).ring 0).lostAt.toNat + 100000000 ≤ ((st 5).arrive 100000000).t ∧ (st 5).t < ((st 5).ring 0).lostAt.toNat + 100000000) ∧
    ((st 2).rtdOk 0 9 = true ∧ run.rtdOk 0 60000 = false) ∧
    (([x].find? (·.s == 0) = some x) ∧ (∀ i ∈ (im [(0, 5, 6)]).sec.idents, i.1 = 0 → i.2 = (x.type, x.cap)) ∧ (∀ i ∈ (im []).sec.pchk, i.1 = 0 → i.2 = x.pchk) ∧
      ([] : List StnIdent).find? (·.s == 0) = none ∧ (ringChip.ring 0).joined.getLsbD 0 = false ∧
      ((ringChip [] fun q => { q with joined := 1 }).ring 0).joined.getLsbD 0 = true) ∧
    (ByMcHost State.reset (w 64) ∧ (w 64).value.getLsbD 6 = true ∧ (w 0).value.getLsbD 6 = false ∧ (asks.put (acStatus 0 0) 1).get (acStatus 0 0) = 1 ∧
      asks.get (acStatus 0 0) ≠ 1 ∧ asks.get ⟨acAddr 0 0 0, 7, 0⟩ = 1 ∧ asks.acStation 0 0 < asks.get (STN_STATE.NSTN 0) ∧
      asks.get ⟨acAddr 0 0 0, 23, 16⟩ ≤ 112 ∧ (st 3).get ⟨acAddr 0 0 0, 7, 0⟩ = 0) ∧
    ((0, 4) ∈ (sent.ring 0).sent ∧ sent.acStation 0 0 = 0 ∧ (sent.ring 0).sent.find? (·.1 == 0) = some (0, 4) ∧
      4 + (sent.put (STN_CTL.ACTO 0) 1).get (STN_CTL.ACTO 0) ≤ (sent.ring 0).lastCyc ∧
      (sent.ring 0).lastCyc < 4 + (sent.put (STN_CTL.ACTO 0) 9).get (STN_CTL.ACTO 0) ∧ (ringChip.ring 0).sent.find? (·.1 == 0) = none) := by
  refine ⟨?_, ?_, ?_, ?_, ?_⟩ <;> decide +kernel

/-! ### Witnesses: recorder and display -/

/-- The recorder runs, and code 0x200 has an entry. -/
def recChip (entry : Nat) (f : Rec → Rec := id) : Chip :=
  (((fields [(SYS_MODE.MODE, 2), (REC_CTL.EN, 1)] Chip.reset).st (0x39000000 + 8 * 0x200) 8 entry).modRec fun r => { r with known := true }).modRec f

theorem witness_recorder_posts :
    let w : Cmd := ⟨0x01, 0x200, false, 0, 8⟩
    let p : Post := ⟨0x200, 5, 0⟩
    let o : RecOpen := { (recChip 1).openRec p with count := 1 }
    let c (e : Nat) (o : RecOpen) (l : List Post) : Chip := recChip e fun r => { r with opens := [o], feed := l }
    (w.agent = 0x01 ∧ 0x200 ≤ w.value.toNat % 4096 ∧ (recChip 1).codeType 0x200 = 1 ∧ (recChip 0).codeType 0x200 = 0 ∧ (recChip 1).flag REC_CTL.EN = true ∧
      (recChip 1).mode ≠ mLOAD ∧ (recChip 1).rcd.stopped = false ∧ (recChip 1).rcd.feed.length < 256 ∧ Chip.reset.mode = mLOAD) ∧
    ((recChip 1 fun r => { r with feed := [p] }).rcd.opens.find? (·.code == 0x200) = none ∧ (recChip 1).flood 0x200 = none ∧
      (recChip 4).codeType 0x200 = 4) ∧
    ((c 4 o [p]).rcd.opens.find? (·.code == 0x200) = some o ∧ o.deferred = none ∧ o.early = none ∧ p.stamp.toNat < (c 4 o []).closeDue o ∧ o.sat = false ∧
      0 < o.count ∧ o.count < 0xFFFFFFFE) ∧
    (let d := (c (1 + 16 * 1) o []).arrive 0xFFFFFFFFFFFFFFF0;
      d.closeDue o ≤ d.t ∧ d.nextClose o ≤ (0xFFFFFFFFFFFFFFF0 : Time).toNat) ∧
    (let e := { o with early := some (1, 0) };
      let d := c (1 + 2 ^ 32) e [];
      d.earlyDue e = some 0 ∧ 0 < d.closeDue e ∧ d.nextClose e < d.closeDue e ∧ d.nextClose o = d.closeDue o ∧
        ((c 1 o [p]).rcd.feed.all (·.stamp.toNat < 9)) = true ∧ d.rcd.opens.find? (·.code == 0x200) = some e ∧ (c 1 e []).rlim e.code = 0) ∧
    (let e := { o with deferred := some (1, true, true) };
      e.deferred = some (1, true, true) ∧ (recChip 1).rcd.comm = none ∧ (recChip 1).rcd.queue.length < 767 ∧ (recChip 1).rcd.stopping = false ∧
      1024 ≤ ((recChip 1).put REC_NEXTSEQ.SEQ 1024).get REC_NEXTSEQ.SEQ) ∧
    ((recChip 1 fun r => { r with queue := List.replicate 1024 ⟨0, [], false, false, false⟩ }).rcd.queue.length = 1024 ∧ (recChip 1).rcd.known = true ∧
      (recChip 1 fun r => { r with known := false }).rcd.known = false ∧
      { o with memErr := true }.memErr = true ∧ o.code < 4096) := by
  refine ⟨?_, ?_, ?_, ?_, ?_, ?_, ?_⟩ <;> decide +kernel

theorem witness_recorder_drain :
    let w := byMc 0x2E5D0000
    let q : RecQ := ⟨1023, List.replicate 16 0, false, false, false⟩
    let fast : Chip := recChip 1 fun r => { r with queue := [⟨1024, [], false, false, true⟩], drain := some true }
    let c (cls : Nat) (who : Asker) (f : Rec → Rec) : Chip := { recChip 1 f with turn := [⟨cls, who, true, 0⟩] }
    let g : Chip := fields [(GRD_PROP.STATE, 2), (GRD_PROP.KIND, 4)] ((recChip 1).modGrd fun g => { g with agreer := 1 })
    (ByMcHost State.reset w ∧ REC_CMD.KEY.of w.value = 0x2E5D ∧ REC_CMD.KEY.of (byMc 0).value ≠ 0x2E5D ∧ (recChip 1).rcd.stopped = false ∧
      (recChip 1).rcd.comm = none) ∧
    (g.grantFor 1 4 0 0 = true ∧ (recChip 1).grantFor 1 4 0 0 = false) ∧
    (let d := (c 0 .store fun r => { r with comm := some 0 }).modNvs fun n => { n with erasing := [(0x7F000, 1)] };
      d.rcd.comm.isSome = true ∧ d.lastUnit 0x70000 0x80000 = true ∧ (c 0 .store fun r => { r with comm := some 0 }).lastUnit 0x70000 0x80000 = false) ∧
    ((recChip 1).mode ≠ mINTER ∧ (recChip 1).rcd.drainAt.toNat ≤ (recChip 1).t ∧ (recChip 1).drainHead ((recChip 1).rcd.drain == some true) = none ∧
      (fast.drainHead (fast.rcd.drain == some true)).isSome = true ∧ fast.drainHead false = none ∧
      (recChip 1).rcd.stopped = false ∧ Chip.reset.mode = mLOAD) ∧
    (let d := c 1 .recorder fun r => { r with queue := [q], drain := some false };
      (d.put REC_NEXTSEQ.SEQ 1024).drainHead false = some q ∧ d.drainHead false = none ∧ d.rcd.drain = some false ∧ d.turnHas 1 .recorder = true ∧
        d.rcd.retried = false ∧
      (d.modRec fun r => { r with retried := true }).rcd.retried = true ∧
      ({ d with image := some image0 } : Chip).emmcHas (d.carSlot (8 * (q.seq / 8)) / 8) 1 = true ∧
      d.emmcHas (d.carSlot (8 * (q.seq / 8)) / 8) 1 = false) ∧
    (let d := c 0 .store fun r => { r with queue := [q] };
      let x := d.cells ⟨[], [cellOf (0x60070000 + 64 * 1023)]⟩;
      d.rcd.queue.find? (fun q => !q.inKeep) = some q ∧ d.turnHas 0 .store = true ∧ q.seq = 1023 ∧ { q with seq := 1 }.seq ≠ 1023 ∧
      Canonical ⟨d, []⟩ ∧ ((d.cells ⟨[], []⟩).cellsPut 4 (keepCells q)).1 = true ∧ (x.cellsPut 4 (keepCells q)).1 = false ∧
      (∀ j, j < 8 → cellOf (0x60070000 + 64 * q.seq + 8 * j) ∉ (d.cells ⟨[], []⟩).nvs.stuck) ∧
      cellOf (0x60070000 + 64 * q.seq + 8 * 0) ∈ x.nvs.stuck) ∧
    ((recChip 1 fun r => { r with known := false }).rcd.known = false ∧ (recChip 1).mode ≠ mLOAD ∧ (recChip 1).rcd.tail = none) ∧
    (let d := recChip 1 fun r => { r with tail := some [[]] };
      d.rcd.tail.isSome = true ∧ d.mode ≠ mLOAD ∧ d.rcd.known = true ∧ d.tailWaits = false) ∧
    (let d := recChip 1 fun r => { r with fetching := true };
      d.rcd.fetching = true ∧ d.mode ≠ mINTER ∧ d.flushing = false ∧ (d.lookup true).1 < 8 ∧ Powered ⟨d, []⟩ ∧ Canonical ⟨d, []⟩ ∧
      d.mayRead 1 (REC_RDWIN.reg 15) = true ∧ d.mayRead 0xFF (REC_RDWIN.reg 15) = false ∧ isHost 0xFF = false ∧
      d.flag REC_RDCTL.AUTO = false ∧ (d.put REC_RDCTL.AUTO 1).flag REC_RDCTL.AUTO = true) := by
  refine ⟨?_, ?_, ?_, ?_, ?_, ?_, ?_, ?_, ?_⟩ <;> decide +kernel

/-- The display with a panel of 8 by 2 pixels at 60 Hz. -/
def mimChip (l : List (Fld × Nat) := []) (f : Mim → Mim := id) : Chip :=
  (fields ([(SYS_MODE.MODE, 2), (MIM_TIM0.HACT, 8), (MIM_TIM0.VACT, 2), (MIM_TIM1.BDIV, 16), (MIM_TIM1.VTOTAL, 500), (MIM_TIM1.HBLK, 95),
    (MIM_THR0.T1TO4, 0x04030201), (MIM_THR1.T5TO7, 0x070605)] ++ l) Chip.reset).modMim f
/-- A fill of one pixel. -/
def fill0 : MimCmd := ⟨0, false, 0, 0, 1, 1, 0, 0, 0, 0, 0⟩

theorem witness_mimic :
    let w := byHost 0x3D710000
    let on (l : List (Fld × Nat)) (f : Mim → Mim := id) : Chip := mimChip ((MIM_CTL.EN, 1) :: (MIM_OVSIZE.W, 1) :: (MIM_OVSIZE.H, 1) :: l) f
    let turn (f : Mim → Mim) : Chip := { on [] f with turn := [⟨3, .mimic, true, 0⟩] }
    let v := MIM_CTL.EN.ins 0 1
    let step (n : Nat) : Mim → Mim := fun m => { m with queue := [{ fill0 with step := n }], frameAt := some 20000 }
    (mimChip.mimCfgErr = 0 ∧ (mimChip [(MIM_TIM0.HACT, 0)]).mimCfgErr = 1 ∧ ByMcHost ⟨mimChip, []⟩ (byHost v) ∧ MIM_CTL.EN.of v = 1 ∧
      v &&& 0xE00003FF = v ∧ MIM_CTL.EN.of 0 = 0 ∧
      mimChip.flag MIM_CTL.EN = false ∧ (on []).flag MIM_CTL.EN = true ∧ mimChip.flag MIM_CTL.CRKACT = (MIM_CTL.CRKACT.of v != 0) ∧
      Canonical ⟨mimChip, []⟩ ∧ Powered ⟨mimChip, []⟩) ∧
    (ByMcHost ⟨mimChip, []⟩ w ∧ MIM_OVCMD.KEY.of w.value = 0x3D71 ∧ MIM_OVCMD.KEY.of (byHost 0).value ≠ 0x3D71 ∧ MIM_OVCMD.TAG.of w.value = 0) ∧
    (16 ≤ (on [] fun m => { m with queue := List.replicate 16 fill0 }).mim.queue.length ∧ (on []).get MIM_OVPOS.X = 0 ∧ (on []).get MIM_OVSIZE.W = 1 ∧
      0 + 1 ≤ (on []).get MIM_TIM0.HACT ∧ 0 + 1 ≤ (on []).get MIM_TIM0.VACT ∧ (on [(MIM_OVSIZE.W, 0)]).get MIM_OVSIZE.W = 0 ∧
      ¬ (3 * 400 * 100 ≤ 110592)) ∧
    (ovSourceOk { fill0 with copy := true, src := 0x3C000000, stride := 3 } = true ∧ ovSourceOk { fill0 with copy := true } = false) ∧
    (let g := turn fun m => { step 1 m with asked := some .staging };
      let b := turn fun m => { step 3 m with asked := some .batch };
      g.mim.queue.find? (·.step == 1) = some { fill0 with step := 1 } ∧ g.mim.asked = some .staging ∧ g.turnHas 3 .mimic = true ∧
      (turn (step 3)).mim.queue.find? (·.step == 1) = none ∧ (turn (step 3)).mim.queue = [{ fill0 with step := 3 }] ∧
      b.mim.asked = some .batch ∧ b.turnHas 3 .mimic = true ∧ b.mim.frameAt = some 20000 ∧ b.t + 10000 ≤ 20000 ∧ ¬ (b.arrive 15000).t + 10000 ≤ 20000 ∧
      b.upd.assets ≠ 4 ∧ (turn (step 3)).mim.asked ≠ some .batch) ∧
    ((on []).mimRun = true ∧ mimChip.mimRun = false ∧ (on []).get MIM_TEMP.PEND = (on []).get MIM_STATE.BAND ∧
      (on [(MIM_TEMP.PEND, 1)]).get MIM_TEMP.PEND ≠ (on [(MIM_TEMP.PEND, 1)]).get MIM_STATE.BAND) ∧
    ((on [] fun m => { m with fails := 2 }).mim.fails = 2 ∧ (on []).mim.fails ≠ 2 ∧ (on []).flag MIM_CTL.CRKEN = false ∧
      (on [(MIM_CTL.CRKEN, 1)]).flag MIM_CTL.CRKEN = true ∧ (on []).bitOf MIM_STAT.FLAGS 5 = false ∧
      3 ≤ (on [] fun m => { m with cracked := 3 }).mim.cracked ∧ (on []).mim.cracked < 3) ∧
    (let at' (l x : Nat) : Chip := (on [] fun m => { m with frameAt := some 0 }).arrive (BitVec.ofNat 64 (20 * 16 * ((on []).mimHtotal * l + x)))
      let o (l x : Nat) : RowPins := (at' l x).rowPins;
      (∀ l ∈ [0, 1, 2, 3], (at' l 0).mimRun = true ∧ 0 < (at' l 0).get MIM_TIM1.BDIV ∧
        (at' l 0).mim.frameAt = some 0 ∧ (at' l 0).t = 0 + 20 * (at' l 0).get MIM_TIM1.BDIV * ((at' l 0).mimHtotal * l + 0) ∧
          l < (at' l 0).get MIM_TIM1.VTOTAL) ∧
      0 < (at' 0 0).mimHtotal ∧ [o 0 0, o 1 0, o 2 0, o 3 0].map (·.clk) = [false, true, true, false] ∧
      [o 1 0, o 2 0].map (·.start) = [true, false]) := by
  refine ⟨?_, ?_, ?_, ?_, ?_, ?_, ?_, ?_⟩ <;> decide +kernel

/-! ### Witnesses: boot, accesses, and the machine as a whole -/

/-- An image header at a bank of the xSPI: kind, LENGTH, SEQ 1, and the CRC of what follows it. -/
def bankImage (k b n seq crc : Nat) (major : Nat := 1) (c : Chip := Chip.reset) : Chip :=
  let a := (bankAt [] k b).1
  (((((c.st a 4 (kindMagic k)).st (a + 4) 2 0).st (a + 6) 2 major).st (a + 8) 4 seq).st (a + 0x0C) 4 n).st (a + 0x10) 4 crc

theorem witness_boot_chip :
    let c := Chip.reset
    let b : BootInput := ⟨true, [], [], noSections, noSections, [], [], [], [], ⟨[], []⟩⟩
    let powered : Chip := { c with pins := { c.pins with xspiAt := some c.tb } }
    let sampled : Chip := ((powered.cells b.cells).modSys fun y => { y with booted := true }).dmLoad.backupSample
    let tested : Chip := (sampled.loadTb (if sampled.flag RTC_STATE.TIMEINV then 0 else sampled.dateAndTime)).bootTests b
    (c.mode = mLOAD ∧ c.sys.booted = false ∧ c.sys.loadHalt = false ∧ c.pins.pfailLow = false) ∧ runChip.mode ≠ mLOAD ∧
    tested.sys.loadHalt = false ∧ c.pins.fence = false ∧ c.sys.fenceSeen = false ∧ (c.modSys fun y => { y with fenceSeen := true }).sys.fenceSeen = true ∧
    (sampled.bootTests { b with coreFail := [0, 1] }).sys.loadHalt = true := by
  refine ⟨?_, ?_, ?_, ?_, ?_, ?_, ?_⟩ <;> decide +kernel

theorem witness_boot_banks :
    let one := bankImage 1 0 0x14 1 0
    let both := bankImage 1 1 0x14 1 0 1 one
    (one.bootBank [] 1 0 = true ∧ one.bootBank [] 1 1 = false ∧ one.updEntry 1 = 0 ∧ both.bootBank [] 1 1 = true ∧ Chip.reset.bootBank [] 1 0 = false) ∧
    (seqPick (both.imgSeq (bankAt [] 1 0).1) (both.imgSeq (bankAt [] 1 1).1) = none) ∧
    (let e := (one.putEntry 1 (entry 0 1 0 0)).updEntry 1; entPend e = 1 ∧ entTries e ≠ 2 ∧ entStg e = 0) ∧
    (Chip.reset.bootPick [] 0).1 = none ∧ ((one.bootPick [] 1).1 = some 0) ∧
    (bankImage 0 0 0x14 1 0).imgMajor (bankAt [] 0 0).1 < 3 ∧ 3 ≤ (bankImage 0 0 0x14 1 0 3).imgMajor (bankAt [] 0 0).1 ∧
    (3 + 2 ^ 32 - 2) % 2 ^ 32 < 2 ^ 31 ∧ 2 ^ 31 < (2 + 2 ^ 32 - 3) % 2 ^ 32 := by
  refine ⟨?_, ?_, ?_, ?_, ?_, ?_, ?_, ?_, ?_⟩ <;> decide +kernel

/-- A configuration image that is its header alone is valid (CRC-32C of no bytes is 0). -/
theorem witness_boot_configuration : (bankImage 0 0 0x14 1 0).bankOk [] 0 0 = true := by decide +kernel

theorem witness_accesses :
    let c := runChip
    let a : Nat := 0x40000000
    (inRegs a = true ∧ a % 4 = 0 ∧ ¬ (a + 1) % 4 = 0 ∧ isMc 0x01 = true ∧ a / 0x10000 = 0x4000 ∧ a ≠ SYS_CMD.reg ∧ 0x40070000 / 0x10000 = 0x4007 ∧
      0x40070000 ≠ FLT_DMCMD.reg ∧ (regRow? SYS_MODE.reg).isSome = true ∧ regRow? 0x40000FFC = none ∧ storedAs SYS_MODE.reg 0 = 0) ∧
    (isHost 0x01 = false ∧ inMap 0xC0000000 = false ∧ inRegs 0xC0000000 = false) ∧
    (c.barred 0x01 true 0x00000010 4 = none ∧ c.flt.poison = [] ∧ c.barred 0x01 true 0x10000000 1 = none) ∧
    ((List.range 4).all (fun j => c.admitsByte 0x01 true (0x38000000 + j)) = true ∧
      (List.range 4).all (fun j => c.admitsByte 0x01 true (0x20000000 + j)) = true ∧
      c.barred 0x01 false 0x20000000 4 = none ∧ wordsOf 0x20000000 4 ≠ [] ∧
        (List.range 4).map (fun j => c.busByte (0x20000000 + j)) = List.replicate 4 (some 0)) ∧
    ((fields [(GRD_PPERM.WR 0, 0)] c).barred 0x01 true 0x20000000 4 = some .partition ∧ c.barred 0x01 true 0x60000000 4 = some .fixed ∧
      c.mbx.pci.d3hot = false) ∧
    (HostReaches ⟨c, []⟩ ∧ isHost 0x40 = true ∧ c.pins.refclk = true ∧ c.mode ≠ mLOAD ∧ inStatus 0x20000000 4 = false ∧ wordsOf 0x28004020 1 ≠ [] ∧
      c.barred 0x01 false 0x28004020 1 = none ∧ Chip.reset.mode = mLOAD ∧
      (let w := (((Chip.reset.wr MBX_APBASE.reg 0x20000000).rd MBX_APBASE.reg).toNat + (0x4000 - 0x4000)) % 2 ^ 32;
        ¬ (inXspi w = true ∨ w / 0x10000 = 0x4000 ∨ w / 0x10000 = 0x4012))) := by
  refine ⟨?_, ?_, ?_, ?_, ?_, ?_⟩ <;> decide +kernel

theorem witness_register_space :
    let s : State := ⟨runChip, []⟩
    Canonical s ∧ Powered s ∧ inRegs 0x40000010 = true ∧ isHost 0x01 = false ∧ isHost 0x40 = true ∧ inRegs 0x40000011 = true ∧ ¬ 0x40000011 % 4 = 0 ∧
    SYS_CMD.reg % 4 = 0 ∧ SYS_CMD.KEY.of 0xC3A50000 = 0xC3A5 ∧ SYS_CMD.KEY.of 0 ≠ 0xC3A5 ∧ runChip.flag SYS_MODE.TRANS = false ∧
    (runChip.put SYS_MODE.TRANS 1).flag SYS_MODE.TRANS = true := by
  refine ⟨?_, ?_, ?_, ?_, ?_, ?_, ?_, ?_, ?_, ?_, ?_, ?_⟩ <;> decide +kernel

theorem witness_step : ∃ s t : State, s.pending = [] ∧ Powered s ∧ Canonical s ∧ step s = .next t ∧ t.chip.tb = 8 :=
  ⟨State.reset, ⟨{ Chip.reset with tb := 8 }, []⟩, by decide +kernel, by decide +kernel, by decide +kernel, by rfl, by decide +kernel⟩

theorem witness_step_ticks :
    let f (n : Int) : Chip := (runChip.put SYS_MODE.MODE 4).modHsb fun h => { h with steer := n }
    let p (n : Int) (k : Nat) : Chip := { fields [(RTC_PPSCTL.EN, 1), (RTC_PPSCTL.MAXSLEW, 3)] runChip with
      rtc := { runChip.rtc with slew := n, slews := k } }
    let off : Chip := { runChip with pins := { runChip.pins with refclk := false } }
    off.pins.refclk = false ∧
    (Powered ⟨f 9, []⟩ ∧ (f 9).pins.refclk = true ∧ (f 9).mode = mFOLLOW ∧ 8 ≤ (f 9).hsb.steer ∧ (f (-9)).hsb.steer ≤ -8 ∧ -8 < (f 7).hsb.steer ∧
      (f 7).hsb.steer < 8) ∧
    (Powered ⟨p 9 2, []⟩ ∧ (p 9 2).mode ≠ mFOLLOW ∧ (p 9 2).flag RTC_PPSCTL.EN = true ∧ (p 9 2).rtc.slews < (p 9 2).get RTC_PPSCTL.MAXSLEW ∧
      8 ≤ (p 9 2).rtc.slew ∧ (p (-9) 2).rtc.slew ≤ -8 ∧ (p 9 3).get RTC_PPSCTL.MAXSLEW ≤ (p 9 3).rtc.slews) := by
  refine ⟨?_, ?_, ?_⟩ <;> decide +kernel

theorem witness_held : ¬ Powered ⟨Chip.reset.modSys fun y => { y with held := .flushed }, []⟩ := by decide +kernel

theorem witness_bounds : WithinBounds runChip ∧ ∃ t, step ⟨runChip, []⟩ = .next t := by
  have h : runChip.turn = [] := by decide +kernel
  refine ⟨⟨fun _ => by simp [h], by simp [h], ?_, ?_, ?_⟩, ⟨{ runChip with tb := 8 }, []⟩, by rfl⟩ <;> decide +kernel

end Sys2Proof.Tests
end

section
/-! The control-register space (R4): which accesses become a read or a write of a register, and what the guard's record of the others holds. -/

namespace Sys2Proof.Proofs.RegisterSpace

open Sys2Proof.Machine Sys2Proof.Safety Sys2Proof.Laws

/-! ### The guard's record of a refusal (R475) -/

/-- The word that a refusal leaves in GRD_VINFO. -/
def refusalInfo (ag : AgentId) (write fixed : Bool) (part : Option (Fin 16)) : Nat :=
  2 ^ 8 * ag.toNat + 2 ^ 6 * fixed.toNat + write.toNat + (match part with
    | some p => 2 ^ 5 + 2 * p.val
    | none => 0)

/-- What stands beside the agent ID in GRD_VINFO fills fewer than its eight low bits, and the direction alone fills bit 0. -/
theorem refusalInfo_split (ag : AgentId) (write fixed : Bool) (part : Option (Fin 16)) :
    ∃ k, k < 64 ∧ refusalInfo ag write fixed part = 256 * ag.toNat + 2 * k + write.toNat := by
  have hf : fixed.toNat ≤ 1 := Bool.toNat_le fixed
  cases part with
  | none => exact ⟨32 * fixed.toNat, by omega, by simp only [refusalInfo]; omega⟩
  | some p => exact ⟨32 * fixed.toNat + 16 + p.val, by omega, by simp only [refusalInfo]; omega⟩

theorem of_agent_refusalInfo (ag : AgentId) (write fixed : Bool) (part : Option (Fin 16)) :
    GRD_VINFO.AGENT.of (BitVec.ofNat 32 (refusalInfo ag write fixed part)) = ag.toNat := by
  obtain ⟨k, hk, heq⟩ := refusalInfo_split ag write fixed part
  have hw : write.toNat ≤ 1 := Bool.toNat_le write
  have hag : ag.toNat < 256 := ag.isLt
  simp only [heq, Fld.of, Fld.width, GRD_VINFO.AGENT, BitVec.toNat_ofNat]
  omega

theorem of_dir_refusalInfo (ag : AgentId) (write fixed : Bool) (part : Option (Fin 16)) :
    GRD_VINFO.DIR.of (BitVec.ofNat 32 (refusalInfo ag write fixed part)) = write.toNat := by
  obtain ⟨k, hk, heq⟩ := refusalInfo_split ag write fixed part
  have hw : write.toNat ≤ 1 := Bool.toNat_le write
  have hag : ag.toNat < 256 := ag.isLt
  simp only [heq, Fld.of, Fld.width, GRD_VINFO.DIR, BitVec.toNat_ofNat]
  omega

section
variable (c : Chip) (ag : AgentId) (write : Bool) (a : Nat) (fixed : Bool) (part : Option (Fin 16))

/-- Setting the flags of a refusal leaves what was written to the guard's counter, GRD_VINFO and GRD_VADDR. -/
theorem recordRefusal_rd_record (b : Nat) (hstat : b ≠ GRD_STAT.reg) (hmbx : b ≠ MBX_STAT.reg) :
    (c.recordRefusal ag write a fixed part).rd b =
      (((c.incSat GRD_VCNT.CNT).wr GRD_VINFO.reg (BitVec.ofNat 32 (refusalInfo ag write fixed part))).wr GRD_VADDR.reg (BitVec.ofNat 32 a)).rd b := by
  unfold Chip.recordRefusal
  simp only [modGrd_rd]
  split
  · rw [set1_eq, rd_put_other _ _ _ _ hmbx, setBit_eq, rd_put_other _ _ _ _ hstat]
    rfl
  · rw [setBit_eq, rd_put_other _ _ _ _ hstat]
    rfl

variable (h : spWf regReset c.regs = true)
include h

theorem recordRefusal_rd_vaddr : (c.recordRefusal ag write a fixed part).rd GRD_VADDR.reg = BitVec.ofNat 32 a := by
  rw [recordRefusal_rd_record _ _ _ _ _ _ _ (by decide) (by decide)]
  exact rd_wr_same _ _ _ (wr_wf _ _ _ (put_wf _ _ _ h))

theorem recordRefusal_rd_vinfo :
    (c.recordRefusal ag write a fixed part).rd GRD_VINFO.reg = BitVec.ofNat 32 (refusalInfo ag write fixed part) := by
  rw [recordRefusal_rd_record _ _ _ _ _ _ _ (by decide) (by decide), rd_wr_other _ _ _ _ (by decide)]
  exact rd_wr_same _ _ _ (put_wf _ _ _ h)

theorem recordRefusal_get_agent : (c.recordRefusal ag write a fixed part).get GRD_VINFO.AGENT = ag.toNat :=
  (congrArg GRD_VINFO.AGENT.of (recordRefusal_rd_vinfo c ag write a fixed part h)).trans (of_agent_refusalInfo ag write fixed part)

theorem recordRefusal_get_dir : (c.recordRefusal ag write a fixed part).get GRD_VINFO.DIR = write.toNat :=
  (congrArg GRD_VINFO.DIR.of (recordRefusal_rd_vinfo c ag write a fixed part h)).trans (of_dir_refusalInfo ag write fixed part)

theorem recordRefusal_get_cnt :
    (c.recordRefusal ag write a fixed part).get GRD_VCNT.CNT = min (c.get GRD_VCNT.CNT + 1) (2 ^ 32 - 1) := by
  have hrd : (c.recordRefusal ag write a fixed part).rd GRD_VCNT.reg = (c.incSat GRD_VCNT.CNT).rd GRD_VCNT.reg := by
    rw [recordRefusal_rd_record _ _ _ _ _ _ _ (by decide) (by decide), rd_wr_other _ _ _ _ (by decide), rd_wr_other _ _ _ _ (by decide)]
  calc (c.recordRefusal ag write a fixed part).get GRD_VCNT.CNT
      = (c.incSat GRD_VCNT.CNT).get GRD_VCNT.CNT := congrArg GRD_VCNT.CNT.of hrd
    _ = min (c.get GRD_VCNT.CNT + 1) (2 ^ 32 - 1) % 2 ^ 32 := get_put_same _ _ _ h (by decide) (by decide)
    _ = min (c.get GRD_VCNT.CNT + 1) (2 ^ 32 - 1) := Nat.mod_eq_of_lt (by omega)

end

/-! ### The wake source of the host (R450) -/

/-- Where the chip is not asleep, a wake source sets its bit of PWR_WAKE and begins nothing. -/
theorem wake_awake (c : Chip) (k : Fin 5) (h : c.asleep = false) : c.wake k = c.setBit PWR_WAKE.SRC k := by
  have hm (f : Fld) (hf : f.addr ≠ PWR_WAKE.SRC.addr) : (c.setBit PWR_WAKE.SRC k).get f = c.get f := get_put_other _ _ _ _ hf
  have hs : (c.setBit PWR_WAKE.SRC k).asleep = c.asleep := by
    simp only [Chip.asleep, Chip.mode, Chip.flag, hm SYS_MODE.MODE (by decide), hm SYS_MODE.TRANS (by decide), hm SYS_MODE.TARGET (by decide)]
  simp [Chip.wake, hs, h]

/-- The chip when an access comes: the host's write, and no other access, shows in PWR_WAKE. -/
def woken (c : Chip) (ag : AgentId) (write : Bool) : Chip := if isHost ag && write then c.setBit PWR_WAKE.SRC 2 else c

theorem woken_write (c : Chip) (ag : AgentId) (h : isHost ag = true → c.asleep = false) : c.hostWake ag = woken c ag true := by
  cases hh : isHost ag
  · simp [Chip.hostWake, woken, hh]
  · simpa [Chip.hostWake, woken, hh] using wake_awake c 2 (h hh)

@[simp] theorem woken_read (c : Chip) (ag : AgentId) : woken c ag false = c := by simp [woken]

/-- The wake bit stands in the register file. -/
theorem woken_frame (c : Chip) (ag : AgentId) (write : Bool) : woken c ag write = { c with regs := (woken c ag write).regs } := by
  unfold woken
  split <;> rfl

theorem woken_wf (c : Chip) (ag : AgentId) (write : Bool) (h : spWf regReset c.regs = true) : spWf regReset (woken c ag write).regs = true := by
  unfold woken
  split
  · exact put_wf _ _ _ h
  · exact h

theorem woken_rd (c : Chip) (ag : AgentId) (write : Bool) (b : Nat) (h : (isHost ag && write) = true → b ≠ PWR_WAKE.reg) :
    (woken c ag write).rd b = c.rd b := by
  unfold woken
  split
  · exact rd_put_other _ _ _ _ (h ‹_›)
  · rfl

/-! ### An access of another shape -/

/-- The registers that an access turned away may change: the guard's record, HREF for the host, and the host's wake bit for its write. -/
def recordRegs (ag : AgentId) (write : Bool) : List Nat :=
  [GRD_VCNT.reg, GRD_VINFO.reg, GRD_VADDR.reg, GRD_STAT.reg] ++ (if isHost ag then [MBX_STAT.reg] else []) ++
    (if isHost ag && write then [PWR_WAKE.reg] else [])

/-- The access completes without an error, a read of `n` bytes with zeros, and what it changes between `c` and `c'` is the record of it (R4). -/
def TurnedAway (c c' : Chip) (ag : AgentId) (write : Bool) (addr : Word) (n : Nat) : Prop :=
  c'.resp = ⟨List.replicate (if write then 0 else n) 0, false⟩ ∧ c'.get GRD_VINFO.AGENT = ag.toNat ∧ c'.get GRD_VINFO.DIR = write.toNat ∧
  c'.rd GRD_VADDR.reg = addr ∧ c'.get GRD_VCNT.CNT = min (c.get GRD_VCNT.CNT + 1) (2 ^ 32 - 1) ∧
  (∀ reg, reg ∉ recordRegs ag write → c'.rd reg = c.rd reg) ∧ c'.mem = c.mem ∧ c'.tasks = c.tasks ∧ c'.phys = c.phys ∧ c'.img = c.img

theorem not_mem_recordRegs {ag : AgentId} {write : Bool} {b : Nat} (h : b ∉ recordRegs ag write) :
    b ∉ [GRD_VCNT.reg, GRD_VINFO.reg, GRD_VADDR.reg, GRD_STAT.reg] ∧ (isHost ag = true → b ≠ MBX_STAT.reg) ∧
      ((isHost ag && write) = true → b ≠ PWR_WAKE.reg) := by
  simp only [recordRegs, List.mem_append, not_or] at h
  obtain ⟨⟨hgrd, hmbx⟩, hpwr⟩ := h
  exact ⟨hgrd, fun hh => by simpa [hh] using hmbx, fun hh => by simpa [hh] using hpwr⟩

/-- The answer to an access of another shape turns it away. -/
theorem turnedAway_bar_shape (c : Chip) (ag : AgentId) (write : Bool) (addr : Word) (n k : Nat) (h : spWf regReset c.regs = true)
    (hn : (if write then 0 else k) = if write then 0 else n) :
    TurnedAway c ((woken c ag write).bar ag write addr.toNat k .shape) ag write addr n := by
  have hw : spWf regReset (woken c ag write).regs = true := woken_wf c ag write h
  have hf := recordRefusal_frame (woken c ag write) ag write addr.toNat true none
  rw [woken_frame c ag write] at hf
  simp only [TurnedAway, Chip.bar, Chip.refuse, answer_resp, answer_get, answer_rd, answer_mem, answer_tasks, answer_phys, answer_img, hn]
  refine ⟨trivial, recordRefusal_get_agent _ _ _ _ _ _ hw, recordRefusal_get_dir _ _ _ _ _ _ hw, ?_, ?_, ?_, ?_, ?_, ?_, ?_⟩
  · rw [recordRefusal_rd_vaddr _ _ _ _ _ _ hw, BitVec.ofNat_toNat, BitVec.setWidth_eq]
  · rw [recordRefusal_get_cnt _ _ _ _ _ _ hw]
    simp only [Chip.get, woken_rd c ag write GRD_VCNT.CNT.addr (fun _ => by decide)]
  · intro b hb
    obtain ⟨hgrd, hmbx, hpwr⟩ := not_mem_recordRegs hb
    rw [recordRefusal_rd _ _ _ _ _ _ _ hgrd hmbx, woken_rd _ _ _ _ hpwr]
  all_goals rw [woken_frame c ag write, hf]

/-! ### What the bus does with an access to the control-register space -/

/-- An access that is not one aligned word is barred by its shape. -/
theorem barred_of_not_word (c : Chip) (ag : AgentId) (write : Bool) (a n : Nat) (hr : inRegs a = true) (hs : ¬ (n = 4 ∧ a % 4 = 0)) :
    c.barred ag write a n = some .shape := by
  have hs' : (n == 4 && a % 4 == 0) = false := by simpa using hs
  simp [Chip.barred, hr, hs']

/-- Every byte of an aligned word of the control-register space lies in it. -/
theorem inRegs_word (a i : Nat) (hr : inRegs a = true) (ha : a % 4 = 0) (hi : i < 4) : inRegs (a + i) = true := by
  simp only [inRegs, Bool.and_eq_true, decide_eq_true_eq] at hr ⊢
  omega

/-- Nothing bars an aligned word from an agent other than the host. -/
theorem barred_of_word (c : Chip) (ag : AgentId) (write : Bool) (a : Nat) (hr : inRegs a = true) (ha : a % 4 = 0) (hh : isHost ag = false) :
    c.barred ag write a 4 = none := by
  have hmap : ∀ i < 4, inMap (a + i) = true := fun i hi => by simp [inMap, inRegs_word a i hr ha hi]
  simpa [Chip.barred, Chip.loadBars, hr, ha, hh] using hmap

theorem busRead_of_not_word (c : Chip) (ag : AgentId) (a n : Nat) (ecc : Ecc) (hc : c.cutOff ag = false) (hr : inRegs a = true)
    (hs : ¬ (n = 4 ∧ a % 4 = 0)) : c.busRead ag a n ecc = c.bar ag false a n .shape := by
  simp [Chip.busRead, hc, barred_of_not_word c ag false a n hr hs]

theorem busWrite_of_not_word (c : Chip) (ag : AgentId) (a : Nat) (l : List Byte) (sets : Word) (hc : c.cutOff ag = false)
    (hr : inRegs a = true) (hs : ¬ (l.length = 4 ∧ a % 4 = 0)) :
    c.busWrite ag a l sets = (c.hostWake ag).bar ag true a l.length .shape := by
  simp [Chip.busWrite, hc, barred_of_not_word (c.hostWake ag) ag true a l.length hr hs]

theorem cutOff_of_not_host (c : Chip) (ag : AgentId) (hh : isHost ag = false) : c.cutOff ag = false := by simp [Chip.cutOff, hh]

theorem busRead_of_word (c : Chip) (ag : AgentId) (a : Nat) (ecc : Ecc) (hh : isHost ag = false) (hr : inRegs a = true) (ha : a % 4 = 0) :
    c.busRead ag a 4 ecc = c.regRead ag a := by
  simp [Chip.busRead, cutOff_of_not_host c ag hh, barred_of_word c ag false a hr ha hh, hr]

theorem busWrite_of_word (c : Chip) (ag : AgentId) (a : Nat) (l : List Byte) (sets : Word) (hh : isHost ag = false) (hr : inRegs a = true)
    (ha : a % 4 = 0) (hl : l.length = 4) : c.busWrite ag a l sets = c.regWrite a ⟨ag, wordOf l, false, sets, c.tb⟩ := by
  simp [Chip.busWrite, Chip.hostWake, cutOff_of_not_host c ag hh, hl, barred_of_word c ag true a hr ha hh, hr, hh]

/-- The bytes of a register write, lowest first. -/
def bytesOf (v : Word) (n : Nat) : List Byte := (List.range n).map fun i => (v >>> (8 * i)).setWidth 8

@[simp] theorem bytesOf_length (v : Word) (n : Nat) : (bytesOf v n).length = n := by simp [bytesOf]

/-- The four bytes of a word make it up. -/
theorem wordOf_bytesOf (v : Word) : wordOf (bytesOf v 4) = v := by
  have hv : v.toNat < 2 ^ 32 := v.isLt
  apply BitVec.eq_of_toNat_eq
  simp only [wordOf, bytesOf, List.range_succ, List.range_zero, List.nil_append, List.cons_append, List.map_cons, List.map_nil, List.foldr_cons,
    List.foldr_nil, BitVec.toNat_ofNat, BitVec.toNat_setWidth, BitVec.toNat_ushiftRight, Nat.shiftRight_eq_div_pow]
  omega

/-! ### The two commands that make an access -/

/-- An access comes by the bus from an agent that reaches the chip. -/
abbrev Reaches (s : State) (ag : AgentId) (v : Via) : Prop := v = .bus ∧ (isHost ag = true → HostReaches s)

theorem exec_registerWrite (r : RegAccess) (s : State) : exec (.registerWrite r) s = execRegisterWrite r s := rfl

theorem exec_agentMemoryAccess (m : MemAccess) (s : State) : exec (.agentMemoryAccess m) s = execAgentMemoryAccess m s := rfl

section
variable (s : State) (hp : Powered s)
include hp

theorem exec_registerWrite_bus (r : RegAccess) (hv : r.via = .bus) :
    exec (.registerWrite r) s = .next (at_ s (if r.write then (came s r.now).busWrite r.agent r.addr.toNat (bytesOf r.value r.size) r.sets
      else (came s r.now).busRead r.agent r.addr.toNat r.size .ok)) := by
  rw [exec_registerWrite, execRegisterWrite, on_powered s _ hp]
  simp [hv, Chip.viaWrite, Chip.viaRead, came, bytesOf]

theorem exec_agentMemoryAccess_bus (m : MemAccess) (hv : m.via = .bus) :
    exec (.agentMemoryAccess m) s = .next (at_ s (if m.write then (came s m.now).busWrite m.agent m.addr.toNat m.data m.sets
      else (came s m.now).busRead m.agent m.addr.toNat m.len m.ecc)) := by
  rw [exec_agentMemoryAccess, execAgentMemoryAccess, on_powered s _ hp]
  simp [hv, Chip.viaWrite, Chip.viaRead, came]

end

section
variable (s : State) (ag : AgentId) (v : Via) (now : Time) (h : Reaches s ag v)
include h

theorem cutOff_came : (came s now).cutOff ag = false := by
  cases hh : isHost ag with
  | false => exact cutOff_of_not_host _ _ hh
  | true =>
    obtain ⟨href, hd3, -, -⟩ := h.2 hh
    rw [came, arrive_eq]
    simp [Chip.cutOff, href, hd3]

theorem asleep_came (hh : isHost ag = true) : (came s now).asleep = false := by
  obtain ⟨-, -, -, hasleep⟩ := h.2 hh
  rw [came, arrive_eq]
  exact hasleep

variable (hc : Canonical s) (addr : Word) (hr : inRegs addr.toNat = true)
include hc hr

theorem turnedAway_busRead (n : Nat) (ecc : Ecc) (hs : ¬ (n = 4 ∧ addr.toNat % 4 = 0)) :
    TurnedAway (came s now) ((came s now).busRead ag addr.toNat n ecc) ag false addr n := by
  have hwf : spWf regReset (came s now).regs = true := by simpa [came] using hc.2.1
  rw [busRead_of_not_word _ _ _ _ _ (cutOff_came s ag v now h) hr hs]
  simpa using turnedAway_bar_shape (came s now) ag false addr n n hwf rfl

theorem turnedAway_busWrite (n : Nat) (l : List Byte) (sets : Word) (hs : ¬ (l.length = 4 ∧ addr.toNat % 4 = 0)) :
    TurnedAway (came s now) ((came s now).busWrite ag addr.toNat l sets) ag true addr n := by
  have hwf : spWf regReset (came s now).regs = true := by simpa [came] using hc.2.1
  rw [busWrite_of_not_word _ _ _ _ _ (cutOff_came s ag v now h) hr hs, woken_write _ _ (asleep_came s ag v now h)]
  exact turnedAway_bar_shape (came s now) ag true addr n l.length hwf rfl

end

/-- Settles O54: an aligned word passes every check of the bus, and an access of another shape meets the first of them, whose answer is the
guard's record alone. -/
theorem controlRegistersTakeAlignedWordsOnly : Obligations.ControlRegistersTakeAlignedWordsOnly := by
  unfold Obligations.ControlRegistersTakeAlignedWordsOnly
  intro s r m c d a b record turnedAway reaches hc hp
  refine ⟨?_, ?_, ?_, ?_⟩
  · intro hreach hr hsize ha hh
    rw [exec_registerWrite_bus s hp r hreach.1, hsize, busRead_of_word _ _ _ _ hh hr ha, busWrite_of_word _ _ _ _ _ hh hr ha (by simp),
      wordOf_bytesOf]
  · intro hreach hr hs
    refine ⟨_, exec_registerWrite_bus s hp r hreach.1, rfl, ?_⟩
    cases hw : r.write with
    | false => exact turnedAway_busRead s r.agent r.via r.now hreach hc r.addr hr r.size .ok hs
    | true => exact turnedAway_busWrite s r.agent r.via r.now hreach hc r.addr hr r.size _ r.sets (by simpa using hs)
  · intro hreach hr hw hs
    refine ⟨_, exec_agentMemoryAccess_bus s hp m hreach.1, rfl, ?_⟩
    rw [if_pos hw]
    exact turnedAway_busWrite s m.agent m.via m.now hreach hc m.addr hr 0 m.data m.sets hs
  · intro hreach hr hw hs
    refine ⟨_, exec_agentMemoryAccess_bus s hp m hreach.1, rfl, ?_⟩
    rw [if_neg (by simp [hw])]
    exact turnedAway_busRead s m.agent m.via m.now hreach hc m.addr hr m.len m.ecc hs

end Sys2Proof.Proofs.RegisterSpace
end

section
/-! The writers of SYS_CMD (R53): whom the protection guard admits, what a refused write changes (R24), and that a register write by the bus
meets the same guard. -/

namespace Sys2Proof.Proofs.SysCommand

open Sys2Proof.Machine Sys2Proof.Safety Sys2Proof.Laws Sys2Proof.Proofs.RegisterSpace

/-! ### The guard of a write that only some agents may make -/

theorem hostWake_of_not_host (c : Chip) (ag : AgentId) (hh : isHost ag = false) : c.hostWake ag = c := by simp [Chip.hostWake, hh]

/-- A write that reaches the chip from an agent that may make it completes without error and takes its effect. -/
theorem allow_of_ok (c : Chip) (ag : AgentId) (a : Nat) (f : Chip → Chip) (hcut : c.cutOff ag = false)
    (hload : (c.hostWake ag).loadBars ag a = false) : c.allow true ag a f = f ((c.hostWake ag).answer []) := by
  simp [Chip.allow, hcut, hload]

/-- A write from an agent other than the host that may not make it is refused. -/
theorem allow_of_not_ok (c : Chip) (ag : AgentId) (a : Nat) (f : Chip → Chip) (hh : isHost ag = false) :
    c.allow false ag a f = (c.refuse ag true a).denied ag 0 := by
  simp [Chip.allow, cutOff_of_not_host c ag hh, hostWake_of_not_host c ag hh]

/-! ### What a refused write changes (R24, R475) -/

/-- A write of `ag` to `a` completes with an error response, and what it changes between `c` and `c'` is the guard's record of it. -/
def WriteRefused (c c' : Chip) (ag : AgentId) (a : Nat) : Prop :=
  c'.resp = ⟨[], true⟩ ∧ c'.get GRD_VINFO.AGENT = ag.toNat ∧ c'.get GRD_VINFO.DIR = 1 ∧ c'.rd GRD_VADDR.reg = BitVec.ofNat 32 a ∧
  (∀ reg, reg ∉ [GRD_VCNT.reg, GRD_VINFO.reg, GRD_VADDR.reg, GRD_STAT.reg] → c'.rd reg = c.rd reg) ∧
  c'.mem = c.mem ∧ c'.tasks = c.tasks ∧ c'.phys = c.phys ∧ c'.img = c.img ∧ c'.sys = c.sys

theorem denied_get (c : Chip) (ag : AgentId) (n : Nat) (f : Fld) : (c.denied ag n).get f = c.get f := rfl

theorem denied_rd (c : Chip) (ag : AgentId) (n a : Nat) : (c.denied ag n).rd a = c.rd a := rfl

theorem writeRefused_denied (c : Chip) (ag : AgentId) (a : Nat) (h : spWf regReset c.regs = true) (hh : isHost ag = false) :
    WriteRefused c ((c.refuse ag true a).denied ag 0) ag a := by
  have hf := recordRefusal_frame c ag true a true none
  simp only [WriteRefused, denied_get, denied_rd, Chip.refuse]
  refine ⟨by simp [Chip.denied, hh], recordRefusal_get_agent _ _ _ _ _ _ h, recordRefusal_get_dir _ _ _ _ _ _ h,
    recordRefusal_rd_vaddr _ _ _ _ _ _ h, fun reg hreg => recordRefusal_rd _ _ _ _ _ _ _ hreg (by simp [hh]), ?_⟩
  rw [hf]
  exact ⟨rfl, rfl, rfl, rfl, rfl⟩

/-! ### The guard of SYS_CMD -/

/-- An agent whose writes to SYS_CMD the guard admits (R53): MC0, MC1 or the host. -/
abbrev WritesSysCmd (ag : AgentId) : Prop := ag = 0x01 ∨ ag = 0x02 ∨ ag = 0x40

theorem mcOrHost_iff (ag : AgentId) : (isMc ag || isHost ag) = true ↔ WritesSysCmd ag := by
  simp [WritesSysCmd, isMc, isHost, or_assoc]

theorem mcOrHost_eq_false (ag : AgentId) (h : ¬ WritesSysCmd ag) : (isMc ag || isHost ag) = false := by
  rwa [← mcOrHost_iff, Bool.not_eq_true] at h

theorem isHost_eq_false_of_not_writer (ag : AgentId) (h : ¬ WritesSysCmd ag) : isHost ag = false := by
  have := mcOrHost_eq_false ag h
  simp only [Bool.or_eq_false_iff] at this
  exact this.2

/-- The host reaches SYS_CMD in LOAD too (R334). -/
theorem loadBars_sysCmd (c : Chip) (ag : AgentId) : c.loadBars ag SYS_CMD.reg = false := by
  have hsys : hostInLoad SYS_CMD.reg = true := by decide
  simp [Chip.loadBars, hsys]

/-- What an admitted command does to the chip `u` that its write has reached: the key, what pre-empts it and a transition in progress come
before its effect (R29, R32, R33). -/
def admittedSysCmd (u : Chip) (code : Nat) (w : Cmd) (f : Chip → Chip) : Chip :=
  let d := u.put SYS_CMDSTAT.LASTCMD code
  if SYS_CMD.KEY.of w.value ≠ 0xC3A5 then d.cmdErr 1
  else if w.preempted then d.cmdErr 5
  else if d.flag SYS_MODE.TRANS then d.cmdErr 3
  else f d

theorem sysCmd_of_admitted (s : State) (code : Nat) (w : Cmd) (f : Chip → Chip) (hw : WritesSysCmd w.agent)
    (hr : isHost w.agent = true → HostReaches s) : s.chip.sysCmd code w f = admittedSysCmd (written s w) code w f := by
  have hcut : (s.chip.arrive w.now).cutOff w.agent = false := cutOff_came s w.agent .bus w.now ⟨rfl, hr⟩
  rw [Chip.sysCmd, (mcOrHost_iff w.agent).2 hw, allow_of_ok _ _ _ _ hcut (loadBars_sysCmd _ _)]
  rfl

theorem sysCmd_of_not_admitted (c : Chip) (code : Nat) (w : Cmd) (f : Chip → Chip) (hw : ¬ WritesSysCmd w.agent) :
    c.sysCmd code w f = ((c.arrive w.now).refuse w.agent true SYS_CMD.reg).denied w.agent 0 := by
  rw [Chip.sysCmd, mcOrHost_eq_false w.agent hw, allow_of_not_ok _ _ _ _ (isHost_eq_false_of_not_writer w.agent hw)]

/-! ### The six commands -/

/-- The commands of SYS_CMD, each with its code and its effect (R29). -/
def sysCommands : List ((Cmd → Instr) × Nat × (Chip → Chip)) :=
  [(.sysStop, 1, Chip.sysStop), (.sysRunCold, 2, fun c => c.sysRun false), (.sysRunWarm, 3, fun c => c.sysRun true),
   (.sysIntermission, 4, Chip.sysIntermission), (.sysLeaveSafehold, 5, Chip.sysLeave),
   (.sysSoftwareReset, 6, fun c => c.pinReset SYS_RSTCAUSE.SW)]

theorem exec_sysCommand (i : (Cmd → Instr) × Nat × (Chip → Chip)) (hi : i ∈ sysCommands) (w : Cmd) (s : State) :
    exec (i.1 w) s = s.on fun c => c.sysCmd i.2.1 w i.2.2 := by
  simp only [sysCommands, List.mem_cons, List.not_mem_nil, or_false] at hi
  obtain rfl | rfl | rfl | rfl | rfl | rfl := hi <;> rfl

/-! ### SYS_CMD written as a register -/

theorem arrive_own_tb (c : Chip) : c.arrive c.tb = c := by simp [Chip.arrive]

/-- A register write to SYS_CMD is a command, except from the debug port while it is locked (R481). -/
theorem regWrite_sysCmd (c : Chip) (w : Cmd) :
    c.regWrite SYS_CMD.reg w = if w.agent = 0x41 ∧ c.get GRD_DBG.DBGST = 0 then (c.refuse w.agent true SYS_CMD.reg).denied w.agent 0
      else c.sysCmdWrite (Cmd.kept w SYS_CMD.reg) := by
  have hblock : SYS_CMD.reg / 0x10000 = 0x4000 := by decide
  have hgrd : (0x4000 : Nat) ≠ 0x4013 := by decide
  simp only [Chip.regWrite, hblock, Chip.wrSys, ite_true, hgrd, ne_eq, not_false_eq_true, decide_true, Bool.and_true, Bool.and_eq_true,
    decide_eq_true_eq]
  rfl

theorem regWrite_sysCmd_of_not_admitted (c : Chip) (w : Cmd) (hw : ¬ WritesSysCmd w.agent) (hnow : w.now = c.tb) :
    c.regWrite SYS_CMD.reg w = (c.refuse w.agent true SYS_CMD.reg).denied w.agent 0 := by
  have hkept : ¬ WritesSysCmd (Cmd.kept w SYS_CMD.reg).agent := hw
  rw [regWrite_sysCmd, Chip.sysCmdWrite, sysCmd_of_not_admitted _ _ _ _ hkept]
  simp [Cmd.kept, hnow, arrive_own_tb]

theorem busWrite_sysCmd_of_not_admitted (c : Chip) (ag : AgentId) (l : List Byte) (sets : Word) (hl : l.length = 4) (hw : ¬ WritesSysCmd ag) :
    c.busWrite ag SYS_CMD.reg l sets = (c.refuse ag true SYS_CMD.reg).denied ag 0 := by
  rw [busWrite_of_word c ag _ l sets (isHost_eq_false_of_not_writer ag hw) (by decide) (by decide) hl]
  exact regWrite_sysCmd_of_not_admitted c _ hw rfl

/-- Settles O55: the six commands and a register write all pass the guard of SYS_CMD, which lets MC0, MC1 and the host through to the command
and answers any other agent with its record alone. -/
theorem sysCmdIsWrittenByCoresAndHostAlone : Obligations.SysCmdIsWrittenByCoresAndHostAlone := by
  unfold Obligations.SysCmdIsWrittenByCoresAndHostAlone
  intro s w r u refused admitted rows hc hp
  have hrefused (now : Time) (ag : AgentId) (hag : ¬ WritesSysCmd ag) :
      refused now ag (((came s now).refuse ag true SYS_CMD.reg).denied ag 0) :=
    writeRefused_denied (came s now) ag SYS_CMD.reg (by simpa [came] using hc.2.1) (isHost_eq_false_of_not_writer ag hag)
  refine ⟨?_, ?_, ?_⟩
  · intro i hi hw hr d
    have hexec : exec (i.1 w) s = .next (at_ s (admittedSysCmd u i.2.1 w i.2.2)) := by
      rw [exec_sysCommand i hi, on_powered s _ hp, sysCmd_of_admitted s _ w _ hw hr]
    refine ⟨fun hkey => ?_, fun hkey => .inr ?_⟩
    · rw [hexec, admittedSysCmd, if_neg (not_not.2 hkey)]
    · rw [hexec, admittedSysCmd, if_pos hkey]
  · intro i hi hw
    refine ⟨_, (exec_sysCommand i hi w s).trans (on_powered s _ hp), rfl, ?_⟩
    rw [sysCmd_of_not_admitted _ _ _ _ hw]
    exact hrefused w.now w.agent hw
  · intro hvia hwrite hsize haddr hw
    refine ⟨_, exec_registerWrite_bus s hp r hvia, rfl, ?_⟩
    rw [if_pos hwrite, haddr, busWrite_sysCmd_of_not_admitted _ _ _ _ (by simp [hsize]) hw]
    exact hrefused r.now r.agent hw

end Sys2Proof.Proofs.SysCommand
end

section
/-! The bounds check CHK (R106): its meaning from its two limits, and what a SINGLE task does when an instruction raises an exception. -/

namespace Sys2Proof.Proofs.BoundsCheck

open Sys2Proof.Machine Sys2Proof.Safety Sys2Proof.Laws

/-! ### An instruction that raises an exception -/

/-- An instruction of a SINGLE task that executes and raises an exception: the activation ends with it, and nothing takes effect (R80). -/
theorem issueLe_single_error (c : Chip) (e : Fin 16) (opc : Nat) (o : Op) (sem : Sem) (t : Fin 32) (p : Fin 18) (ex : Exc)
    (hcan : c.canIssue e = some (t, p)) (hfetch : c.fetchExc p opc o (c.task t).ctx.pc = none)
    (hcond : condHolds o.cond (c.task t).ctx.flg (c.task t).ctx.ba = true) (hsingle : (c.task t).paired = false) (hecc : o.ecc = .ok)
    (hwait : (c.task t).waiting = false) (hadm : needsAdmission opc o.opd (c.task t).ctx = false)
    (hsem : sem (c.kin t p false false opc o.am o.opd o.ext (c.task t).ctx) = .error ex) :
    c.issueLe e opc o sem = c.raiseLe p t ex := by
  have hgate : c.gate e opc o = (.runs t p (c.task t).sctx.compl, c) := by
    simp [Chip.gate, hcan, hfetch, hcond, hsingle]
  have hunc : (Ecc.ok == Ecc.uncorrectable) = false := rfl
  have hcor : (Ecc.ok == Ecc.corrected) = false := rfl
  simp [Chip.issueLe, hgate, hadm, hwait, hecc, hunc, hcor, hsem]

/-- An exception other than a refused access and an uncorrectable read goes straight to the task (R80, R299, R475). -/
theorem raiseLe_plain (c : Chip) (p : Fin 18) (t : Fin 32) (code : Nat) (addr : Word) (hcode : code ≠ 0x0B) :
    c.raiseLe p t ⟨code, addr, none⟩ = c.except t ⟨code, addr, none⟩ := by
  simp [Chip.raiseLe, hcode]

/-- A command whose arm issues `sem`, for a SINGLE task, when `sem` raises an exception. -/
theorem runs_error (i : Op → Instr) (opc : Nat) (sem : Sem) (hx : ∀ o s, exec (i o) s = s.on fun c => c.issue opc o sem)
    (hna : ∀ opd x, needsAdmission opc opd x = false) (s : State) (o : Op) (e : Fin 16) (t : Fin 32) (p : Fin 18) (ex : Exc)
    (h : Runs s o opc e t p) (hsem : sem (view s o opc t p) = .error ex) :
    exec (i o) s = .next (at_ s ((issued s o).raiseLe p t ex)) := by
  obtain ⟨⟨hpow, hle, hecc, hcan, hfetch, hcond, hwait, -⟩, hsingle⟩ := h
  have hissue : s.chip.issue opc o sem = (issued s o).issueLe e opc o sem := by simp only [Chip.issue, hle, issued]
  rw [hx, on_powered s _ hpow, hissue,
    issueLe_single_error (issued s o) e opc o sem t p ex hcan hfetch hcond hsingle hecc hwait (hna _ _) hsem]

/-! ### CHK -/

/-- CHK takes the limits `lo` and `hi`: the halves of the extension word, sign-extended, in mode IMX, and else the two words at its operand's
address. -/
def ChkLimits (k : KIn) (lo hi : Word) : Prop :=
  if k.am = 1 then lo = (k.ext.setWidth 16).signExtend 32 ∧ hi = (k.ext.extractLsb' 16 16).signExtend 32
  else k.rd k.ea 8 = .ok (hi ++ lo)

/-- CHK with its limits in hand: the comparison that may raise 0x0A, and the registers as they are. -/
theorem semChk_eq_compare (k : KIn) (lo hi : Word) (h : ChkLimits k lo hi) :
    semChk k = raise (excIf (k.x.acc.toInt < lo.toInt || hi.toInt < k.x.acc.toInt) 0x0A) >>= fun _ => .ok { x := k.x, steps := 2 + k.sL } := by
  unfold ChkLimits at h
  split at h
  case isTrue himx =>
    obtain ⟨rfl, rfl⟩ := h
    simp only [semChk, himx, ite_true, pure_bind, BitVec.setWidth_append_eq_right, BitVec.extractLsb'_append_eq_left]
    rfl
  case isFalse hmem =>
    simp only [semChk, hmem, ite_false, h, bind, Except.bind, BitVec.setWidth_append_eq_right, BitVec.extractLsb'_append_eq_left]
    rfl

/-- CHK raises 0x0A outside its limits, and else leaves the registers as they are (R106). -/
theorem semChk_of_limits (k : KIn) (lo hi : Word) (h : ChkLimits k lo hi) :
    semChk k = if k.x.acc.toInt < lo.toInt ∨ hi.toInt < k.x.acc.toInt then .error ⟨0x0A, 0, none⟩ else .ok { x := k.x, steps := 2 + k.sL } := by
  rw [semChk_eq_compare k lo hi h, ← Bool.decide_or]
  split
  case isTrue hout => rw [decide_eq_true hout]; rfl
  case isFalse hin => rw [decide_eq_false hin]; rfl

theorem exec_chk (o : Op) (s : State) : exec (.chk o) s = s.on fun c => c.issue 0x1D o semChk := rfl

/-- Settles O4: CHK's meaning is one comparison with its limits, whose two answers the issue of a SINGLE task carries out. -/
theorem boundsCheckComparesWithItsLimits : Obligations.BoundsCheckComparesWithItsLimits := by
  unfold Obligations.BoundsCheckComparesWithItsLimits
  intro s o e t p lo hi x k limits hruns hlimits
  have hsem := semChk_of_limits k lo hi hlimits
  refine ⟨fun hlo hhi hbudget => ?_, fun hout => ?_⟩
  · have hin : ¬ (x.acc.toInt < lo.toInt ∨ hi.toInt < x.acc.toInt) := by omega
    exact runs_plain .chk 0x1D semChk exec_chk (fun _ _ => rfl) s o e t p _ hruns (hsem.trans (if_neg hin)) rfl rfl rfl (by simp) hbudget
  · rw [runs_error .chk 0x1D semChk exec_chk (fun _ _ => rfl) s o e t p _ hruns (hsem.trans (if_pos hout)),
      raiseLe_plain _ _ _ _ _ (by decide)]

end Sys2Proof.Proofs.BoundsCheck
end
